-- ==== Sys2Proof/Word.lean ====
section
/-! DEFINITION. The word types of the part: a byte of the Station Port or of an air frame, and the two- and
four-byte fields of the port (spec/11_formats_reference.md, R187). -/

namespace Sys2Proof

/-- A byte of the Station Port, or a character code 00h..FFh of a channel line. -/
abbrev Byte := BitVec 8

/-- A two-byte field of the Station Port, or a running sum of 16 bits. -/
abbrev Half := BitVec 16

/-- A four-byte field of the Station Port, or a value of the millisecond or accession counter. -/
abbrev Quad := BitVec 32

end Sys2Proof
end

