-- ==== Sys2Proof/Config.lean ====
section
/-! DEFINITION. What the part fixes once and for all (its sizes), and the free values: constants without a
body for the values that the spec leaves open. -/

namespace Sys2Proof.Config

/-- Blocks of the Text Store (R16). -/
def totalBlocks : Nat := 2048

/-- Entries of the Traffic Table (R1). -/
def totalEntries : Nat := 256

/-- Characters of one block (R16). -/
def blockSize : Nat := 32

/-- The longest body (R28, Table 1-1). -/
def maxText : Nat := 960

/-- Frames a control frame queue holds (R129). -/
def controlRoom : Nat := 4

/-- The value at which the 16-bit millisecond and second counts stop (R64, R101, R102). -/
def saturation : Nat := 65535

/-- FREE VALUE (note 3): which of the condition codes of Table 11-6 (0 off, 1 counting, 2 due) READ CHANNEL reports while
the channel's beacon is being keyed or sent, when it is neither off, counting nor due. -/
opaque beaconConditionOnAir : Nat → Fin 3

end Sys2Proof.Config
end

