-- ==== Sys2Proof/Syntax.lean ====
section
/-! DEFINITION. The commands of the part: one constructor for each row of spec/opcode_table.json, with the row's
operands. A request of the Station Port carries its parameters as the port carries them, field by field (Table 11-3):
the checks of R179 are the meanings', not the syntax's. -/

namespace Sys2Proof

/-- A channel, 0..3. -/
abbrev Chan := Fin 4

/-- A Traffic Table handle, 0..255 (R1). -/
abbrev Handle := Fin 256

/-- A Station Directory index, 0..63 (R52). -/
abbrev Index := Fin 64

/-- A call field of the Station Port: eight bytes of character codes (R187). -/
abbrev CallField := Vector Byte 8

/-- The settings block of SET CHANNEL as the frame carries it, in its order (section 11.2). -/
structure SettingsBlock where
  divisor : Half
  parity : Byte
  stopBits : Byte
  source : Byte
  polarity : Byte
  jamLimit : Byte
  keyUpField : Byte
  turnField : Byte
  slotField : Byte
  stagger : Byte
  retryBase : Byte
  beaconInterval : Half
  period : Quad
  offset : Quad
  length : Quad
  deriving DecidableEq, Repr

/-- The parameters of SET OWN as the frame carries them: the given mask and the 24 bytes after it (Table 11-3). -/
structure OwnBlock where
  mask : Half
  call : CallField
  defaultRoute : Byte
  enterEntries : Byte
  enterBlocks : Half
  leaveEntries : Half
  leaveBlocks : Half
  holdTime : Half
  holdCutoff : Byte
  reholdMode : Byte
  releaseMode : Byte
  reholdLead : Byte
  fullBackoff : Half
  deriving DecidableEq, Repr

/-- The parameters of SET STATION as the frame carries them (Table 11-3). -/
structure StationBlock where
  index : Byte
  call : CallField
  channel : Byte
  kind : Byte
  relay : Byte
  fallback : Byte
  netControl : Byte
  interval : Half
  sensitivity : Byte
  deriving DecidableEq, Repr

/-- The bits of a character after its start bit: the eight data bits, the parity bit (disregarded on a channel without
parity) and the first stop bit; a set bit is mark (R94 to R96). -/
structure CharBits where
  data : Byte
  parityBit : Bool
  stopBit : Bool
  deriving DecidableEq, Repr

/-- A character as the line RXDn brings it to the sampler: the levels that samples 7, 8 and 9 of each of its bits read
(R95). -/
structure Sampled where
  sample7 : CharBits
  sample8 : CharBits
  sample9 : CharBits
  deriving DecidableEq, Repr

/-- The commands: one constructor for each row of spec/opcode_table.json, in the table's order. -/
inductive Instr where
  | file (precedence : Byte) (destination : CallField) (body : List Byte)
  | readEntry (handle : Byte)
  | readText (handle : Byte) (offset count : Half)
  | find (origin : CallField) (serial : Half)
  | nextChanged
  | listQueue (selector : Byte) (start : Half)
  | amend (handle precedence : Byte) (destination : CallField)
  | cancel (handle : Byte)
  | renew (handle : Byte)
  | retire (handle : Byte)
  | setStation (p : StationBlock)
  | readStation (index : Byte)
  | dropStation (index : Byte)
  | forceStation (index mark : Byte)
  | setChannel (channel : Byte) (p : SettingsBlock)
  | readChannel (channel : Byte)
  | enableChannel (channel : Byte)
  | disableChannel (channel : Byte)
  | abortChannel (channel : Byte)
  | setClass (precedence retryLimit baseWait : Byte)
  | setOwn (p : OwnBlock)
  | readStatus
  | setClock (second : Quad)
  | readClock
  | clearChannels
  | clearAll
  | readFrame
  | badFrame
  | powerOn
  | resetPin
  | goodCharacter (c : Chan) (x : Sampled)
  | characterError (c : Chan) (x : Sampled)
  | breakReceived (c : Chan)
  | cdInputChange (c : Chan) (level : Bool)
  | millisecondAdvance
  | quantum
  | timeBaseSecond
  | clockSecond
  | windowOpenEvent (c : Chan)
  | windowCloseEvent (c : Chan)
  | keyUp (c : Chan)
  | keyUpDelayEnd (c : Chan)
  | frameEnd (c : Chan)
  | breakEnd (c : Chan)
  | receiptTimeout (c : Chan)
  | retryWaitExpiry (h : Handle)
  | beaconDue (c : Chan)
  | holdExpiry (i : Index)
  | silenceExpiry (c : Chan)
  | reHoldExpiry (c : Chan)
  | gapExpiry (c : Chan)
  | jammed (c : Chan)
  | heardAgeOverLimit (i : Index)
  | startBit (c : Chan) (markSeen : Bool)
  | shortPulse (c : Chan) (s7 s8 s9 : Bool)
  | lineRecoveryEnd (c : Chan)
  deriving DecidableEq, Repr

end Sys2Proof
end

