-- ==== Sys2Proof/WellFormed.lean ====
section
/-! DEFINITION. Which commands the part can be given. The types of the operands carry every bound of the port's
layouts but one: the body of FILE, whose frame holds at most 1,031 bytes of it (R176). -/

namespace Sys2Proof

/-- The longest FILE body that a request frame can carry: 1,040 parameter bytes less the nine fixed ones (R176). -/
def maxFramedBody : Nat := 1031

/-- A command that a selection, a line or the Time Base can give the part. -/
def Instr.wellFormed : Instr → Bool
  | .file _ _ body => body.length ≤ maxFramedBody
  | _ => true

/-- A command that a request frame of the Station Port carries (R175): a row of Table 11-3. -/
def Instr.isRequest : Instr → Bool
  | .file _ _ _ | .readEntry _ | .readText _ _ _ | .find _ _ | .nextChanged | .listQueue _ _ | .amend _ _ _
  | .cancel _ | .renew _ | .retire _ | .setStation _ | .readStation _ | .dropStation _ | .forceStation _ _
  | .setChannel _ _ | .readChannel _ | .enableChannel _ | .disableChannel _ | .abortChannel _ | .setClass _ _ _
  | .setOwn _ | .readStatus | .setClock _ | .readClock | .clearChannels | .clearAll => true
  | _ => false

end Sys2Proof
end

