-- ==== Sys2Proof/Decode.lean ====
section
/-! DEFINITION. From the bytes of a selection to the command that it is (R175, R176, Table 11-3), and back: the
request frame that carries a command. The table's rows give no bits, so `decodeTableWord` spells none. -/

namespace Sys2Proof

/-- What is clocked between a fall of SPCS and the next rise: the whole bytes, the bits after the last whole byte,
and whether RESET was asserted during it (R175). -/
structure Selection where
  bytes : List Byte
  extraBits : Nat := 0
  resetAsserted : Bool := false
  deriving DecidableEq, Repr

/-- The read code (R175, section 11.2). -/
def readCode : Byte := 0xA5

/-- The most parameter bytes of a request frame (R175). -/
def maxParameters : Nat := 1040

/-- The byte at an offset of the parameters. -/
def byteAt (p : List Byte) (i : Nat) : Byte := p.getD i 0

/-- The two-byte field at an offset, most significant byte first (R175). -/
def halfAt (p : List Byte) (i : Nat) : Half := byteAt p i ++ byteAt p (i + 1)

/-- The four-byte field at an offset, most significant byte first (R175). -/
def quadAt (p : List Byte) (i : Nat) : Quad := halfAt p i ++ halfAt p (i + 2)

/-- The eight-byte call field at an offset (R187). -/
def callAt (p : List Byte) (i : Nat) : CallField :=
  #v[byteAt p i, byteAt p (i + 1), byteAt p (i + 2), byteAt p (i + 3),
     byteAt p (i + 4), byteAt p (i + 5), byteAt p (i + 6), byteAt p (i + 7)]

/-- The bytes of a two-byte field, most significant first (R175). -/
def halfBytes (w : Half) : List Byte := [w.extractLsb' 8 8, w.extractLsb' 0 8]

/-- The bytes of a four-byte field, most significant first (R175). -/
def quadBytes (w : Quad) : List Byte := halfBytes (w.extractLsb' 16 16) ++ halfBytes (w.extractLsb' 0 16)

/-- The settings block at an offset (section 11.2). -/
def settingsAt (p : List Byte) (i : Nat) : SettingsBlock where
  divisor := halfAt p i
  parity := byteAt p (i + 2)
  stopBits := byteAt p (i + 3)
  source := byteAt p (i + 4)
  polarity := byteAt p (i + 5)
  jamLimit := byteAt p (i + 6)
  keyUpField := byteAt p (i + 7)
  turnField := byteAt p (i + 8)
  slotField := byteAt p (i + 9)
  stagger := byteAt p (i + 10)
  retryBase := byteAt p (i + 11)
  beaconInterval := halfAt p (i + 12)
  period := quadAt p (i + 14)
  offset := quadAt p (i + 18)
  length := quadAt p (i + 22)

/-- The bytes of a settings block, in its order (section 11.2). -/
def settingsBytes (b : SettingsBlock) : List Byte :=
  halfBytes b.divisor ++ [b.parity, b.stopBits, b.source, b.polarity, b.jamLimit, b.keyUpField, b.turnField,
    b.slotField, b.stagger, b.retryBase] ++ halfBytes b.beaconInterval ++ quadBytes b.period ++
    quadBytes b.offset ++ quadBytes b.length

/-- The parameters of SET OWN (Table 11-3). -/
def ownAt (p : List Byte) : OwnBlock where
  mask := halfAt p 0
  call := callAt p 2
  defaultRoute := byteAt p 10
  enterEntries := byteAt p 11
  enterBlocks := halfAt p 12
  leaveEntries := halfAt p 14
  leaveBlocks := halfAt p 16
  holdTime := halfAt p 18
  holdCutoff := byteAt p 20
  reholdMode := byteAt p 21
  releaseMode := byteAt p 22
  reholdLead := byteAt p 23
  fullBackoff := halfAt p 24

/-- The bytes of SET OWN's parameters (Table 11-3). -/
def ownBytes (b : OwnBlock) : List Byte :=
  halfBytes b.mask ++ b.call.toList ++ [b.defaultRoute, b.enterEntries] ++ halfBytes b.enterBlocks ++
    halfBytes b.leaveEntries ++ halfBytes b.leaveBlocks ++ halfBytes b.holdTime ++
    [b.holdCutoff, b.reholdMode, b.releaseMode, b.reholdLead] ++ halfBytes b.fullBackoff

/-- The parameters of SET STATION (Table 11-3). -/
def stationAt (p : List Byte) : StationBlock where
  index := byteAt p 0
  call := callAt p 1
  channel := byteAt p 9
  kind := byteAt p 10
  relay := byteAt p 11
  fallback := byteAt p 12
  netControl := byteAt p 13
  interval := halfAt p 14
  sensitivity := byteAt p 16

/-- The bytes of SET STATION's parameters (Table 11-3). -/
def stationBytes (b : StationBlock) : List Byte :=
  [b.index] ++ b.call.toList ++ [b.channel, b.kind, b.relay, b.fallback, b.netControl] ++ halfBytes b.interval ++
    [b.sensitivity]

/-- A request of fixed layout: the command when the parameters have exactly its length (R176). -/
def fixedLayout (p : List Byte) (length : Nat) (i : Instr) : Option Instr :=
  if p.length = length then some i else none

/-- The request that a code and its parameters name, `none` where the code names no request or the length does not
fit its layout (R176, Table 11-3). -/
def decodeRequest (code : Byte) (p : List Byte) : Option Instr :=
  match code with
  | 0x10 => if 9 ≤ p.length then some (.file (byteAt p 0) (callAt p 1) (p.drop 9)) else none
  | 0x11 => fixedLayout p 1 (.readEntry (byteAt p 0))
  | 0x12 => fixedLayout p 5 (.readText (byteAt p 0) (halfAt p 1) (halfAt p 3))
  | 0x13 => fixedLayout p 10 (.find (callAt p 0) (halfAt p 8))
  | 0x14 => fixedLayout p 0 .nextChanged
  | 0x15 => fixedLayout p 3 (.listQueue (byteAt p 0) (halfAt p 1))
  | 0x16 => fixedLayout p 10 (.amend (byteAt p 0) (byteAt p 1) (callAt p 2))
  | 0x17 => fixedLayout p 1 (.cancel (byteAt p 0))
  | 0x18 => fixedLayout p 1 (.renew (byteAt p 0))
  | 0x19 => fixedLayout p 1 (.retire (byteAt p 0))
  | 0x20 => fixedLayout p 17 (.setStation (stationAt p))
  | 0x21 => fixedLayout p 1 (.readStation (byteAt p 0))
  | 0x22 => fixedLayout p 1 (.dropStation (byteAt p 0))
  | 0x23 => fixedLayout p 2 (.forceStation (byteAt p 0) (byteAt p 1))
  | 0x30 => fixedLayout p 27 (.setChannel (byteAt p 0) (settingsAt p 1))
  | 0x31 => fixedLayout p 1 (.readChannel (byteAt p 0))
  | 0x32 => fixedLayout p 1 (.enableChannel (byteAt p 0))
  | 0x33 => fixedLayout p 1 (.disableChannel (byteAt p 0))
  | 0x34 => fixedLayout p 1 (.abortChannel (byteAt p 0))
  | 0x38 => fixedLayout p 3 (.setClass (byteAt p 0) (byteAt p 1) (byteAt p 2))
  | 0x40 => fixedLayout p 26 (.setOwn (ownAt p))
  | 0x50 => fixedLayout p 0 .readStatus
  | 0x51 => fixedLayout p 4 (.setClock (quadAt p 0))
  | 0x52 => fixedLayout p 0 .readClock
  | 0x5E => fixedLayout p 0 .clearChannels
  | 0x5F => fixedLayout p 0 .clearAll
  | _ => none

/-- The command that a selection is (R175 to R177): `none` for a selection that has no effect at all, a read frame
where the first byte is the read code, a request where the frame is well formed, and a bad frame otherwise. -/
def decodeSelection (x : Selection) : Option Instr :=
  if x.resetAsserted then none
  else match x.bytes with
    | [] => none
    | code :: rest =>
      if code = readCode then some .readFrame
      else
        let p := rest.drop 2
        let stated := (halfAt rest 0).toNat
        if x.extraBits = 0 ∧ 2 ≤ rest.length ∧ stated ≤ maxParameters ∧ p.length = stated then
          some ((decodeRequest code p).getD .badFrame)
        else some .badFrame

/-- The request code and the parameters of a request (Table 11-3); `none` for a command that no request frame
carries. -/
def requestParts : Instr → Option (Byte × List Byte)
  | .file p d body => some (0x10, p :: (d.toList ++ body))
  | .readEntry h => some (0x11, [h])
  | .readText h o n => some (0x12, h :: (halfBytes o ++ halfBytes n))
  | .find o n => some (0x13, o.toList ++ halfBytes n)
  | .nextChanged => some (0x14, [])
  | .listQueue q n => some (0x15, q :: halfBytes n)
  | .amend h p d => some (0x16, h :: p :: d.toList)
  | .cancel h => some (0x17, [h])
  | .renew h => some (0x18, [h])
  | .retire h => some (0x19, [h])
  | .setStation b => some (0x20, stationBytes b)
  | .readStation i => some (0x21, [i])
  | .dropStation i => some (0x22, [i])
  | .forceStation i m => some (0x23, [i, m])
  | .setChannel c b => some (0x30, c :: settingsBytes b)
  | .readChannel c => some (0x31, [c])
  | .enableChannel c => some (0x32, [c])
  | .disableChannel c => some (0x33, [c])
  | .abortChannel c => some (0x34, [c])
  | .setClass p r w => some (0x38, [p, r, w])
  | .setOwn b => some (0x40, ownBytes b)
  | .readStatus => some (0x50, [])
  | .setClock n => some (0x51, quadBytes n)
  | .readClock => some (0x52, [])
  | .clearChannels => some (0x5E, [])
  | .clearAll => some (0x5F, [])
  | _ => none

/-- The request frame that carries a request: its code, its parameter length and its parameters (R175). -/
def encodeRequest (i : Instr) : List Byte :=
  match requestParts i with
  | some (code, p) => code :: (halfBytes (BitVec.ofNat 16 p.length) ++ p)
  | none => []

/-- The command that a word spells by the table's bits: the table gives no row any bits, so none. -/
def decodeTableWord (_nbits _w : Nat) : Option Instr := none

end Sys2Proof
end

