-- ==== Sys2Proof/Machine/State.lean ====
section
/-! DEFINITION. The state of the part as plain data, every piece that the spec names, and its value after power-on or
the RESET pin (`State.reset`). Fields that are the model's own, not the spec's, say so. -/

namespace Sys2Proof.Machine

/-- The reasons for which a step faults: none. The spec gives every command an effect, so nothing raises a fault. -/
inductive Fault where
  deriving DecidableEq, Repr

/-- The reasons for which a step is refused. -/
inductive Refusal where
  /-- Raised by `exec` for a command that has no meaning yet, and by nothing else; safe. -/
  | notModelled (mnemonic : String)
  deriving DecidableEq, Repr

/-! ## Messages (Chapters 1 and 2) -/

/-- A call: its characters, one to eight of A–Z, 0–9 and "/", without padding (R112). The empty list stands for the
empty own call (R54). -/
abbrev Call := List Byte

/-- Entry states (Table 1-2). -/
inductive EntryState where
  | free | spent | receiving | ready | engaged | retryWait | sent | refused | failed | cancelled | arrived
  deriving DecidableEq, Repr

/-- Roles of an entry (R3). -/
inductive Role where
  | originated | localDelivery | relay
  deriving DecidableEq, Repr

/-- Last outcomes (Table 1-1). -/
inductive LastOutcome where
  | none | confirmed | confirmedDuplicate | confirmedLate | noroute | full | noReceipt | withdrawn | aborted | oversize
  deriving DecidableEq, Repr

/-- Receipt verdicts (R44, R111). -/
inductive Verdict where
  | accept | duplicate | noroute | full
  deriving DecidableEq, Repr

/-- A message key (R14). -/
structure Key where
  call : Call
  serial : Nat
  deriving DecidableEq, Repr

/-- An entry of the Traffic Table (Table 1-1). A field that is absent in the entry's state (Table 1-3) holds no value:
`none` where it is an Option, and the value of `Entry.free` elsewhere. -/
structure Entry where
  state : EntryState
  role : Role
  key : Key
  accession : Quad
  precedence : Fin 8
  destination : Call
  filedTime : Nat
  textLength : Nat
  blockCount : Nat
  /-- The characters that the entry's chain of blocks holds so far (R16, R17). -/
  text : List Byte
  receivedFrom : Option Call
  nextHop : Option Index
  lastHop : Option Call
  attemptCount : Nat
  notBefore : Option Quad
  lastOutcome : LastOutcome
  cancelPending : Option Bool
  changed : Bool
  deriving DecidableEq, Repr

/-- A FREE entry: every field absent, the changed flag no (Table 1-3). -/
def Entry.free : Entry where
  state := .free
  role := .originated
  key := ⟨[], 0⟩
  accession := 0
  precedence := 0
  destination := []
  filedTime := 0
  textLength := 0
  blockCount := 0
  text := []
  receivedFrom := none
  nextHop := none
  lastHop := none
  attemptCount := 0
  notBefore := none
  lastOutcome := .none
  cancelPending := none
  changed := false

/-! ## Stations (Chapter 3) -/

/-- The kind of a station, with the relay of a VIA station (R53). -/
inductive Kind where
  | direct
  | via (relay : Index)
  deriving DecidableEq, Repr

/-- Reach states (R64 to R66). -/
inductive Reach where
  | heard | unheard
  deriving DecidableEq, Repr

/-- A station record (Table 3-1). -/
structure Station where
  call : Call
  channel : Chan
  kind : Kind
  fallback : Option Index
  netControl : Bool
  interval : Nat
  sensitivity : Fin 8
  forcedUnheard : Bool
  reach : Reach
  heardAge : Nat
  confirmCount : Nat
  holdRemaining : Nat
  holdCutoff : Fin 8
  /-- MODEL'S OWN (note 2): an advance of the heard age went over the enter limit; HEARD_AGE_OVER_LIMIT takes it. -/
  overLimitDue : Bool
  /-- MODEL'S OWN (note 2): the hold reached 0 at a quantum; HOLD_EXPIRY takes it. -/
  holdEndDue : Bool
  deriving DecidableEq, Repr

/-- The own-station record (Table 3-2). -/
structure OwnStation where
  call : Call
  defaultRoute : Option Index
  enterEntries : Nat
  enterBlocks : Nat
  leaveEntries : Nat
  leaveBlocks : Nat
  holdTime : Nat
  holdCutoff : Fin 8
  reholdMode : Bool
  releaseMode : Bool
  reholdLead : Nat
  fullBackoff : Nat
  deriving DecidableEq, Repr

/-- The own-station record after a reset (Table 3-2). -/
def OwnStation.reset : OwnStation where
  call := []
  defaultRoute := none
  enterEntries := 16
  enterBlocks := 128
  leaveEntries := 32
  leaveBlocks := 256
  holdTime := 600
  holdCutoff := 4
  reholdMode := true
  releaseMode := true
  reholdLead := 50
  fullBackoff := 300

/-- The congestion state (R83). -/
inductive Congestion where
  | normal | congested
  deriving DecidableEq, Repr

/-! ## Channels (Chapters 4 to 9) -/

/-- Parity settings (R94). -/
inductive Parity where
  | none | even | odd
  deriving DecidableEq, Repr

/-- Carrier sources (R100). -/
inductive Source where
  | cd | activity | either
  deriving DecidableEq, Repr

/-- CD polarities (R100). -/
inductive Polarity where
  | activeHigh | activeLow
  deriving DecidableEq, Repr

/-- The settings of a channel as stored (Table 10-2). -/
structure Settings where
  divisor : Nat
  parity : Parity
  twoStops : Bool
  source : Source
  polarity : Polarity
  jamLimit : Nat
  keyUpField : Nat
  turnField : Nat
  slotField : Nat
  stagger : Nat
  retryBase : Nat
  beaconInterval : Nat
  period : Nat
  offset : Nat
  length : Nat
  deriving DecidableEq, Repr

/-- The settings after a reset (Table 10-2). -/
def Settings.reset : Settings where
  divisor := 63
  parity := .none
  twoStops := false
  source := .either
  polarity := .activeHigh
  jamLimit := 30
  keyUpField := 30
  turnField := 20
  slotField := 10
  stagger := 0
  retryBase := 10
  beaconInterval := 600
  period := 0
  offset := 0
  length := 0

/-- The character sampler (R95 to R97). `awaitMark`: after a framing error the next start bit is recognised only once
a sample has read mark (R96). -/
inductive Sampler where
  | stopped
  | lineRecovery
  | lineIdle (awaitMark : Bool)
  | character
  deriving DecidableEq, Repr

/-- Receiver states (Table 6-2). -/
inductive Phase where
  | hunt | head | body | tail
  deriving DecidableEq, Repr

/-- Frame kinds (Table 6-1). -/
inductive FrameKind where
  | traffic | receipt | hold | beacon
  deriving DecidableEq, Repr

/-- The receive record of a channel (Table 6-2). -/
structure Receiver where
  phase : Phase
  kind : Option FrameKind
  position : Nat
  /-- The header characters as received, the SOH left out. -/
  header : List Byte
  sum : Half
  bodyRemaining : Nat
  reservation : Option Handle
  owed : Option Verdict
  gap : Nat
  /-- The check characters taken in TAIL (R123). -/
  check : List Byte
  deriving DecidableEq, Repr

/-- HUNT: every other field of the receive record absent (R116). -/
def Receiver.hunt : Receiver where
  phase := .hunt
  kind := none
  position := 0
  header := []
  sum := 0
  bodyRemaining := 0
  reservation := none
  owed := none
  gap := 0
  check := []

/-- A control frame (R129): a queued receipt (R128), or an own HOLD with its time and cutoff; an own HOLD of time 0 is
an own release (R85). -/
inductive ControlFrame where
  | receipt (toCall : Call) (key : Key) (verdict : Verdict)
  | ownHold (time : Nat) (cutoff : Fin 8)
  deriving DecidableEq, Repr

/-- The owed mark of a channel, when it is set (R86). -/
inductive Owed where
  | hold | release
  deriving DecidableEq, Repr

/-- The kinds of claimant, highest rank first (R133). -/
inductive Claimant where
  | control | beacon | traffic
  deriving DecidableEq, Repr

/-- What the radio has been keyed for: a control frame that has left its queue (R129), a beacon, or the channel's
exchange. -/
inductive OnAir where
  | control (f : ControlFrame)
  | beacon
  | traffic
  deriving DecidableEq, Repr

/-- The transmitter of a channel (Table 7-1). The place reached in a frame is kept as the milliseconds counted since
its first start bit, and a break as its bit time and the rest of the bit that it cut (both in 1/384 ms), the milliseconds
counted since the cut, and the level of the cut bit, `true` mark (R98, note 5). -/
inductive Transmitter where
  | idle
  | clearing (claimant : Claimant) (wait : Nat)
  | keying (what : OnAir) (remaining : Nat)
  | sending (what : OnAir) (frame : List Byte) (elapsed : Nat)
  | brk (bitUnits : Nat) (rest : Nat) (elapsed : Nat) (level : Bool)
  deriving DecidableEq, Repr

/-- The exchange engine and its record (Table 7-3), the abort pause apart. -/
inductive Engine where
  | idle
  | staged (entry : Handle) (wait need : Nat)
  | sending (entry : Handle) (recorded : Option Verdict)
  | awaiting (entry : Handle) (timer : Nat)
  deriving DecidableEq, Repr

/-- The beacon of a channel (R138). `onAir`: it has been keyed and its frame has not ended, when it is neither due nor
counting. -/
inductive Beacon where
  | off
  | counting (start : Quad)
  | due
  | onAir
  deriving DecidableEq, Repr

/-- The events of a transmit window (R172). -/
inductive WindowEvent where
  | opened | closed
  deriving DecidableEq, Repr

/-- A Channel Unit with its send queue, its silence, its re-hold timer and its status-change flag. -/
structure Channel where
  enabled : Bool
  settings : Settings
  /-- The level of the CDn pin (R100). -/
  cdPin : Bool
  sampler : Sampler
  busy : Bool
  clearTime : Nat
  busyLength : Nat
  jammed : Bool
  jamChanged : Bool
  receiver : Receiver
  control : List ControlFrame
  owed : Option Owed
  silenceRemaining : Nat
  silenceCutoff : Fin 8
  /-- MODEL'S OWN (note 2): the silence reached 0 at a quantum; SILENCE_EXPIRY takes it. -/
  silenceEndDue : Bool
  /-- The re-hold timer: `none` stopped, `some n` with n quanta left; `some 0` waits for RE_HOLD_EXPIRY (R88). -/
  rehold : Option Nat
  transmitter : Transmitter
  beacon : Beacon
  engine : Engine
  abortPause : Bool
  queue : List Handle
  /-- MODEL'S OWN (note 2): a window event that the clock second gave and that has not been taken. -/
  windowDue : Option WindowEvent
  deriving DecidableEq, Repr

/-- A channel after a reset (Tables 4-5, 5-2, 6-4, 7-5). The CD pin's level is an input: low here (note 6). -/
def Channel.reset : Channel where
  enabled := false
  settings := .reset
  cdPin := false
  sampler := .stopped
  busy := false
  clearTime := 0
  busyLength := 0
  jammed := false
  jamChanged := false
  receiver := .hunt
  control := []
  owed := none
  silenceRemaining := 0
  silenceCutoff := 0
  silenceEndDue := false
  rehold := none
  transmitter := .idle
  beacon := .off
  engine := .idle
  abortPause := false
  queue := []
  windowDue := none

/-- A row of the precedence class table (R158). -/
structure ClassRow where
  retryLimit : Nat
  baseWait : Nat
  deriving DecidableEq, Repr

/-- The precedence class table after a reset (Table 8-3). -/
def classesReset : Vector ClassRow 8 :=
  #v[⟨15, 0⟩, ⟨12, 1⟩, ⟨10, 1⟩, ⟨8, 2⟩, ⟨6, 2⟩, ⟨5, 3⟩, ⟨4, 3⟩, ⟨3, 4⟩]

/-! ## Time Base and Station Port (Chapters 9 and 10) -/

/-- The counts of the Time Base (R166 to R169). -/
structure TimeBase where
  counter : Quad
  quantumDivider : Nat
  secondDivider : Nat
  clockSecond : Nat
  clockMs : Nat
  /-- MODEL'S OWN (note 2): a quantum was yielded; QUANTUM takes it. -/
  quantumDue : Bool
  /-- MODEL'S OWN (note 2): a Time Base second was yielded; TIME_BASE_SECOND takes it. -/
  secondDue : Bool
  /-- MODEL'S OWN (note 2): the advance that carries a clock second was taken; CLOCK_SECOND takes it. -/
  clockDue : Bool
  deriving DecidableEq, Repr

/-- The Time Base after a reset (R166, R168, R169). -/
def TimeBase.reset : TimeBase where
  counter := 0
  quantumDivider := 0
  secondDivider := 0
  clockSecond := 0
  clockMs := 0
  quantumDue := false
  secondDue := false
  clockDue := false

/-- Results of requests (Table 10-1). -/
inductive Result where
  | done | full | noEntry | wrongState | badValue | inUse | badFrame | nothing
  deriving DecidableEq, Repr

/-- The response buffer (R177). -/
structure Response where
  result : Result
  data : List Byte
  deriving DecidableEq, Repr

/-- The state of the part. -/
structure State where
  response : Response
  congestionChanged : Bool
  reachChanged : Bool
  entries : Vector Entry 256
  accessionCounter : Quad
  ownSerial : Nat
  freeEntries : Nat
  freeBlocks : Nat
  stations : Vector (Option Station) 64
  own : OwnStation
  unrouted : List Handle
  congestion : Congestion
  channels : Vector Channel 4
  classes : Vector ClassRow 8
  time : TimeBase
  /-- MODEL'S OWN (note 3): how many free values have been drawn. -/
  freeCount : Nat
  /-- MODEL'S OWN (note 1): the commands that wait, first in, first out. -/
  pending : List Instr
  deriving DecidableEq, Repr

/-- The part after power-on or the RESET pin (Tables 1-4, 3-6, 4-5, 5-2, 6-4, 7-5, 10-3). -/
def State.reset : State where
  response := ⟨.nothing, []⟩
  congestionChanged := false
  reachChanged := false
  entries := Vector.replicate 256 Entry.free
  accessionCounter := 0
  ownSerial := 1
  freeEntries := 256
  freeBlocks := 2048
  stations := Vector.replicate 64 none
  own := .reset
  unrouted := []
  congestion := .normal
  channels := Vector.replicate 4 Channel.reset
  classes := classesReset
  time := .reset
  freeCount := 0
  pending := []

end Sys2Proof.Machine
end

