-- ==== Sys2Proof/Machine/Operands.lean ====
section
/-! DEFINITION. Operand forms: calls and addresses, digit fields, marks and selectors, the clamping of tuning fields,
and the encodings that readout records use (R112, R113, R171, R179, R187, R188). -/

namespace Sys2Proof.Machine

/-! ## Calls (R112, R187) -/

/-- The space that pads a call field (R112). -/
def space : Byte := 0x20

/-- A character that a call may hold: A–Z, 0–9 and "/" (R112). -/
def isCallChar (b : Byte) : Bool :=
  (0x41 ≤ b && b ≤ 0x5A) || (0x30 ≤ b && b ≤ 0x39) || b == 0x2F

/-- A valid call as the model holds it: one to eight call characters. -/
def Call.valid (c : Call) : Bool :=
  c ≠ [] && c.length ≤ 8 && c.all isCallChar

/-- The call that an eight-character field holds: the characters up to the first space, when they are all call
characters, there is at least one, and nothing but spaces follows (R112). -/
def parseCall (f : List Byte) : Option Call :=
  let c := f.takeWhile (· ≠ space)
  if f.length = 8 ∧ c ≠ [] ∧ c.all isCallChar ∧ (f.drop c.length).all (· == space) then some c else none

/-- The characters of the all-stations address: "*" and seven spaces (R112). -/
def allStationsField : List Byte := [0x2A, 0x20, 0x20, 0x20, 0x20, 0x20, 0x20, 0x20]

/-- The to-call of a frame (R111, R112). -/
inductive Address where
  | all
  | station (call : Call)
  deriving DecidableEq, Repr

/-- The address that a to-call field holds (R112). -/
def parseAddress (f : List Byte) : Option Address :=
  if f = allStationsField then some .all else (parseCall f).map .station

/-- A call padded on the right with spaces to eight characters (R112, R187); the empty call is eight spaces. -/
def padCall (c : Call) : List Byte := (c ++ List.replicate 8 space).take 8

/-- A field of eight spaces: the empty, absent or unchanged call of R187. -/
def isBlank (f : CallField) : Bool := f.toList.all (· == space)

/-- The call that a port field holds (R187); "*" is never valid at the port. -/
def portCall (f : CallField) : Option Call := parseCall f.toList

/-! ## Digits, text and checks of air frames (R113, R114) -/

/-- A digit 0..9. -/
def isDigit (b : Byte) : Bool := 0x30 ≤ b && b ≤ 0x39

/-- The value of a digit field, first digit most significant; `none` where a character is no digit (R113). -/
def parseDigits (f : List Byte) : Option Nat :=
  if f.all isDigit then some (f.foldl (fun n b => 10 * n + (b.toNat - 0x30)) 0) else none

/-- The value of a digit field within a range (R113). -/
def parseDigitsIn (lo hi : Nat) (f : List Byte) : Option Nat :=
  (parseDigits f).filter fun n => lo ≤ n && n ≤ hi

/-- The precedence or cutoff that a digit field holds (R113). -/
def parsePrecedence (f : List Byte) : Option (Fin 8) :=
  (parseDigits f).bind fun n => if h : n < 8 then some ⟨n, h⟩ else none

/-- A number as a digit field of a given width, with leading zeros (section 11.1). -/
def digitField : Nat → Nat → List Byte
  | 0, _ => []
  | width + 1, n => digitField width (n / 10) ++ [BitVec.ofNat 8 (0x30 + n % 10)]

/-- A body character: 20h..7Eh or the line end 0Ah (R16). -/
def isBodyChar (b : Byte) : Bool := (0x20 ≤ b && b ≤ 0x7E) || b == 0x0A

/-- A check character: 0..9 or A..F (R114, R123). -/
def isCheckChar (b : Byte) : Bool := isDigit b || (0x41 ≤ b && b ≤ 0x46)

/-- The value of a check character. -/
def checkCharValue (b : Byte) : Nat := if isDigit b then b.toNat - 0x30 else b.toNat - 0x41 + 10

/-- The check that four characters spell (R114). -/
def checkValue (f : List Byte) : Nat := f.foldl (fun n b => 16 * n + checkCharValue b) 0

/-- The upper-case hexadecimal digit of a value (R114). -/
def checkChar (n : Nat) : Byte := BitVec.ofNat 8 (if n < 10 then 0x30 + n else 0x41 + n - 10)

/-- The sum of character codes, modulo 65,536 (R114). -/
def checkSum (f : List Byte) : Half := f.foldl (fun n b => n + b.setWidth 16) 0

/-- A check written as four hexadecimal digits, most significant first (R114). -/
def checkField (w : Half) : List Byte :=
  [checkChar (w.toNat / 4096 % 16), checkChar (w.toNat / 256 % 16), checkChar (w.toNat / 16 % 16),
   checkChar (w.toNat % 16)]

/-! ## Identity fields, marks and selectors (R179, R187) -/

/-- A channel number 0..3. -/
def parseChannel (b : Byte) : Option Chan := if h : b.toNat < 4 then some ⟨b.toNat, h⟩ else none

/-- A directory index 0..63. -/
def parseIndex (b : Byte) : Option Index := if h : b.toNat < 64 then some ⟨b.toNat, h⟩ else none

/-- A precedence 0..7. -/
def parsePrec (b : Byte) : Option (Fin 8) := if h : b.toNat < 8 then some ⟨b.toNat, h⟩ else none

/-- A handle: every byte is one (R187). -/
def parseHandle (b : Byte) : Handle := ⟨b.toNat, b.isLt⟩

/-- A yes/no mark or an on/off mode. -/
def parseMark : Byte → Option Bool
  | 0x00 => some false
  | 0x01 => some true
  | _ => none

/-- The parity selector. -/
def parseParity : Byte → Option Parity
  | 0x00 => some .none
  | 0x01 => some .even
  | 0x02 => some .odd
  | _ => none

/-- The stop bits selector: whether the channel sends two. -/
def parseStops : Byte → Option Bool
  | 0x01 => some false
  | 0x02 => some true
  | _ => none

/-- The carrier source selector. -/
def parseSource : Byte → Option Source
  | 0x00 => some .cd
  | 0x01 => some .activity
  | 0x02 => some .either
  | _ => none

/-- The CD polarity selector. -/
def parsePolarity : Byte → Option Polarity
  | 0x00 => some .activeHigh
  | 0x01 => some .activeLow
  | _ => none

/-! ## Tuning fields (R93, R103, R138, R157, R171, R180) -/

/-- The window period as stored: 0 for none, else 60..86,400 (R171). -/
def clampPeriod (p : Nat) : Nat := if p = 0 then 0 else min 86400 (max 60 p)

/-- The window offset as stored, for a stored period (R171). -/
def clampOffset (period o : Nat) : Nat := if period = 0 then 0 else min 86399 o % period

/-- The window length as stored, for a stored period (R171). -/
def clampLength (period l : Nat) : Nat := if period = 0 then 0 else min period (max 1 l)

/-- The settings that an accepted SET CHANNEL writes, each tuning field clamped; `none` where a selector names no
choice (R104, R180). -/
def storedSettings (b : SettingsBlock) : Option Settings :=
  match parseParity b.parity, parseStops b.stopBits, parseSource b.source, parsePolarity b.polarity with
  | some parity, some twoStops, some source, some polarity =>
    let period := clampPeriod b.period.toNat
    some {
      divisor := min 511 b.divisor.toNat
      parity, twoStops, source, polarity
      jamLimit := b.jamLimit.toNat
      keyUpField := b.keyUpField.toNat
      turnField := b.turnField.toNat
      slotField := max 1 b.slotField.toNat
      stagger := min 7 b.stagger.toNat
      retryBase := max 1 b.retryBase.toNat
      beaconInterval := min 3600 b.beaconInterval.toNat
      period
      offset := clampOffset period b.offset.toNat
      length := clampLength period b.length.toNat }
  | _, _, _, _ => none

/-- The row that an accepted SET CLASS writes (R158). -/
def clampClass (limit wait : Nat) : ClassRow := ⟨min 15 (max 1 limit), min 15 wait⟩

/-- A cutoff or sensitivity field: above 7 taken as 7 (R55, R85). -/
def clampSeven (b : Byte) : Fin 8 := ⟨min 7 b.toNat, by omega⟩

/-- The thresholds of an own-station record brought into the ranges of Table 4-2: the enter thresholds first, the leave
thresholds then against them (R82). -/
def OwnStation.clampThresholds (o : OwnStation) : OwnStation :=
  let ee := min 255 o.enterEntries
  let eb := min 2047 o.enterBlocks
  { o with
    enterEntries := ee
    enterBlocks := eb
    leaveEntries := min 256 (max ee o.leaveEntries)
    leaveBlocks := min 2048 (max eb o.leaveBlocks) }

/-! ## Encodings of the readout records (R187, R188) -/

/-- A number as two bytes, most significant first. -/
def be16 (n : Nat) : List Byte := halfBytes (BitVec.ofNat 16 n)

/-- A number as four bytes, most significant first. -/
def be32 (n : Nat) : List Byte := quadBytes (BitVec.ofNat 32 n)

/-- A number as one byte. -/
def be8 (n : Nat) : Byte := BitVec.ofNat 8 n

/-- A yes/no mark. -/
def markByte (b : Bool) : Byte := if b then 1 else 0

/-- A one-byte index or channel that may be absent. -/
def optByte {n : Nat} : Option (Fin n) → Byte
  | none => 0xFF
  | some i => be8 i.val

/-- A two-byte handle that may be absent. -/
def optHandle : Option Handle → List Byte
  | none => be16 0xFFFF
  | some h => be16 h.val

/-- State codes. -/
def EntryState.code : EntryState → Byte
  | .free => 0 | .spent => 1 | .receiving => 2 | .ready => 3 | .engaged => 4 | .retryWait => 5 | .sent => 6
  | .refused => 7 | .failed => 8 | .cancelled => 9 | .arrived => 10

/-- Role codes. -/
def Role.code : Role → Byte
  | .originated => 0 | .localDelivery => 1 | .relay => 2

/-- Last outcome codes. -/
def LastOutcome.code : LastOutcome → Byte
  | .none => 0 | .confirmed => 1 | .confirmedDuplicate => 2 | .confirmedLate => 3 | .noroute => 4 | .full => 5
  | .noReceipt => 6 | .withdrawn => 7 | .aborted => 8 | .oversize => 9

/-- Verdict codes. -/
def Verdict.code : Verdict → Byte
  | .accept => 0 | .duplicate => 1 | .noroute => 2 | .full => 3

/-- Reach state codes. -/
def Reach.code : Reach → Byte
  | .heard => 0 | .unheard => 1

/-- Congestion state codes. -/
def Congestion.code : Congestion → Byte
  | .normal => 0 | .congested => 1

/-- Parity codes. -/
def Parity.code : Parity → Byte
  | .none => 0 | .even => 1 | .odd => 2

/-- Carrier source codes. -/
def Source.code : Source → Byte
  | .cd => 0 | .activity => 1 | .either => 2

/-- CD polarity codes. -/
def Polarity.code : Polarity → Byte
  | .activeHigh => 0 | .activeLow => 1

/-- Result codes (Table 11-2). -/
def Result.code : Result → Byte
  | .done => 0 | .full => 1 | .noEntry => 2 | .wrongState => 3 | .badValue => 4 | .inUse => 5 | .badFrame => 6
  | .nothing => 7

/-- The settings block as stored, in the order of section 11.2. -/
def Settings.bytes (t : Settings) : List Byte :=
  be16 t.divisor ++ [t.parity.code, if t.twoStops then 2 else 1, t.source.code, t.polarity.code, be8 t.jamLimit,
    be8 t.keyUpField, be8 t.turnField, be8 t.slotField, be8 t.stagger, be8 t.retryBase] ++ be16 t.beaconInterval ++
    be32 t.period ++ be32 t.offset ++ be32 t.length

/-- The own-station record as stored, in the order of SET OWN's fields (Table 11-3). -/
def OwnStation.bytes (o : OwnStation) : List Byte :=
  padCall o.call ++ [optByte o.defaultRoute, be8 o.enterEntries] ++ be16 o.enterBlocks ++ be16 o.leaveEntries ++
    be16 o.leaveBlocks ++ be16 o.holdTime ++ [be8 o.holdCutoff.val, markByte o.reholdMode, markByte o.releaseMode,
    be8 o.reholdLead] ++ be16 o.fullBackoff

end Sys2Proof.Machine
end

