-- ==== Sys2Proof/Machine/Ops.lean ====
section
/-! DEFINITION. The named operations over the state's tables: reading and writing an entry, a station and a channel;
the send collections; allocation, key lookup and the own-serial choice (Chapter 1, R68, R69). -/

namespace Sys2Proof.Machine

/-! ## Reading and writing -/

/-- The entry of a handle (R1). -/
def State.entry (s : State) (h : Handle) : Entry := s.entries[h.val]

/-- Write the entry of a handle. -/
def State.setEntry (s : State) (h : Handle) (e : Entry) : State :=
  { s with entries := s.entries.set h.val e }

/-- Change the entry of a handle. -/
def State.updEntry (s : State) (h : Handle) (f : Entry → Entry) : State := s.setEntry h (f (s.entry h))

/-- The record of a directory index, `none` where the index is empty (R52). -/
def State.station (s : State) (i : Index) : Option Station := s.stations[i.val]

/-- Write or empty a directory index. -/
def State.setStation (s : State) (i : Index) (r : Option Station) : State :=
  { s with stations := s.stations.set i.val r }

/-- Change the record of an occupied index. -/
def State.updStation (s : State) (i : Index) (f : Station → Station) : State :=
  s.setStation i ((s.station i).map f)

/-- A channel's record. -/
def State.chan (s : State) (c : Chan) : Channel := s.channels[c.val]

/-- Write a channel's record. -/
def State.setChan (s : State) (c : Chan) (x : Channel) : State :=
  { s with channels := s.channels.set c.val x }

/-- Change a channel's record. -/
def State.updChan (s : State) (c : Chan) (f : Channel → Channel) : State := s.setChan c (f (s.chan c))

/-- An operation carried out on each of the four channels in turn. -/
def forChans (f : Chan → State → State) (s : State) : State := f 3 (f 2 (f 1 (f 0 s)))

/-- A channel number that satisfies a test, the lowest first. -/
def findChan (p : Chan → Bool) : Option Chan :=
  if p 0 then some 0 else if p 1 then some 1 else if p 2 then some 2 else if p 3 then some 3 else none

/-- The elements of a vector, each changed. -/
def mapVector {α β : Type} {n : Nat} (f : α → β) (v : Vector α n) : Vector β n :=
  ⟨(v.toList.map f).toArray, by simp⟩

/-- The lowest place of a vector whose element satisfies a test. -/
def findPlace {α : Type} {n : Nat} (p : α → Bool) (v : Vector α n) : Option (Fin n) :=
  (v.toList.findIdx? p).bind fun i => if h : i < n then some ⟨i, h⟩ else none

/-- The answer of a request or of a bad frame replaces the whole response buffer (R177). -/
def State.answer (s : State) (r : Result) (data : List Byte) : State := { s with response := ⟨r, data⟩ }

/-- The commands that wait, replaced. -/
def State.withPending (s : State) (q : List Instr) : State := { s with pending := q }

/-! ## Lookups -/

/-- The entry of lowest handle that satisfies a test. -/
def State.findEntry (s : State) (p : Entry → Bool) : Option Handle := findPlace p s.entries

/-- Whether an entry holds a key: it is not FREE and was given that key (R14). -/
def Entry.holdsKey (e : Entry) (k : Key) : Bool := e.state ≠ .free && e.key = k

/-- The key lookup (R15). -/
def State.findKey (s : State) (k : Key) : Option Handle := s.findEntry (·.holdsKey k)

/-- Whether a record holds a call. -/
def holdsCall (call : Call) (r : Option Station) : Bool := r.any fun st => st.call = call

/-- The occupied index whose record holds a call (R52). -/
def State.findStation (s : State) (call : Call) : Option Index := findPlace (holdsCall call) s.stations

/-- The entry that an engine holds. -/
def Engine.entry? : Engine → Option Handle
  | .idle => none
  | .staged h _ _ | .sending h _ | .awaiting h _ => some h

/-- The channel whose engine holds an entry (R140). -/
def State.engineOf (s : State) (h : Handle) : Option Chan := findChan fun c => (s.chan c).engine.entry? = some h

/-- The station clock's second, the filed time of an entry allocated now (R4). -/
def State.filedNow (s : State) : Nat := s.time.clockSecond

/-! ## Send collections (R68, R69) -/

/-- A send collection: a channel's queue, or the unrouted list. -/
inductive Collection where
  | queue (c : Chan)
  | unrouted
  deriving DecidableEq, Repr

/-- The handles of a collection, in order. -/
def State.collection (s : State) : Collection → List Handle
  | .queue c => (s.chan c).queue
  | .unrouted => s.unrouted

/-- Write the handles of a collection. -/
def State.setCollection (s : State) (k : Collection) (q : List Handle) : State :=
  match k with
  | .queue c => s.updChan c fun x => { x with queue := q }
  | .unrouted => { s with unrouted := q }

/-- The order of a collection: ascending precedence value and then accession in a channel queue, accession alone in the
unrouted list (R68, R12). -/
def comesBefore (s : State) (k : Collection) (a b : Handle) : Bool :=
  let x := s.entry a
  let y := s.entry b
  match k with
  | .queue _ => x.precedence < y.precedence || (x.precedence == y.precedence && x.accession < y.accession)
  | .unrouted => x.accession < y.accession

/-- A handle put into a list at the place that an order gives it, the others unmoved among themselves (R69). -/
def insertInOrder (before : Handle → Handle → Bool) (h : Handle) : List Handle → List Handle
  | [] => [h]
  | x :: q => if before h x then h :: x :: q else x :: insertInOrder before h q

/-- An entry joins a collection at its place (R69). -/
def State.join (s : State) (h : Handle) (k : Collection) : State :=
  s.setCollection k (insertInOrder (comesBefore s k) h (s.collection k))

/-- A handle taken out of a list. -/
def without (h : Handle) (q : List Handle) : List Handle := q.filter (· ≠ h)

/-- An entry leaves the collection it is in (R69). -/
def State.leave (s : State) (h : Handle) : State :=
  forChans (fun c s => s.updChan c fun x => { x with queue := without h x.queue })
    { s with unrouted := without h s.unrouted }

/-! ## Allocation (R9 to R13, R17) -/

/-- The blocks that a body of n characters occupies (R10, R16). -/
def blocksFor (n : Nat) : Nat := (n + (Config.blockSize - 1)) / Config.blockSize

/-- The lowest accession of the SPENT entries (R9). -/
def State.oldestSpent (s : State) : Option Nat :=
  ((s.entries.toList.filter (·.state = .spent)).map (·.accession.toNat)).min?

/-- The entry that allocation hands over: the FREE entry of lowest handle, else the SPENT entry of lowest accession
(R9). -/
def State.chooseEntry (s : State) : Option Handle :=
  match s.findEntry (·.state = .free) with
  | some h => some h
  | none => s.oldestSpent.bind fun a => s.findEntry fun e => e.state = .spent && e.accession.toNat = a

/-- Whether an accession is held by an entry other than FREE (R11). -/
def State.accessionHeld (s : State) (a : Quad) : Bool :=
  s.entries.toList.any fun e => e.state ≠ .free && e.accession = a

/-- The accession counter after a step: past every value that is held; 256 entries hold at most 256 (R11). -/
def skipHeldAccessions (s : State) : Nat → Quad → Quad
  | 0, a => a
  | n + 1, a => if s.accessionHeld a then skipHeldAccessions s n (a + 1) else a

/-- Allocation for an entry with the role, key, precedence, destination, text length, filed time, received-from call
and state that the caller gives: the entry and its blocks together, or neither (R10). Accession, block count and counts
are set here; a reused SPENT entry's key is forgotten with it. -/
def State.allocate (s : State) (e : Entry) : Option (Handle × State) :=
  let blocks := blocksFor e.textLength
  match s.chooseEntry with
  | none => none
  | some h =>
    if blocks ≤ s.freeBlocks then
      let s1 := s.setEntry h { e with accession := s.accessionCounter, blockCount := blocks }
      some (h, { s1 with
        freeEntries := s.freeEntries - 1
        freeBlocks := s.freeBlocks - blocks
        accessionCounter := skipHeldAccessions s1 256 (s.accessionCounter + 1) })
    else none

/-- The serial that follows another, 9999 followed by 1 (R13). -/
def serialAfter (n : Nat) : Nat := if n ≥ 9999 then 1 else n + 1

/-- The first serial from n on whose key with a call no entry holds; 256 are enough (R13). -/
def freeSerial (s : State) (call : Call) : Nat → Nat → Nat
  | 0, n => n
  | k + 1, n => if (s.findKey ⟨call, n⟩).isSome then freeSerial s call k (serialAfter n) else n

/-- A SPENT entry keeps its role, its key and its accession (R7, R51). -/
def Entry.spent (e : Entry) : Entry :=
  { Entry.free with state := .spent, role := e.role, key := e.key, accession := e.accession }

/-- An entry's blocks return and the entry counts as free (R18, R19). -/
def State.countFreed (s : State) (blocks : Nat) : State :=
  { s with freeEntries := s.freeEntries + 1, freeBlocks := s.freeBlocks + blocks }

/-! ## Small reads -/

/-- Whether an entry is in one of the states that READ TEXT reads (R24). -/
def EntryState.textComplete : EntryState → Bool
  | .free | .spent | .receiving => false
  | _ => true

/-- Whether any channel is enabled (R181). -/
def State.anyEnabled (s : State) : Bool := (findChan fun c => (s.chan c).enabled).isSome

end Sys2Proof.Machine
end

