-- ==== Sys2Proof/Machine/ChannelTime.lean ====
section
/-! DEFINITION. Channel time arithmetic: air time, waits, timeouts, exchange need, the window fit test and the retry
delay (Chapter 8), and the re-evaluation of a transmit window (R172). -/

namespace Sys2Proof.Machine

/-- Bits per character b (R94, R154). -/
def Settings.bitsPerChar (t : Settings) : Nat :=
  9 + (if t.parity = .none then 0 else 1) + (if t.twoStops then 2 else 1)

/-- One bit time in units of 1/384 ms (R93, R154). -/
def Settings.bitUnits (t : Settings) : Nat := (t.divisor + 1) * 5

/-- The line time of n characters, exactly, in units of 1/384 ms (R94, R155). -/
def Settings.lineUnits (t : Settings) (n : Nat) : Nat := n * t.bitsPerChar * t.bitUnits

/-- The air time A(n) in ms (R155). -/
def Settings.airTime (t : Settings) (n : Nat) : Nat := (t.lineUnits n + 383) / 384

/-- The gap limit in ms (R156). -/
def Settings.gapLimit (t : Settings) : Nat := max 1 (t.airTime 16)

/-- The key-up delay T_txd in ms (R157). -/
def Settings.keyUpDelay (t : Settings) : Nat := 10 * t.keyUpField

/-- The slot T_slot in ms (R157). -/
def Settings.slot (t : Settings) : Nat := 10 * t.slotField

/-- The receipt timeout T_ack in ms (R160). -/
def Settings.receiptTimeout (t : Settings) : Nat :=
  min 65535 (t.airTime 36 + t.keyUpDelay + 10 * t.turnField + t.slot)

/-- The jam threshold in ms, `none` where jam detection is off (R103). -/
def Settings.jamThreshold (t : Settings) : Option Nat :=
  if t.jamLimit = 0 then none else some (min 65535 (t.jamLimit * 1000))

/-- The row of the class table for a precedence (R158). -/
def State.classRow (s : State) (p : Fin 8) : ClassRow := s.classes[p.val]

/-- The signal-free wait W in ms, for a base wait and an attempt count (R159). -/
def Settings.signalFreeWait (t : Settings) (base attempts : Nat) : Nat :=
  min 65535 (max 1 (base + min attempts 7 + t.stagger) * t.slot)

/-- The key-up need X′ in ms for a text length (R161). -/
def Settings.keyUpNeed (t : Settings) (n : Nat) : Nat := t.keyUpDelay + t.airTime (47 + n) + t.receiptTimeout

/-- The signal-free wait of an entry on a channel, as things stand (R159). -/
def State.waitOf (s : State) (c : Chan) (e : Entry) : Nat :=
  (s.chan c).settings.signalFreeWait (s.classRow e.precedence).baseWait e.attemptCount

/-- The exchange need X of an entry on a channel, as things stand (R161). -/
def State.needOf (s : State) (c : Chan) (e : Entry) : Nat :=
  s.waitOf c e + (s.chan c).settings.keyUpNeed e.textLength

/-- The retry delay in seconds, for an attempt count k of at least 1 (R164). -/
def Settings.retryDelay (t : Settings) (k : Nat) : Nat := min 3600 (t.retryBase * 2 ^ (k - 1))

/-! ## Windows (R162, R163, R171, R172) -/

/-- A channel's window as a station clock shows it: none, closed with the seconds until e reaches 0, or open with the
milliseconds remaining. -/
inductive Window where
  | none
  | closed (secondsToOpen : Nat)
  | opened (remaining : Nat)
  deriving DecidableEq, Repr

/-- The seconds elapsed in the window period, e = (c − O) mod P (R162). -/
def Settings.elapsed (t : Settings) (second : Nat) : Nat := (second + t.period - t.offset % t.period) % t.period

/-- The window at a station clock of a second and a millisecond (R162). -/
def Settings.window (t : Settings) (second ms : Nat) : Window :=
  if t.period = 0 then .none
  else
    let e := t.elapsed second
    if e < t.length then .opened (t.length * 1000 - (e * 1000 + ms)) else .closed (t.period - e)

/-- The window of a channel now. -/
def State.window (s : State) (c : Chan) : Window := (s.chan c).settings.window s.time.clockSecond s.time.clockMs

/-- The window fit test of a need (R162). -/
def Window.fits (w : Window) (need : Nat) : Bool :=
  match w with
  | .none => true
  | .closed _ => false
  | .opened remaining => need ≤ remaining

/-- The OVERSIZE test of a need (R163). -/
def Settings.oversize (t : Settings) (need : Nat) : Bool := t.period ≠ 0 && t.length * 1000 < need

/-- The event that a re-evaluation gives, from the window just before it and just after it (R172). -/
def windowEvent (before after : Window) : Option WindowEvent :=
  match before, after with
  | .closed _, .opened _ => some .opened
  | .opened r, .opened r' => if r < r' then some .opened else none
  | .opened _, .closed _ => some .closed
  | _, _ => none

end Sys2Proof.Machine
end

