-- ==== Sys2Proof/Machine/Flags.lean ====
section
/-! DEFINITION. The notices that the part raises for the station computer: changed pending, the six status-change flags
and ATTN (R22, R182, R184). -/

namespace Sys2Proof.Machine

/-- Changed pending: some entry's changed flag is yes (R22). -/
def State.changedPending (s : State) : Bool := s.entries.toList.any (·.changed)

/-- Whether JAM_CHANGED of some channel is set. -/
def State.anyJamChanged (s : State) : Bool := (findChan fun c => (s.chan c).jamChanged).isSome

/-- ATTN asserted: changed pending is true or a status-change flag is set (R184). -/
def State.attn (s : State) : Bool :=
  s.changedPending || s.congestionChanged || s.reachChanged || s.anyJamChanged

/-- A bit of a record byte. -/
def bitAt (n : Nat) (b : Bool) : Nat := if b then 2 ^ n else 0

/-- Four marks, one for each channel, as the bits from a place on (Table 11-7). -/
def chanBits (place : Nat) (p : Chan → Bool) : Nat :=
  bitAt place (p 0) + bitAt (place + 1) (p 1) + bitAt (place + 2) (p 2) + bitAt (place + 3) (p 3)

/-- The status-change flags as the byte of Table 11-7. -/
def State.flagByte (s : State) : Byte :=
  be8 (bitAt 0 s.congestionChanged + bitAt 1 s.reachChanged + chanBits 2 fun c => (s.chan c).jamChanged)

/-- Every status-change flag cleared (R183). -/
def State.clearFlags (s : State) : State :=
  forChans (fun c s => s.updChan c fun x => { x with jamChanged := false })
    { s with congestionChanged := false, reachChanged := false }

end Sys2Proof.Machine
end

