-- ==== Sys2Proof/Machine/Congestion.lean ====
section
/-! DEFINITION. Congestion and the centre's own HOLD frames (sections 4.5 to 4.7), and the release of entries and blocks
that may end congestion (R18, R32). -/

namespace Sys2Proof.Machine

/-- Whether a control frame is an own HOLD or an own release. -/
def ControlFrame.isOwn : ControlFrame → Bool
  | .receipt _ _ _ => false
  | .ownHold _ _ => true

/-- An own HOLD (time above 0) or own release (time 0) queued on a channel: it replaces one that waits in place, joins
the tail, or sets the owed mark (R86). -/
def Channel.queueOwn (time : Nat) (cutoff : Fin 8) (x : Channel) : Channel :=
  if x.control.any (·.isOwn) then
    { x with control := x.control.map fun f => if f.isOwn then .ownHold time cutoff else f }
  else if x.control.length < Config.controlRoom then { x with control := x.control ++ [.ownHold time cutoff] }
  else { x with owed := some (if time = 0 then .release else .hold) }

/-- An own HOLD with H and the cutoff in force, queued on a channel (R85, R86). -/
def queueOwnHold (c : Chan) (s : State) : State := s.updChan c (Channel.queueOwn s.own.holdTime s.own.holdCutoff)

/-- An own release, queued on a channel (R85, R86). -/
def queueOwnRelease (c : Chan) (s : State) : State := s.updChan c (Channel.queueOwn 0 s.own.holdCutoff)

/-- An operation carried out on a channel that is enabled. -/
def ifEnabled (f : Chan → State → State) (c : Chan) (s : State) : State := if (s.chan c).enabled then f c s else s

/-- A channel's re-hold timer stops (R89). -/
def stopRehold (c : Chan) (s : State) : State := s.updChan c fun x => { x with rehold := none }

/-- Every own HOLD that waits is removed and the owed mark cleared (R89, release mode off). -/
def dropOwn (c : Chan) (s : State) : State :=
  s.updChan c fun x => { x with control := x.control.filter (!·.isOwn), owed := none }

/-- The congestion state that the free counts and the thresholds give (R83). -/
def State.congestionNow (s : State) : Congestion :=
  match s.congestion with
  | .normal =>
    if s.freeEntries < s.own.enterEntries ∨ s.freeBlocks < s.own.enterBlocks then .congested else .normal
  | .congested =>
    if s.own.leaveEntries ≤ s.freeEntries ∧ s.own.leaveBlocks ≤ s.freeBlocks then .normal else .congested

/-- The congestion state written, with CONGESTION_CHANGED set when it changes (R83). -/
def State.markCongestion (s : State) : State :=
  if s.congestionNow = s.congestion then s
  else { s with congestion := s.congestionNow, congestionChanged := true }

/-- On entering CONGESTED an own HOLD is queued on every enabled channel (R87). -/
def enterCongested (s : State) : State := forChans (ifEnabled queueOwnHold) s

/-- On leaving CONGESTED every re-hold timer stops; then, by the release mode, an own release is queued on every enabled
channel, or every own HOLD that waits is removed and every owed mark cleared (R89). -/
def leaveCongested (s : State) : State :=
  let s1 := forChans stopRehold s
  if s1.own.releaseMode then forChans (ifEnabled queueOwnRelease) s1 else forChans dropOwn s1

/-- The test of congestion with its effects (R83, R87, R89). -/
def testCongestion (s : State) : State :=
  if s.congestionNow = s.congestion then s
  else match s.congestionNow with
    | .congested => enterCongested s.markCongestion
    | .normal => leaveCongested s.markCongestion

/-- An entry becomes FREE, its blocks return and its key is forgotten; the congestion test is not part of it (R18,
R32). -/
def freeEntry (h : Handle) (s : State) : State := (s.setEntry h Entry.free).countFreed (s.entry h).blockCount

/-- A RECEIVING reservation is released, with the congestion test that the rise of the counts brings (R19, R32). -/
def releaseEntry (h : Handle) (s : State) : State := testCongestion (freeEntry h s)

/-- A finished entry becomes SPENT: it keeps its role, key and accession, its blocks return, and the congestion test
follows (R51). -/
def retireEntry (h : Handle) (s : State) : State :=
  testCongestion ((s.setEntry h (s.entry h).spent).countFreed (s.entry h).blockCount)

end Sys2Proof.Machine
end

