-- ==== Sys2Proof/Machine/Routing.lean ====
section
/-! DEFINITION. The usable test, route resolution, the loop test, and placing an entry (sections 3.4, 3.6; R27). -/

namespace Sys2Proof.Machine

/-- A station's own part of the usable test: HEARD, not forced unheard, its channel enabled and not JAMMED (R61). -/
def State.selfUsable (s : State) (st : Station) : Bool :=
  st.reach = .heard && !st.forcedUnheard && (s.chan st.channel).enabled && !(s.chan st.channel).jammed

/-- The usable test (R61): a VIA station's relay, which is DIRECT, passes it too. -/
def State.usable (s : State) (st : Station) : Bool :=
  s.selfUsable st && match st.kind with
    | .direct => true
    | .via r => (s.station r).any s.selfUsable

/-- The next hop for a usable candidate: its relay if it is VIA, itself if it is DIRECT (R62). -/
def hopOf (i : Index) (st : Station) : Index :=
  match st.kind with
  | .direct => i
  | .via r => r

/-- The next hop through a station, when the station is usable (R62). -/
def State.hopVia (s : State) (i : Index) : Option Index :=
  (s.station i).bind fun st => if s.usable st then some (hopOf i st) else none

/-- The candidate for a destination: the record that holds it, else the default route (R62, step 1). -/
def State.candidate (s : State) (d : Call) : Option Index :=
  match s.findStation d with
  | some i => some i
  | none => s.own.defaultRoute

/-- Resolution of a destination call (R62): `none` is no route. -/
def State.resolve (s : State) (d : Call) : Option Index :=
  if d = s.own.call then none
  else (s.candidate d).bind fun i =>
    match s.hopVia i with
    | some hop => some hop
    | none => ((s.station i).bind (·.fallback)).bind s.hopVia

/-- The loop test of a RELAY entry: a next hop whose call is the received-from call is no route (R27). -/
def State.loops (s : State) (e : Entry) (hop : Index) : Bool :=
  e.role = .relay && (s.station hop).any fun st => some st.call = e.receivedFrom

/-- The route of an entry: resolution of its destination, with the loop test (R27). -/
def State.route (s : State) (e : Entry) : Option Index :=
  (s.resolve e.destination).filter fun hop => !s.loops e hop

/-- The channel on which a station record works (R53). -/
def State.hopChannel (s : State) (i : Index) : Option Chan := (s.station i).map (·.channel)

/-- The collection that a route gives an entry: the queue of the next hop's channel, else the unrouted list (R27,
R68). -/
def State.collectionFor (s : State) (r : Option Index) : Collection :=
  match r.bind s.hopChannel with
  | some c => .queue c
  | none => .unrouted

/-- An entry is resolved and placed: READY, its next hop the route's or absent, in its collection at its place (R27). -/
def State.place (s : State) (h : Handle) : State :=
  let r := s.route (s.entry h)
  (s.updEntry h fun e => { e with state := .ready, nextHop := r, notBefore := none, cancelPending := none }).join h
    (s.collectionFor r)

/-- The channel that an answer reports for a READY entry: its next hop's, or absent (R29, R49, R50). -/
def State.placedOn (s : State) (h : Handle) : Option Chan := (s.entry h).nextHop.bind s.hopChannel

end Sys2Proof.Machine
end

