-- ==== Sys2Proof/Machine/Exchange.lean ====
section
/-! DEFINITION. The exchange engine: eligibility, consideration and engagement (section 7.3), the endings of an exchange
applied to its entry (section 2.6), withdrawal, and sweeps (section 3.7). -/

namespace Sys2Proof.Machine

/-! ## Eligibility (R77, R79, R141) -/

/-- Whether a station's hold is in force and covers a precedence (R77). -/
def Station.holds (st : Station) (p : Fin 8) : Bool := 0 < st.holdRemaining && st.holdCutoff ≤ p

/-- Whether an entry is held by its next hop (R77). -/
def State.held (s : State) (e : Entry) : Bool := (e.nextHop.bind s.station).any fun st => st.holds e.precedence

/-- Whether a channel's silence is in force and covers a precedence (R79). -/
def Channel.silences (x : Channel) (p : Fin 8) : Bool := 0 < x.silenceRemaining && x.silenceCutoff ≤ p

/-- Whether a hold or the channel's silence covers an entry of its queue (R141). -/
def State.covered (s : State) (c : Chan) (e : Entry) : Bool := s.held e || (s.chan c).silences e.precedence

/-- The held indication of READ ENTRY (R23). -/
def State.heldIndication (s : State) (e : Entry) : Bool :=
  e.state = .ready && (s.held e || ((e.nextHop.bind s.hopChannel).any fun c => (s.chan c).silences e.precedence))

/-! ## Endings applied to the entry (R35 to R41) -/

/-- An entry is closed in a state with an outcome: next hop, not-before and cancel pending absent, the changed flag set
(R20, R35, R36, R38, R41). -/
def State.closeEntry (s : State) (h : Handle) (st : EntryState) (o : LastOutcome) : State :=
  s.updEntry h fun e =>
    { e with state := st, lastOutcome := o, nextHop := none, notBefore := none, cancelPending := none, changed := true }

/-- An entry returns to READY with an outcome: resolved and placed, the changed flag as it was (R37, R39, R40). -/
def State.returnEntry (s : State) (h : Handle) (o : LastOutcome) : State :=
  (s.updEntry h fun e => { e with lastOutcome := o }).place h

/-- Whether CANCEL was taken after the radio was keyed for an entry (R47). -/
def Entry.cancelled (e : Entry) : Bool := e.cancelPending = some true

/-- An ending that returns the entry to READY, or leaves it CANCELLED when cancel is pending (R41). -/
def State.endReturned (s : State) (h : Handle) (o : LastOutcome) : State :=
  if (s.entry h).cancelled then s.closeEntry h .cancelled o else s.returnEntry h o

/-- An ending on NOROUTE: REFUSED, or CANCELLED when cancel is pending (R36, R41). -/
def State.endRefused (s : State) (h : Handle) : State :=
  s.closeEntry h (if (s.entry h).cancelled then .cancelled else .refused) .noroute

/-- An ending on a verdict recorded while the frame was sent (R41, R45). A FULL is not recorded. -/
def State.endRecorded (s : State) (h : Handle) (v : Verdict) : State :=
  match v with
  | .accept | .duplicate => s.closeEntry h .sent .confirmedLate
  | .noroute => s.endRefused h
  | .full => s.endReturned h .full

/-- The engine is IDLE, its record clear but for the abort pause (R144). -/
def idleEngine (c : Chan) (s : State) : State := s.updChan c fun x => { x with engine := .idle }

/-- A STAGED exchange is withdrawn: the entry is READY with outcome WITHDRAWN, placed by resolution (R39). -/
def withdraw (c : Chan) (s : State) : State :=
  match (s.chan c).engine with
  | .staged h _ _ => (idleEngine c s).returnEntry h .withdrawn
  | _ => s

/-- A STAGED exchange whose entry satisfies a test is withdrawn. -/
def withdrawIf (test : State → Entry → Bool) (c : Chan) (s : State) : State :=
  match (s.chan c).engine with
  | .staged h _ _ => if test s (s.entry h) then withdraw c s else s
  | _ => s

/-- A channel's exchange is ended by an abort, a disable or a clear: STAGED is withdrawn, SENDING and AWAITING are
aborted, with a recorded verdict taken and a cancel pending honoured (R39 to R41). -/
def endExchange (c : Chan) (s : State) : State :=
  match (s.chan c).engine with
  | .idle => s
  | .staged _ _ _ => withdraw c s
  | .sending h (some v) => (idleEngine c s).endRecorded h v
  | .sending h none | .awaiting h _ => (idleEngine c s).endReturned h .aborted

/-! ## Consideration (R142, R143) -/

/-- The call of the station that a next hop names. -/
def State.hopCall (s : State) (hop : Option Index) : Option Call := (hop.bind s.station).map (·.call)

/-- An engine takes an entry: it leaves the queue, becomes ENGAGED with its last hop set, and the exchange is STAGED
with its W and X (R33, R143). -/
def engage (c : Chan) (h : Handle) (s : State) : State :=
  let w := s.waitOf c (s.entry h)
  let x := s.needOf c (s.entry h)
  ((s.leave h).updEntry h fun e =>
    { e with state := .engaged, lastHop := s.hopCall e.nextHop, cancelPending := some false }).updChan c
    fun k => { k with engine := .staged h w x }

/-- An OVERSIZE entry leaves its queue and is FAILED (R34). -/
def failOversize (h : Handle) (s : State) : State := (s.leave h).closeEntry h .failed .oversize

/-- The walk of a consideration along a queue: covered entries are passed over, OVERSIZE entries are FAILED, entries
that do not fit the window are passed over, and the first eligible entry is taken (R141, R142). -/
def walk (c : Chan) : List Handle → State → State
  | [], s => s
  | h :: q, s =>
    let e := s.entry h
    if s.covered c e then walk c q s
    else if (s.chan c).settings.oversize (s.needOf c e) then walk c q (failOversize h s)
    else if (s.window c).fits (s.needOf c e) then engage c h s
    else walk c q s

/-- Whether a channel's engine makes considerations: IDLE, enabled, not JAMMED, no abort pause (R142). -/
def Channel.considers (x : Channel) : Bool := x.engine = .idle && x.enabled && !x.jammed && !x.abortPause

/-- A consideration of a channel's queue by its engine (R142). -/
def consider (c : Chan) (s : State) : State :=
  if (s.chan c).considers then walk c (s.chan c).queue s else s

/-- The consideration that an event brings, on every channel. An engine whose queue the event has not touched finds it
as its last consideration left it (note 11). -/
def considerAll (s : State) : State := forChans consider s

/-! ## Sweeps (R71 to R73) -/

/-- Every READY entry with the collection it waits in, as a sweep finds them. -/
def State.waiting (s : State) : List (Collection × Handle) :=
  let tag := fun k : Collection => (s.collection k).map fun h => (k, h)
  tag (.queue 0) ++ tag (.queue 1) ++ tag (.queue 2) ++ tag (.queue 3) ++ tag .unrouted

/-- A sweep's work on one READY entry: resolved afresh; where its collection stays the same it keeps its place, else it
moves (R72; note 12 for a station whose channel was rewritten). -/
def sweepEntry (p : Collection × Handle) (s : State) : State :=
  let r := s.route (s.entry p.2)
  let s1 := s.updEntry p.2 fun e => { e with nextHop := r }
  if s.collectionFor r = p.1 then s1 else (s1.leave p.2).join p.2 (s.collectionFor r)

/-- The sweep of the entries (R72). -/
def sweepEntries (s : State) : State := s.waiting.foldl (fun s p => sweepEntry p s) s

/-- Whether a STAGED exchange's entry would now resolve to another channel or to no route (R73). -/
def strayed (c : Chan) (s : State) (e : Entry) : Bool := s.collectionFor (s.route e) ≠ .queue c

/-- A sweep: every READY entry resolved afresh, then every STAGED exchange looked at (R71 to R73). The considerations
that its moves bring come when the event that triggered it is complete (R72, R142). -/
def sweep (s : State) : State := forChans (fun c => withdrawIf (strayed c) c) (sweepEntries s)

end Sys2Proof.Machine
end

