-- ==== Sys2Proof/Machine/Line.lean ====
section
/-! DEFINITION. The channel line: what a transmitter puts on TXDn and KEYn (R94, R98, R132), what the sampler makes of a
character (R95 to R97), the carrier gate and JAMMED (R100 to R103), and the damage of a frame in reception (R124). -/

namespace Sys2Proof.Machine

/-! ## Keying and the transmit line -/

/-- KEYn asserted: the transmitter is KEYING, SENDING or BREAK (R132). -/
def Transmitter.keyed : Transmitter → Bool
  | .idle | .clearing _ _ => false
  | .keying _ _ | .sending _ _ _ | .brk _ _ _ _ => true

/-- The bits of a frame on TXDn that have ended, or are on the line, when its place is k ms: the whole bits before that
place and the one at it, at most the frame's own (R94, R98). -/
def bitsBegun (t : Settings) (frame : List Byte) (k : Nat) : Nat :=
  min (frame.length * t.bitsPerChar) (k * 384 / t.bitUnits + 1)

/-- The parity bit of a character (R94): with the eight data bits it makes an even or an odd number of ones. -/
def parityBit (p : Parity) (data : Byte) : Option Bool :=
  let oddOnes := ((List.range 8).filter fun i => data.getLsbD i).length % 2 = 1
  match p with
  | .none => none
  | .even => some oddOnes
  | .odd => some !oddOnes

/-- The bits of a character on a channel line, in order; `true` is mark (R94). -/
def Settings.characterBits (t : Settings) (data : Byte) : List Bool :=
  [false] ++ (List.range 8).map (data.getLsbD ·) ++ (parityBit t.parity data).toList ++
    List.replicate (if t.twoStops then 2 else 1) true

/-- The bits of a frame on TXDn: its characters, one after the other with no interval between them (R94). -/
def Settings.frameBits (t : Settings) (frame : List Byte) : List Bool := frame.flatMap t.characterBits

/-- The level of the bit of a frame that is on TXDn at the place of k ms, `true` mark; mark once the bits have ended (R94,
R98). -/
def levelAt (t : Settings) (frame : List Byte) (k : Nat) : Bool := (t.frameBits frame).getD (bitsBegun t frame k - 1) true

/-- What is left of the bit on TXDn when a frame is cut at the place of k ms, in 1/384 ms: a break begins at the end of that
bit (R98). -/
def restOfBit (t : Settings) (frame : List Byte) (k : Nat) : Nat := bitsBegun t frame k * t.bitUnits - k * 384

/-- The transmitter cut, with the settings in force: a frame on the line ends in a break at the present divisor, which
begins at the end of the bit on the line, whose level stands till then; a claim or a key-up delay is dropped, a break runs
on (R98, Table 7-2). -/
def Transmitter.cut (t : Settings) : Transmitter → Transmitter
  | .idle | .clearing _ _ | .keying _ _ => .idle
  | .sending _ f k => .brk t.bitUnits (restOfBit t f k) 0 (levelAt t f k)
  | .brk u r k b => .brk u r k b

/-- Whether the line time of a frame in progress may be over before the next millisecond (R94, R155; note 5). -/
def frameOver (t : Settings) (frame : List Byte) (elapsed : Nat) : Bool :=
  t.lineUnits frame.length < (elapsed + 1) * 384

/-- Whether a break of 15 bit times, after the rest of the cut bit, may be over before the next millisecond (R98; note
5). -/
def breakOver (bitUnits rest elapsed : Nat) : Bool := rest + 15 * bitUnits < (elapsed + 1) * 384

/-- The bit times left of a break, 1..15 (Table 7-1); all 15 while the cut bit is still on the line. -/
def Transmitter.breakRemaining : Transmitter → Option Nat
  | .brk u r k _ => some (max 1 (15 - (k * 384 - r) / u))
  | _ => none

/-- The bits of a break on TXDn: 13 bit times at space and 2 at mark (R98). -/
def breakBits : List Bool := List.replicate 13 false ++ List.replicate 2 true

/-- What a channel drives on TXDn: the bits of the frame in progress, or what is left of the bit that a cut found there
and the break; mark (no bits) otherwise. -/
def Channel.lineBits (x : Channel) : List Bool :=
  match x.transmitter with
  | .sending _ frame _ => x.settings.frameBits frame
  | .brk _ r _ b => (if r = 0 then [] else [b]) ++ breakBits
  | _ => []

/-- The level of TXDn, `true` mark: the bit of the frame in progress; after a cut the cut bit until it ends, then 13 bit
times of space and mark; mark otherwise (R94, R98; note 15). -/
def Channel.txd (x : Channel) : Bool :=
  match x.transmitter with
  | .sending _ frame k => levelAt x.settings frame k
  | .brk u r k b => if k * 384 < r then b else r + 13 * u ≤ k * 384
  | _ => true

/-! ## The character sampler -/

/-- A bit's value is the majority of its samples 7, 8 and 9 (R95). -/
def majority (a b c : Bool) : Bool := (a && b) || (a && c) || (b && c)

/-- The votes of the eight data bits, each the majority of its own three samples (R95). -/
def majorityByte (a b c : Byte) : Byte := (a &&& b) ||| (a &&& c) ||| (b &&& c)

/-- The bits of a character as the votes over their samples give them (R95). -/
def voted (x : Sampled) : CharBits where
  data := majorityByte x.sample7.data x.sample8.data x.sample9.data
  parityBit := majority x.sample7.parityBit x.sample8.parityBit x.sample9.parityBit
  stopBit := majority x.sample7.stopBit x.sample8.stopBit x.sample9.stopBit

/-- What the sampler hands over at sample 9 of the first stop bit (R96). -/
inductive Handover where
  | good (code : Byte)
  | error
  | brk
  deriving DecidableEq, Repr

/-- The handover that the voted bits of a character give, by the channel's parity setting (R96, R97). -/
def handover (p : Parity) (x : CharBits) : Handover :=
  let parityAgrees := match parityBit p x.data with
    | none => true
    | some b => b = x.parityBit
  if x.stopBit then (if parityAgrees then .good x.data else .error)
  else if x.data = 0 ∧ (p = .none ∨ x.parityBit = false) then .brk
  else .error

/-- Whether the sampler of a channel is assembling a character (R95). -/
def Channel.sampling (x : Channel) : Bool := x.enabled && x.sampler = .character

/-- The sampler put into a state. -/
def setSampler (p : Sampler) (c : Chan) (s : State) : State := s.updChan c fun x => { x with sampler := p }

/-! ## The carrier gate -/

/-- The CD input active, through the polarity (R100). -/
def Channel.cdActive (x : Channel) : Bool :=
  match x.settings.polarity with
  | .activeHigh => x.cdPin
  | .activeLow => !x.cdPin

/-- The frame receiver active: not in HUNT (R100, R116). -/
def Channel.receiving (x : Channel) : Bool := x.receiver.phase ≠ .hunt

/-- The carrier source active (R100). -/
def Channel.carrier (x : Channel) : Bool :=
  match x.settings.source with
  | .cd => x.cdActive
  | .activity => x.receiving
  | .either => x.cdActive || x.receiving

/-- Whether the channel is busy as its inputs stand: enabled, and the carrier source active or the radio keyed
(R100). -/
def Channel.busyNow (x : Channel) : Bool := x.enabled && (x.carrier || x.transmitter.keyed)

/-- Busy begins: the clear time becomes 0 (R101). -/
def Channel.beginBusy (x : Channel) : Channel := { x with busy := true, clearTime := 0 }

/-- Busy ends: the busy length becomes 0, JAMMED becomes no with JAM_CHANGED set, and the clear time starts from 0
(R101 to R103). -/
def Channel.endBusy (x : Channel) : Channel :=
  { x with busy := false, busyLength := 0, clearTime := 0, jammed := false, jamChanged := x.jamChanged || x.jammed }

/-- The carrier gate evaluated after a change of its inputs: busy may begin or end, and the end of JAMMED brings a sweep
(R100, R103). -/
def gate (c : Chan) (s : State) : State :=
  let x := s.chan c
  if x.busyNow = x.busy then s
  else if x.busyNow then s.updChan c Channel.beginBusy
  else if x.jammed then sweep (s.updChan c Channel.endBusy)
  else s.updChan c Channel.endBusy

/-- The carrier gate with its counters and its mark at 0, as an enable, a disable and a clear leave them, busy as the
inputs stand (R101 to R106, R108). -/
def Channel.restartGate (x : Channel) : Channel :=
  { x with busy := x.busyNow, clearTime := 0, busyLength := 0, jammed := false, jamChanged := x.jamChanged || x.jammed }

/-! ## Damage of a frame in reception -/

/-- The frame receiver's record, written. -/
def setReceiver (r : Receiver) (c : Chan) (s : State) : State := s.updChan c fun x => { x with receiver := r }

/-- The receiver enters HUNT from a frame that has not completed: its reservation is released, its owed verdict
discarded (R116, R124, R32). -/
def damage (c : Chan) (s : State) : State :=
  match (s.chan c).receiver.reservation with
  | some h => releaseEntry h (setReceiver .hunt c s)
  | none => setReceiver .hunt c s

end Sys2Proof.Machine
end

