-- ==== Sys2Proof/Machine/Transmit.lean ====
section
/-! DEFINITION. The transmitter: the arbiter, key-up, the composing of frames, and the completion of a frame (section
7.1, R115, R133 to R137, R145 to R147). -/

namespace Sys2Proof.Machine

/-! ## The arbiter (R133 to R135) -/

/-- The waiting claimant of highest rank with its required wait (R133, R135). -/
def Channel.claimant (x : Channel) : Option (Claimant × Nat) :=
  if x.control ≠ [] then some (.control, x.settings.slot)
  else if x.beacon = .due then some (.beacon, x.settings.slot)
  else match x.engine with
    | .staged _ w _ => some (.traffic, w)
    | _ => none

/-- The arbiter on one channel record. An IDLE transmitter is granted to the waiting claimant of highest rank; one that
is CLEARING goes to a claimant of higher rank, or back to IDLE and the arbiter when its claimant has ceased to be one
(R133 to R135). A transmitter that has keyed is not touched. -/
def Channel.arbitrated (x : Channel) : Channel :=
  match x.transmitter with
  | .idle | .clearing _ _ =>
    match x.enabled, x.claimant with
    | true, some (k, w) => { x with transmitter := .clearing k w }
    | _, _ => { x with transmitter := .idle }
  | _ => x

/-- The arbiter acts on a channel. -/
def arbitrate (c : Chan) (s : State) : State := s.updChan c Channel.arbitrated

/-- The arbiters of the four channels act, as the last part of an event (R133). -/
def arbitrateAll (s : State) : State := forChans arbitrate s

/-- The end of an event that may bring considerations: these first, then the arbiters. -/
def conclude (s : State) : State := arbitrateAll (considerAll s)

/-! ## Composing a frame (R111, R114, R115) -/

/-- A frame from its to-call field, the own call and what stands between them and the check, with SOH, check and EOT. -/
def frameOf (kind : Byte) (toField : List Byte) (from_ : Call) (fields : List Byte) : List Byte :=
  let guarded := kind :: (toField ++ padCall from_ ++ fields)
  0x01 :: (guarded ++ checkField (checkSum guarded) ++ [0x04])

/-- The verdict letters (R111). -/
def Verdict.letter : Verdict → Byte
  | .accept => 0x41 | .duplicate => 0x44 | .noroute => 0x4E | .full => 0x46

/-- The TRAFFIC frame of an entry, addressed to its last hop (R115). -/
def trafficFrame (own : Call) (e : Entry) : List Byte :=
  frameOf 0x54 (padCall (e.lastHop.getD [])) own
    (digitField 1 e.precedence.val ++ padCall e.key.call ++ digitField 4 e.key.serial ++ padCall e.destination ++
      digitField 3 e.textLength ++ e.text)

/-- The frame of a control frame (R115). -/
def controlFrameOf (own : Call) : ControlFrame → List Byte
  | .receipt toCall key v => frameOf 0x41 (padCall toCall) own (padCall key.call ++ digitField 4 key.serial ++ [v.letter])
  | .ownHold t c => frameOf 0x48 allStationsField own (digitField 5 t ++ digitField 1 c.val)

/-- The entry whose exchange a channel's engine runs. -/
def State.exchangeEntry (s : State) (c : Chan) : Entry :=
  match (s.chan c).engine.entry? with
  | some h => s.entry h
  | none => Entry.free

/-- The frame that a channel sends, composed when its first character begins (R115). -/
def State.compose (s : State) (c : Chan) (what : OnAir) : List Byte :=
  match what with
  | .control f => controlFrameOf s.own.call f
  | .beacon => frameOf 0x42 allStationsField s.own.call []
  | .traffic => trafficFrame s.own.call (s.exchangeEntry c)

/-! ## Key-up (R136, R145) -/

/-- The transmitter put into a state. -/
def setTransmitter (t : Transmitter) (c : Chan) (s : State) : State := s.updChan c fun x => { x with transmitter := t }

/-- The transmitter enters SENDING with the frame composed (R137). -/
def startSending (what : OnAir) (c : Chan) (s : State) : State :=
  setTransmitter (.sending what (s.compose c what) 0) c s

/-- The radio is keyed for a committed claimant: KEYING, or SENDING when T_txd is 0 (R136). Echo suppression damages a
frame in reception and drops the character being sampled (R99), and busy begins. -/
def keyFor (what : OnAir) (c : Chan) (s : State) : State :=
  let s1 := damage c (setSampler .lineRecovery c s)
  let d := (s.chan c).settings.keyUpDelay
  gate c (if d = 0 then startSending what c s1 else setTransmitter (.keying what d) c s1)

/-- The head of the control frame queue has left it; an owed frame joins the tail with the parameters in force (R86,
R129). -/
def Channel.sendHead (own : OwnStation) (rest : List ControlFrame) (x : Channel) : Channel :=
  match x.owed with
  | none => { x with control := rest }
  | some .hold => { x with control := rest ++ [.ownHold own.holdTime own.holdCutoff], owed := none }
  | some .release => { x with control := rest ++ [.ownHold 0 own.holdCutoff], owed := none }

/-- The key-up of a claimant: a CONTROL frame leaves its queue, a beacon's due mark is cleared, and a TRAFFIC exchange
passes the key-up re-test or is withdrawn (R136, R145). DESIGN CHOICE (note 22): the head of the control frame queue leaves it
before the frame in reception is damaged (R99); an own HOLD at the head is then being sent when the release of that frame's
reservation ends congestion, and the own release that this brings joins the queue behind instead of replacing it. -/
def commit (k : Claimant) (c : Chan) (s : State) : State :=
  match k with
  | .control =>
    match (s.chan c).control with
    | [] => s
    | f :: rest => keyFor (.control f) c (s.updChan c (Channel.sendHead s.own rest))
  | .beacon => keyFor .beacon c (s.updChan c fun x => { x with beacon := .onAir })
  | .traffic =>
    match (s.chan c).engine with
    | .staged h w x =>
      if (s.window c).fits (x - w) then
        keyFor .traffic c (s.updChan c fun k => { k with engine := .sending h none })
      else withdraw c s
    | _ => s

/-! ## The end of a frame (R137, R138, R88, R146, R147) -/

/-- The beacon counts afresh from now, when the interval is above 0 (R138). -/
def Channel.restartBeacon (now : Quad) (x : Channel) : Channel :=
  { x with beacon := if x.settings.beaconInterval = 0 then .off else .counting now }

/-- The re-hold timer after an own HOLD with a time has been sent (R88). -/
def State.reholdAfter (s : State) (time : Nat) : Option Nat :=
  if s.congestion = .congested ∧ s.own.reholdMode ∧ s.own.reholdLead < time then some (time - s.own.reholdLead) else none

/-- The completion of a frame is handed to its claimant's owner (R137). DESIGN CHOICE (note 21): an own HOLD whose frame ends
while the channel's re-hold timer stands at 0 and waits for RE_HOLD_EXPIRY reloads or stops the timer, and the expiry that
waited is lost. -/
def completeSending (what : OnAir) (c : Chan) (s : State) : State :=
  match what with
  | .control (.receipt _ _ _) => s
  | .control (.ownHold t _) => s.updChan c fun x => { x with rehold := s.reholdAfter t }
  | .beacon => s.updChan c (Channel.restartBeacon s.time.counter)
  | .traffic =>
    match (s.chan c).engine with
    | .sending h (some v) => (idleEngine c s).endRecorded h v
    | .sending h none => s.updChan c fun x => { x with engine := .awaiting h x.settings.receiptTimeout }
    | _ => s

/-- Keying is released: the transmitter is IDLE and busy may end (R132, R137). -/
def releaseKey (c : Chan) (s : State) : State := gate c (setTransmitter .idle c s)

/-- The transmitter cut by an abort, a disable or a clear (R98, Table 7-2); the gate is evaluated by the caller. -/
def cutTransmitter (c : Chan) (s : State) : State :=
  s.updChan c fun x => { x with transmitter := x.transmitter.cut x.settings }

end Sys2Proof.Machine
end

