-- ==== Sys2Proof/Machine/Holds.lean ====
section
/-! DEFINITION. Holds and silences received (sections 4.1, 4.2, 4.4), and the reachability monitor (section 3.5). -/

namespace Sys2Proof.Machine

/-! ## Station holds and silences -/

/-- A station's hold fields after an order of a time and a cutoff: time 0 ends the hold and keeps the cutoff (R76). -/
def Station.ordered (time : Nat) (cutoff : Fin 8) (st : Station) : Station :=
  if time = 0 then { st with holdRemaining := 0 } else { st with holdRemaining := time, holdCutoff := cutoff }

/-- A station hold written to a record; a STAGED exchange whose entry it now holds is withdrawn (R76, R77). DESIGN CHOICE
(note 19): an entry is held through the index that its next hop names, whatever the record there has become: an exchange
STAGED toward an index that SET STATION has since rewritten from DIRECT to VIA is withdrawn too, by R77's words, where R76 has
a VIA record's hold cover no entry. -/
def writeHold (i : Index) (time : Nat) (cutoff : Fin 8) (s : State) : State :=
  let s1 := s.updStation i (Station.ordered time cutoff)
  forChans (fun c => withdrawIf (fun s e => e.nextHop = some i && s.held e) c) s1

/-- A channel's silence fields after an order (R78). A silence in force drops a beacon that is due and not keyed, and
its interval starts afresh (R139). -/
def Channel.silenced (time : Nat) (cutoff : Fin 8) (now : Quad) (x : Channel) : Channel :=
  if time = 0 then { x with silenceRemaining := 0 }
  else
    let y := { x with silenceRemaining := time, silenceCutoff := cutoff }
    if x.beacon = .due then y.restartBeacon now else y

/-- A silence written to a channel; a STAGED exchange that it covers is withdrawn (R78, R79). -/
def writeSilence (c : Chan) (time : Nat) (cutoff : Fin 8) (s : State) : State :=
  let s1 := s.updChan c (Channel.silenced time cutoff s.time.counter)
  withdrawIf (fun s e => (s.chan c).silences e.precedence) c s1

/-- A FULL receipt gives the station that sent it the implicit hold (R81). -/
def implicitHold (from_ : Call) (s : State) : State :=
  match s.findStation from_ with
  | some i => writeHold i s.own.fullBackoff 0 s
  | none => s

/-- A received HOLD frame applied by its to-call and its sender's record, on the channel where it arrived (R75). -/
def applyHold (c : Chan) (toAll : Bool) (from_ : Call) (time : Nat) (cutoff : Fin 8) (s : State) : State :=
  match s.findStation from_ with
  | none => s
  | some i =>
    if toAll && (s.station i).any (·.netControl) then writeSilence c time cutoff s else writeHold i time cutoff s

/-! ## The reachability monitor -/

/-- Four times the enter limit's factor, by sensitivity (Table 3-5, column n). -/
def enterFactor (k : Fin 8) : Nat := [5, 6, 8, 10, 12, 16, 24, 32].getD k.val 0

/-- Four times the leave limit's factor, by sensitivity (Table 3-5, column m). -/
def leaveFactor (k : Fin 8) : Nat := [4, 5, 6, 8, 9, 12, 16, 24].getD k.val 0

/-- The enter limit in seconds (R65). -/
def Station.enterLimit (st : Station) : Nat := max 1 (st.interval * enterFactor st.sensitivity / 4)

/-- The leave limit in seconds (R66). -/
def Station.leaveLimit (st : Station) : Nat := max 1 (st.interval * leaveFactor st.sensitivity / 4)

/-- A change of reach state sets REACH_CHANGED and brings a sweep (R67). -/
def reachChange (s : State) : State := sweep { s with reachChanged := true }

/-- Whether a station is one that a heard age over its limit makes UNHEARD now (R65). -/
def Station.lost (st : Station) : Bool := st.overLimitDue && st.reach = .heard && 0 < st.interval

/-- A station whose heard age went over its enter limit becomes UNHEARD, its confirm count 0 (R65, R67). -/
def loseStation (i : Index) (s : State) : State :=
  if (s.station i).any (·.lost) then
    reachChange (s.updStation i fun st => { st with overLimitDue := false, reach := .unheard, confirmCount := 0 })
  else s.updStation i fun st => { st with overLimitDue := false }

/-- The confirm count after a good frame from an UNHEARD station, by the frame's gap (R66). DESIGN CHOICE (note 24): the leave
limit is that of I and s as stored, also where a SET STATION has written them since the last one-second advance (R56). -/
def Station.confirmed (st : Station) (gap : Nat) : Nat :=
  if st.confirmCount = 0 then 1 else if gap ≤ st.leaveLimit then 2 else 1

/-- A record after a good frame: the heard age 0, and an UNHEARD station's confirm count moved on, HEARD at 2 (R64,
R66). -/
def Station.refreshed (st : Station) : Station :=
  match st.reach with
  | .heard => { st with heardAge := 0 }
  | .unheard =>
    let n := st.confirmed st.heardAge
    { st with heardAge := 0, confirmCount := n, reach := if n = 2 then .heard else .unheard }

/-- A good frame from a station (R64, R66, R126). An advance that went over the limit and waits is taken first, as an
advance taken before the frame (R65). DESIGN CHOICE (note 23): the loss's sweep is made here, before the frame's own effect, but
the considerations that it brings are made only at the end of the frame's event, after that effect. -/
def goodFrameFrom (i : Index) (s : State) : State :=
  let s1 := loseStation i s
  let s2 := s1.updStation i Station.refreshed
  if (s1.station i).any (·.reach = .unheard) && (s2.station i).any (·.reach = .heard) then reachChange s2 else s2

end Sys2Proof.Machine
end

