-- ==== Sys2Proof/Machine/Receipts.lean ====
section
/-! DEFINITION. Receipts applied to entries (sections 2.9, 2.10), and the receipt timeout (R38, R42). -/

namespace Sys2Proof.Machine

/-- A matched receipt that finds its exchange AWAITING ends it (R35 to R37, R41, R81). -/
def receiptAwaiting (c : Chan) (h : Handle) (v : Verdict) (from_ : Call) (s : State) : State :=
  let s1 := idleEngine c s
  match v with
  | .accept => s1.closeEntry h .sent .confirmed
  | .duplicate => s1.closeEntry h .sent .confirmedDuplicate
  | .noroute => s1.endRefused h
  | .full => (implicitHold from_ s1).endReturned h .full

/-- A matched receipt that finds its exchange STAGED: a verdict other than FULL withdraws it and closes the entry
(R45). -/
def receiptStaged (c : Chan) (h : Handle) (v : Verdict) (s : State) : State :=
  match v with
  | .accept | .duplicate => (idleEngine c s).closeEntry h .sent .confirmedLate
  | .noroute => (idleEngine c s).closeEntry h .refused .noroute
  | .full => s

/-- The verdict recorded with an exchange that is SENDING: the first of those other than FULL is kept (R45). -/
def recordVerdict (recorded : Option Verdict) (v : Verdict) : Option Verdict :=
  match recorded, v with
  | some r, _ => some r
  | none, .full => none
  | none, v => some v

/-- A matched receipt that finds its entry ENGAGED (R35 to R37, R45). -/
def receiptEngaged (h : Handle) (v : Verdict) (from_ : Call) (s : State) : State :=
  match s.engineOf h with
  | none => s
  | some c =>
    match (s.chan c).engine with
    | .idle => s
    | .staged _ _ _ => receiptStaged c h v s
    | .sending _ r => s.updChan c fun x => { x with engine := .sending h (recordVerdict r v) }
    | .awaiting _ _ => receiptAwaiting c h v from_ s

/-- A matched receipt that finds its entry outside an exchange (Table 2-4). -/
def receiptLate (h : Handle) (v : Verdict) (s : State) : State :=
  match (s.entry h).state, v with
  | .ready, .accept | .ready, .duplicate => (s.leave h).closeEntry h .sent .confirmedLate
  | .ready, .noroute => (s.leave h).closeEntry h .refused .noroute
  | .retryWait, .accept | .retryWait, .duplicate | .failed, .accept | .failed, .duplicate
  | .cancelled, .accept | .cancelled, .duplicate => s.closeEntry h .sent .confirmedLate
  | .retryWait, .noroute | .failed, .noroute => s.closeEntry h .refused .noroute
  | _, _ => s

/-- A completed RECEIPT to the own call: matched by its key and the entry's last hop, and applied by the entry's state
(R44 to R46). -/
def applyReceipt (key : Key) (v : Verdict) (from_ : Call) (s : State) : State :=
  match s.findKey key with
  | none => s
  | some h =>
    if (s.entry h).lastHop = some from_ then
      if (s.entry h).state = .engaged then receiptEngaged h v from_ s else receiptLate h v s
    else s

/-- The entry enters RETRY_WAIT with its not-before (R42, R164). -/
def Entry.retryAt (e : Entry) (k : Nat) (notBefore : Quad) : Entry :=
  { e with state := .retryWait, attemptCount := k, lastOutcome := .noReceipt, nextHop := none,
           notBefore := some notBefore, cancelPending := none }

/-- The receipt timer of a channel's exchange has expired: the attempt count rises, and the entry becomes CANCELLED,
RETRY_WAIT or FAILED (R38, R41, R42). -/
def timeOut (c : Chan) (h : Handle) (s : State) : State :=
  let s1 := idleEngine c s
  let e := s1.entry h
  let k := e.attemptCount + 1
  let delay := BitVec.ofNat 32 ((s.chan c).settings.retryDelay k * 1000)
  if e.cancelled then (s1.updEntry h fun e => { e with attemptCount := k }).closeEntry h .cancelled .noReceipt
  else if k < (s1.classRow e.precedence).retryLimit then s1.updEntry h fun e => e.retryAt k (s.time.counter + delay)
  else (s1.updEntry h fun e => { e with attemptCount := k }).closeEntry h .failed .noReceipt

end Sys2Proof.Machine
end

