-- ==== Sys2Proof/Machine/Receive.lean ====
section
/-! DEFINITION. The frame receiver: from a character to a header, a body, a tail and a completed frame (sections 6.2 to
6.6), and the queuing of owed receipts (R128, R129). -/

namespace Sys2Proof.Machine

/-! ## Headers (R111 to R113, R118, R119) -/

/-- SOH. -/
def soh : Byte := 0x01

/-- EOT. -/
def eot : Byte := 0x04

/-- The kind that a letter names (R111). -/
def kindOf : Byte → Option FrameKind
  | 0x54 => some .traffic
  | 0x41 => some .receipt
  | 0x48 => some .hold
  | 0x42 => some .beacon
  | _ => none

/-- The header length of a kind, SOH counted (Table 6-1). -/
def FrameKind.headerLength : FrameKind → Nat
  | .traffic => 42 | .receipt => 31 | .hold => 24 | .beacon => 18

/-- The fields of a header that are its kind's own (Table 6-1). -/
inductive HeaderFields where
  | traffic (precedence : Fin 8) (key : Key) (destination : Call) (length : Nat)
  | receipt (key : Key) (verdict : Verdict)
  | hold (time : Nat) (cutoff : Fin 8)
  | beacon
  deriving DecidableEq, Repr

/-- A valid header (R119). -/
structure Header where
  toCall : Address
  fromCall : Call
  fields : HeaderFields
  deriving DecidableEq, Repr

/-- The characters at positions a..b of a frame, from its header characters, which begin at position 2. -/
def positions (header : List Byte) (a b : Nat) : List Byte := (header.drop (a - 2)).take (b + 1 - a)

/-- The verdict that a letter names (R111). -/
def verdictOf : List Byte → Option Verdict
  | [0x41] => some .accept
  | [0x44] => some .duplicate
  | [0x4E] => some .noroute
  | [0x46] => some .full
  | _ => none

/-- A key from its two fields (R113). -/
def parseKey (callField serialField : List Byte) : Option Key :=
  (parseCall callField).bind fun call => (parseDigitsIn 1 9999 serialField).map fun serial => ⟨call, serial⟩

/-- The fields of a kind, from the header characters, when they are all valid (R119, Table 11-1). -/
def parseFields (k : FrameKind) (h : List Byte) : Option HeaderFields :=
  match k with
  | .traffic =>
    (parsePrecedence (positions h 19 19)).bind fun p =>
    (parseKey (positions h 20 27) (positions h 28 31)).bind fun key =>
    (parseCall (positions h 32 39)).bind fun d =>
    (parseDigitsIn 0 Config.maxText (positions h 40 42)).map fun n => .traffic p key d n
  | .receipt =>
    (parseKey (positions h 19 26) (positions h 27 30)).bind fun key =>
    (verdictOf (positions h 31 31)).map fun v => .receipt key v
  | .hold =>
    (parseDigitsIn 0 65535 (positions h 19 23)).bind fun t =>
    (parsePrecedence (positions h 24 24)).map fun c => .hold t c
  | .beacon => some .beacon

/-- The header that the header characters spell, `none` when any field is invalid (R119). -/
def parseHeader (k : FrameKind) (h : List Byte) : Option Header :=
  (parseAddress (positions h 3 10)).bind fun to_ =>
  (parseCall (positions h 11 18)).bind fun from_ =>
  (parseFields k h).map fun f => ⟨to_, from_, f⟩

/-- The header of a frame in progress. -/
def Receiver.parsed (r : Receiver) : Option Header := r.kind.bind fun k => parseHeader k r.header

/-! ## Starting, collecting, and the decision at header completion -/

/-- A fresh receive record: HEAD, position 1, sum 0, gap 0 (R117). -/
def Receiver.start : Receiver := { Receiver.hunt with phase := .head, position := 1 }

/-- An SOH in a frame in progress damages it and starts a new frame (R124). -/
def restartFrame (c : Chan) (s : State) : State := setReceiver .start c (damage c s)

/-- The role of an arriving message (R3). -/
def State.arrivingRole (s : State) (destination : Call) : Role :=
  if destination = s.own.call then .localDelivery else .relay

/-- The entry that an arriving TRAFFIC frame reserves (R3, R4, R10). -/
def State.arrivingEntry (s : State) (p : Fin 8) (key : Key) (destination : Call) (n : Nat) (from_ : Call) : Entry :=
  { Entry.free with
    state := .receiving
    role := s.arrivingRole destination
    key := key
    precedence := p
    destination := destination
    filedTime := s.filedNow
    textLength := n
    receivedFrom := some from_ }

/-- Whether the part refuses traffic of a precedence for congestion (R84). -/
def State.refusesTraffic (s : State) (p : Fin 8) : Bool := s.congestion = .congested && s.own.holdCutoff ≤ p

/-- The receive record of a TRAFFIC frame after its header: BODY, or TAIL for an empty body (R121). -/
def Receiver.afterHeader (r : Receiver) (n : Nat) : Receiver :=
  { r with phase := if n = 0 then .tail else .body, bodyRemaining := n }

/-- A TRAFFIC header to the own call receives its decision (R120). -/
def decideTraffic (c : Chan) (r : Receiver) (p : Fin 8) (key : Key) (d : Call) (n : Nat) (from_ : Call) (s : State) :
    State :=
  let r1 := r.afterHeader n
  if from_ = s.own.call then setReceiver r1 c s
  else if (s.findKey key).isSome then setReceiver { r1 with owed := some .duplicate } c s
  else if s.refusesTraffic p then setReceiver { r1 with owed := some .full } c s
  else match s.allocate (s.arrivingEntry p key d n from_) with
    | none => setReceiver { r1 with owed := some .full } c s
    | some (h, s1) => testCongestion (setReceiver { r1 with reservation := some h } c s1)

/-- A header is complete: it is examined, and the frame is damaged, decided or taken on (R119 to R121). -/
def completeHeader (c : Chan) (r : Receiver) (s : State) : State :=
  match r.parsed with
  | none => damage c s
  | some ⟨to_, from_, .traffic p key d n⟩ =>
    if to_ = .station s.own.call then decideTraffic c r p key d n from_ s else setReceiver (r.afterHeader n) c s
  | some _ => setReceiver (r.afterHeader 0) c s

/-- A character collected in HEAD, the kind letter included (R118). -/
def collectHeader (c : Chan) (b : Byte) (s : State) : State :=
  let r := (s.chan c).receiver
  let r1 := { r with
    header := r.header ++ [b]
    sum := r.sum + b.setWidth 16
    position := r.position + 1
    gap := 0
    kind := if r.header = [] then kindOf b else r.kind }
  match r1.kind with
  | none => damage c s
  | some k => if r1.position = k.headerLength then completeHeader c r1 s else setReceiver r1 c s

/-- A body character written into the reservation's chain, when there is one (R17, R122). -/
def writeBody (r : Receiver) (b : Byte) (s : State) : State :=
  match r.reservation with
  | some h => s.updEntry h fun e => { e with text := e.text ++ [b] }
  | none => s

/-- A character taken in BODY that is no SOH (R122). -/
def collectBody (c : Chan) (b : Byte) (s : State) : State :=
  let r := (s.chan c).receiver
  if isBodyChar b then
    setReceiver { r with
      sum := r.sum + b.setWidth 16
      position := r.position + 1
      gap := 0
      bodyRemaining := r.bodyRemaining - 1
      phase := if r.bodyRemaining ≤ 1 then .tail else .body } c (writeBody r b s)
  else damage c s

/-! ## Completion (R126 to R129) -/

/-- A receipt joins the tail of a channel's control frame queue, or is lost when it holds four frames (R128, R129). -/
def queueReceipt (to_ : Call) (key : Key) (v : Verdict) (c : Chan) (s : State) : State :=
  s.updChan c fun x =>
    if x.control.length < Config.controlRoom then { x with control := x.control ++ [.receipt to_ key v] } else x

/-- A LOCAL entry whose frame completed becomes ARRIVED (R30). -/
def arriveLocal (h : Handle) (s : State) : State := s.updEntry h fun e => { e with state := .arrived, changed := true }

/-- A reserved entry whose frame completed: ARRIVED or READY with ACCEPT owed, or released with NOROUTE owed (R30,
R31). -/
def arrive (h : Handle) (c : Chan) (from_ : Call) (key : Key) (s : State) : State :=
  match (s.entry h).role with
  | .relay =>
    match s.route (s.entry h) with
    | some _ => queueReceipt from_ key .accept c (s.place h)
    | none => queueReceipt from_ key .noroute c (releaseEntry h s)
  | _ => queueReceipt from_ key .accept c (arriveLocal h s)

/-- A TRAFFIC frame to the own call, completed: its reservation, or the verdict owed (R127). -/
def applyTraffic (c : Chan) (r : Receiver) (from_ : Call) (key : Key) (s : State) : State :=
  match r.reservation, r.owed with
  | some h, _ => arrive h c from_ key s
  | none, some v => queueReceipt from_ key v c s
  | none, none => s

/-- A completed frame applied by its kind (R127); the receiver has handed it on (R126). -/
def applyFrame (c : Chan) (r : Receiver) (x : Header) (s : State) : State :=
  match x.fields, x.toCall with
  | .traffic _ key _ _, .station _ => applyTraffic c r x.fromCall key s
  | .receipt key v, .station _ => applyReceipt key v x.fromCall s
  | .hold t k, to_ => applyHold c (to_ = .all) x.fromCall t k s
  | _, _ => s

/-- Whether a completed frame is handed on: addressed to the centre or to all stations, and not from the own call
(R126). -/
def State.handsOn (s : State) (x : Header) : Bool :=
  (x.toCall = .all || x.toCall = .station s.own.call) && x.fromCall ≠ s.own.call

/-- The heard-age refresh of a completed frame's sender, when a record holds its call (R64, R126). -/
def refreshSender (from_ : Call) (s : State) : State :=
  match s.findStation from_ with
  | some i => goodFrameFrom i s
  | none => s

/-- A frame completes with a good check: the sender is refreshed, the frame is handed on, and the receiver enters HUNT
(R126). -/
def completeFrame (c : Chan) (s : State) : State :=
  let r := (s.chan c).receiver
  match r.parsed with
  | none => damage c s
  | some x =>
    let s1 := refreshSender x.fromCall s
    setReceiver .hunt c (if s1.handsOn x then applyFrame c r x s1 else s1)

/-- A character taken in TAIL that is no SOH: a check character, then EOT (R123). -/
def collectTail (c : Chan) (b : Byte) (s : State) : State :=
  let r := (s.chan c).receiver
  if r.check.length < 4 then
    if isCheckChar b then setReceiver { r with check := r.check ++ [b], position := r.position + 1, gap := 0 } c s
    else damage c s
  else if b = eot ∧ checkValue r.check = r.sum.toNat then completeFrame c s
  else damage c s

/-- A good character taken by the frame receiver (R117, R118, R122 to R124). -/
def receiveCharacter (c : Chan) (b : Byte) (s : State) : State :=
  match (s.chan c).receiver.phase with
  | .hunt => if b = soh then setReceiver .start c s else s
  | .head => if b = soh then restartFrame c s else collectHeader c b s
  | .body => if b = soh then restartFrame c s else collectBody c b s
  | .tail => if b = soh then restartFrame c s else collectTail c b s

end Sys2Proof.Machine
end

