-- ==== Sys2Proof/Machine/Readout.lean ====
section
/-! DEFINITION. The readout records of the Station Port, composed as the state stands (section 11.3, R188). -/

namespace Sys2Proof.Machine

/-! ## Entries -/

/-- A call that may be absent, as a field (R187). -/
def optCall (c : Option Call) : List Byte := padCall (c.getD [])

/-- The derived channel of an entry: for an ENGAGED entry its engine's, else its next hop's (R23). -/
def State.derivedChannel (s : State) (h : Handle) : Option Chan :=
  if (s.entry h).state = .engaged then s.engineOf h else s.placedOn h

/-- The retry remaining in ms, in RETRY_WAIT: the forward distance from the counter to the not-before (R23, R167). -/
def State.retryRemaining (s : State) (e : Entry) : Nat :=
  match e.notBefore with
  | some t => (t - s.time.counter).toNat
  | none => 0

/-- The last outcome code, absent in SPENT (R188). -/
def Entry.outcomeByte (e : Entry) : Byte := if e.state = .spent then 0xFF else e.lastOutcome.code

/-- The entry record of READ ENTRY (Table 11-4). -/
def State.entryRecord (s : State) (h : Handle) : List Byte :=
  let e := s.entry h
  [be8 h.val, e.state.code, e.role.code, be8 e.precedence.val] ++ padCall e.key.call ++ be16 e.key.serial ++
    padCall e.destination ++ quadBytes e.accession ++ be32 e.filedTime ++ be16 e.textLength ++ optCall e.receivedFrom ++
    [optByte e.nextHop, optByte (s.derivedChannel h)] ++ optCall e.lastHop ++ [be8 e.attemptCount] ++
    quadBytes (e.notBefore.getD 0) ++ be32 (s.retryRemaining e) ++
    [e.outcomeByte, markByte e.cancelled, markByte e.changed, markByte (s.heldIndication e)]

/-- The summary of NEXT CHANGED (section 11.3). -/
def State.summary (s : State) (h : Handle) : List Byte :=
  let e := s.entry h
  [be8 h.val, e.state.code, e.role.code, be8 e.precedence.val] ++ padCall e.key.call ++ be16 e.key.serial ++
    padCall e.destination ++ [be8 e.attemptCount, e.outcomeByte]

/-- The characters of a body from an offset, at most a count and at most 256 of them (R24). -/
def Entry.textFrom (e : Entry) (offset count : Nat) : List Byte := (e.text.drop offset).take (min 256 count)

/-! ## Stations -/

/-- The kind and the relay of a record, as bytes (Table 11-5). -/
def Kind.bytes : Kind → List Byte
  | .direct => [0, 0xFF]
  | .via r => [1, be8 r.val]

/-- A monitor limit as a field: FFFFh when I is 0 (Table 11-5). -/
def Station.limitBytes (st : Station) (limit : Nat) : List Byte := if st.interval = 0 then be16 0xFFFF else be16 limit

/-- The station record of a directory index (Table 11-5). -/
def State.stationRecord (s : State) (i : Index) (st : Station) : List Byte :=
  [be8 i.val] ++ padCall st.call ++ [be8 st.channel.val] ++ st.kind.bytes ++ [optByte st.fallback,
    markByte st.netControl] ++ be16 st.interval ++ [be8 st.sensitivity.val, markByte st.forcedUnheard, st.reach.code] ++
    be16 st.heardAge ++ [be8 st.confirmCount] ++ be16 st.holdRemaining ++ [be8 st.holdCutoff.val,
    markByte (s.usable st)] ++ st.limitBytes st.enterLimit ++ st.limitBytes st.leaveLimit

/-! ## Channels -/

/-- A control frame slot (Table 11-6; note 9 for the to-call of an own HOLD). -/
def ControlFrame.slot : ControlFrame → List Byte
  | .receipt to_ _ v => [1] ++ padCall to_ ++ [v.code] ++ be16 0
  | .ownHold t c => [if t = 0 then 3 else 2] ++ allStationsField ++ [be8 c.val] ++ be16 t

/-- A slot beyond the queue count: kind 0, the rest absent (Table 11-6; note 9). -/
def emptySlot : List Byte := [0] ++ padCall [] ++ [0xFF] ++ be16 0

/-- The four control frame slots, head first (Table 11-6). -/
def slots (q : List ControlFrame) : List Byte :=
  (((q.map ControlFrame.slot) ++ List.replicate 4 emptySlot).take 4).flatten

/-- The own-hold condition (R86, Table 11-6). -/
def Channel.ownHoldCondition (x : Channel) : Byte :=
  match x.owed with
  | some .hold => 2
  | some .release => 3
  | none => if x.control.any (·.isOwn) then 1 else 0

/-- Receiver state codes (Table 11-6). -/
def Phase.code : Phase → Byte
  | .hunt => 0 | .head => 1 | .body => 2 | .tail => 3

/-- Transmitter state codes (Table 11-6). -/
def Transmitter.code : Transmitter → Byte
  | .idle => 0 | .clearing _ _ => 1 | .keying _ _ => 2 | .sending _ _ _ => 3 | .brk _ _ _ _ => 4

/-- Claimant codes (Table 11-6). -/
def Claimant.code : Claimant → Byte
  | .control => 1 | .beacon => 2 | .traffic => 3

/-- What a keyed claimant is (R133). -/
def OnAir.claimant : OnAir → Claimant
  | .control _ => .control
  | .beacon => .beacon
  | .traffic => .traffic

/-- The granted claimant's code, 0 for none (R152). -/
def Transmitter.grantedCode : Transmitter → Byte
  | .idle | .brk _ _ _ _ => 0
  | .clearing k _ => k.code
  | .keying w _ | .sending w _ _ => w.claimant.code

/-- The milliseconds until a counting beacon falls due (R138, R167). -/
def Channel.beaconRemaining (now start : Quad) (x : Channel) : Nat :=
  x.settings.beaconInterval * 1000 - (now - start).toNat

/-- The beacon condition and the milliseconds until it falls due (Table 11-6). While the beacon is keyed or sent no
interval is counted (R138), so the milliseconds read 0 (R188); the spec does not state which condition is reported: a free
choice among the three, drawn by the count n (note 3). -/
def Channel.beaconBytes (now : Quad) (n : Nat) (x : Channel) : List Byte :=
  match x.beacon with
  | .off => [0] ++ be32 0
  | .counting start => [1] ++ be32 (x.beaconRemaining now start)
  | .due => [2] ++ be32 0
  | .onAir => [be8 (Config.beaconConditionOnAir n).val] ++ be32 0

/-- The engine's state, engaged handle, W, recorded verdict and receipt timer (Table 11-6, R152). -/
def Engine.bytes : Engine → List Byte
  | .idle => [0] ++ optHandle none ++ be16 0 ++ [0xFF] ++ be16 0
  | .staged h w _ => [1] ++ optHandle (some h) ++ be16 w ++ [0xFF] ++ be16 0
  | .sending h r => [2] ++ optHandle (some h) ++ be16 0 ++ [(r.map Verdict.code).getD 0xFF] ++ be16 0
  | .awaiting h t => [3] ++ optHandle (some h) ++ be16 0 ++ [0xFF] ++ be16 t

/-- The window's condition and its four-byte figure (R174, Table 11-6). -/
def Window.bytes : Window → List Byte
  | .none => [0] ++ be32 0
  | .closed n => [1] ++ be32 n
  | .opened n => [2] ++ be32 n

/-- The channel record of READ CHANNEL (Table 11-6). -/
def State.channelRecord (s : State) (c : Chan) : List Byte :=
  let x := s.chan c
  let t := x.settings
  t.bytes ++ [markByte x.enabled, markByte (x.enabled && x.cdActive), markByte x.busy, markByte x.transmitter.keyed,
    markByte x.jammed] ++ be16 x.clearTime ++ be16 x.busyLength ++ [be8 t.bitsPerChar] ++ be16 t.gapLimit ++
    be16 t.receiptTimeout ++ be16 x.silenceRemaining ++ [be8 x.silenceCutoff.val] ++
    be16 (x.rehold.getD 0xFFFF) ++ [x.ownHoldCondition, x.receiver.phase.code] ++ optHandle x.receiver.reservation ++
    [be8 x.control.length] ++ slots x.control ++ [x.transmitter.code, x.transmitter.grantedCode] ++
    x.beaconBytes s.time.counter s.freeCount ++ x.engine.bytes ++ [markByte x.abortPause] ++ (s.window c).bytes

/-! ## Status, clock -/

/-- The status record of READ STATUS (Table 11-7). -/
def State.statusRecord (s : State) : List Byte :=
  [s.congestion.code] ++ be16 s.freeEntries ++ be16 s.freeBlocks ++ [s.flagByte, markByte s.changedPending,
    be8 (chanBits 0 fun c => (s.chan c).enabled), be8 (chanBits 0 fun c => (s.chan c).jammed),
    markByte (s.own.call ≠ [])]

/-- The data of READ CLOCK: second, millisecond, millisecond counter (R170, Table 11-3). -/
def State.clockRecord (s : State) : List Byte :=
  be32 s.time.clockSecond ++ be16 s.time.clockMs ++ quadBytes s.time.counter

/-- The bytes of the response buffer as a read frame drives them: the result, the data length and the data (R177). -/
def Response.bytes (r : Response) : List Byte := r.result.code :: (be16 r.data.length ++ r.data)

/-- What a read frame drives on SPDO, for a number of bytes clocked after the read code: the answer from its start, and
00h beyond its end (R177). -/
def State.spdo (s : State) (n : Nat) : List Byte := (s.response.bytes ++ List.replicate n 0).take n

/-- What the part drives on SPDO in a selection, one byte for each whole byte clocked: 00h throughout a request frame
(R175); in a read frame the answer from the byte after the read code on (R177), and 00h, as in any frame whose kind is not
yet known, beside the read code itself (DESIGN CHOICE: note 7). DESIGN CHOICE (note 7): in a selection that RESET discards
(R175), a read frame among them, SPDO drives 00h for every byte, those clocked before RESET was asserted included; the spec
does not say what it drives there. -/
def State.drives (s : State) (x : Selection) : List Byte :=
  match x.bytes with
  | [] => []
  | code :: rest =>
    if code = readCode ∧ x.resetAsserted = false then 0 :: s.spdo rest.length else List.replicate x.bytes.length 0

end Sys2Proof.Machine
end

