-- ==== Sys2Proof/Machine/Requests.lean ====
section
/-! DEFINITION. What every request of the Station Port shares: it is taken whole, its answer replaces the response
buffer, and it ends an abort pause that stood before it (R149, R175, R177, R178). -/

namespace Sys2Proof.Machine

/-- The answer of a step. -/
abbrev StepOutcome := Host.Outcome State Fault Refusal

/-- A channel's abort pause ends with a consideration, when it was set before the request and still is (R149). -/
def endPause (was : Chan → Bool) (c : Chan) (s : State) : State :=
  if was c && (s.chan c).abortPause then consider c (s.updChan c fun x => { x with abortPause := false }) else s

/-- A request taken: its own effect, then the end of the abort pauses that stood before it, then the arbiters (R149,
R175). -/
def takeRequest (effect : State → State) (s : State) : State :=
  arbitrateAll (forChans (endPause fun c => (s.chan c).abortPause) (effect s))

/-- A request that names a channel: BAD_VALUE outside 0..3 (R104 to R106, R109, R148). -/
def onChannel (b : Byte) (f : Chan → State → State) (s : State) : State :=
  match parseChannel b with
  | none => s.answer .badValue []
  | some c => f c s

/-- A request that names an occupied directory index: BAD_VALUE outside 0..63, NO_ENTRY where it is empty (R57,
R59). -/
def onStation (b : Byte) (f : Index → Station → State → State) (s : State) : State :=
  match parseIndex b with
  | none => s.answer .badValue []
  | some i =>
    match s.station i with
    | none => s.answer .noEntry []
    | some st => f i st s

/-- A request that acts on an entry: NO_ENTRY for a FREE one (R26). -/
def onEntry (b : Byte) (f : Handle → State → State) (s : State) : State :=
  if (s.entry (parseHandle b)).state = .free then s.answer .noEntry [] else f (parseHandle b) s

end Sys2Proof.Machine
end

