-- ==== Sys2Proof/Machine/LineWaits.lean ====
section
/-! DEFINITION. What a millisecond advance brings about on a channel's line and an event after it would undo: the end of a
frame by the gap limit, and JAMMED (R102, R103, R125). Each is taken by its own command, or first by an event that would
undo it: the millisecond was taken before that event (note 2). -/

namespace Sys2Proof.Machine

/-! ## Jam (R103) -/

/-- Whether the busy length has reached the jam threshold (R103). -/
def Channel.jamReached (x : Channel) : Bool :=
  x.enabled && x.busy && !x.jammed && x.settings.jamThreshold.any fun t => t ≤ x.busyLength

/-- The mark JAMMED set, with its flag (R103). -/
def Channel.jam (x : Channel) : Channel := { x with jammed := true, jamChanged := true }

/-- A channel becoming JAMMED, taken: the mark, the withdrawal of a STAGED exchange, the sweep (R103). -/
def takeJam (c : Chan) (s : State) : State :=
  if (s.chan c).jamReached then conclude (sweep (withdraw c (s.updChan c Channel.jam))) else s

/-! ## Gap (R125) -/

/-- Whether the gap count of a frame in progress exceeds the gap limit (R125). -/
def Channel.gapOver (x : Channel) : Bool := x.receiving && decide (x.settings.gapLimit < x.receiver.gap)

/-- The expiry of the gap limit, taken: the frame is damaged, and busy may end (R125), a JAMMED that waits being taken
before that end (R102). -/
def takeGap (c : Chan) (s : State) : State :=
  if (s.chan c).gapOver then conclude (gate c (damage c (takeJam c s))) else s

/-- What waits on a channel's line, taken before a handover of its sampler: the character is then taken in HUNT where the
gap limit has passed, and the end of busy finds the mark JAMMED as the millisecond has left it (R102, R125). -/
def settleLine (c : Chan) (s : State) : State := takeGap c (takeJam c s)

end Sys2Proof.Machine
end

