-- ==== Sys2Proof/Machine/ChannelRequests.lean ====
section
/-! DEFINITION. The requests that act on a channel: SET CHANNEL, READ CHANNEL, ENABLE CHANNEL, DISABLE CHANNEL and ABORT
CHANNEL (R104 to R109, R148 to R152, R180). -/

namespace Sys2Proof.Machine

/-! ## SET CHANNEL, READ CHANNEL -/

/-- A channel's settings, written (R104). -/
def writeSettings (t : Settings) (c : Chan) (s : State) : State := s.updChan c fun x => { x with settings := t }

/-- SET CHANNEL on a channel in range: a selector that names no choice, then an enabled channel, refuse it (R180). -/
def setChannel (p : SettingsBlock) (c : Chan) (s : State) : State :=
  match storedSettings p with
  | none => s.answer .badValue []
  | some t =>
    if (s.chan c).enabled then s.answer .wrongState [] else (writeSettings t c s).answer .done t.bytes

/-- SET CHANNEL (R104, R180). -/
def execSetChannel (channel : Byte) (p : SettingsBlock) (s : State) : StepOutcome :=
  .next (takeRequest (onChannel channel (setChannel p)) s)

/-- A free value counted as drawn, when the channel's beacon is on the air (note 3). -/
def drawBeacon (c : Chan) (s : State) : State :=
  if (s.chan c).beacon = .onAir then { s with freeCount := s.freeCount + 1 } else s

/-- READ CHANNEL of a channel in range (R109). -/
def readChannel (c : Chan) (s : State) : State := (drawBeacon c s).answer .done (s.channelRecord c)

/-- READ CHANNEL (R109, R152). -/
def execReadChannel (channel : Byte) (s : State) : StepOutcome :=
  .next (takeRequest (onChannel channel readChannel) s)

/-! ## ENABLE CHANNEL (R105, R150) -/

/-- A channel record at its enable: the sampler in LINE_RECOVERY, the receiver in HUNT, the engine IDLE, the beacon
counting from now, and the gate started with its counters at 0 (R105, R150). A break that still runs is kept. -/
def Channel.started (now : Quad) (x : Channel) : Channel :=
  ({ x with
    enabled := true
    sampler := .lineRecovery
    receiver := .hunt
    engine := .idle
    abortPause := false
    windowDue := none }.restartBeacon now).restartGate

/-- An own HOLD is queued on a newly enabled channel while the part is CONGESTED (R90). -/
def holdIfCongested (c : Chan) (s : State) : State := if s.congestion = .congested then queueOwnHold c s else s

/-- A disabled channel becomes enabled (R105). -/
def startChannel (c : Chan) (s : State) : State :=
  considerAll (sweep (holdIfCongested c (s.updChan c (Channel.started s.time.counter))))

/-- ENABLE CHANNEL of a channel in range (R54, R105). -/
def enableChannel (c : Chan) (s : State) : State :=
  if s.own.call = [] then s.answer .wrongState []
  else if (s.chan c).enabled then s.answer .done []
  else (startChannel c s).answer .done []

/-- ENABLE CHANNEL (R105). -/
def execEnableChannel (channel : Byte) (s : State) : StepOutcome :=
  .next (takeRequest (onChannel channel enableChannel) s)

/-! ## DISABLE CHANNEL (R106, R151) -/

/-- The channel record marked disabled: from this moment it is disabled for every rule (R107). -/
def markDisabled (c : Chan) (s : State) : State := s.updChan c fun x => { x with enabled := false }

/-- The control frame queue emptied, the owed mark, the silence and the re-hold timer cleared (R90, R106). -/
def Channel.cleared (x : Channel) : Channel :=
  { x with control := [], owed := none, silenceRemaining := 0, silenceCutoff := 0, silenceEndDue := false,
           rehold := none, abortPause := false }

/-- What DISABLE CHANNEL leaves of a channel record once its exchange has ended, its transmitter is cut and its frame in
reception is damaged (R90, R106, R107, R151). -/
def Channel.stoppedRecord (x : Channel) : Channel :=
  { x.cleared with sampler := .stopped, beacon := .off, windowDue := none }.restartGate

/-- DISABLE CHANNEL's effects on an enabled channel, the sweep included (R106, R151). -/
def stopChannel (c : Chan) (s : State) : State :=
  sweep ((damage c (cutTransmitter c (endExchange c (markDisabled c s)))).updChan c Channel.stoppedRecord)

/-- DISABLE CHANNEL of a channel in range (R106); a JAMMED that waits is taken first (R102, note 2). -/
def disableChannel (c : Chan) (s : State) : State :=
  if (s.chan c).enabled then considerAll ((stopChannel c (takeJam c s)).answer .done []) else s.answer .done []

/-- DISABLE CHANNEL (R106). -/
def execDisableChannel (channel : Byte) (s : State) : StepOutcome :=
  .next (takeRequest (onChannel channel disableChannel) s)

/-! ## ABORT CHANNEL (R148, R149) -/

/-- The transmitter cut, when the channel's exchange is SENDING (R148, Table 7-2). -/
def cutExchange (c : Chan) (s : State) : State :=
  match (s.chan c).engine with
  | .sending _ _ => cutTransmitter c s
  | _ => s

/-- The abort pause set (R149). -/
def setPause (c : Chan) (s : State) : State := s.updChan c fun x => { x with abortPause := true }

/-- The exchange of a channel ended by ABORT CHANNEL: the transmitter cut, the exchange withdrawn or aborted, the pause
set, keying released (R148). -/
def abortExchange (c : Chan) (s : State) : State := gate c (setPause c (endExchange c (cutExchange c s)))

/-- ABORT CHANNEL of a channel in range: the answer names the entry and its state after the abort (R148; note 8). -/
def abortChannel (c : Chan) (s : State) : State :=
  match (s.chan c).engine.entry? with
  | none => s.answer .wrongState []
  | some h =>
    let s1 := abortExchange c s
    considerAll (s1.answer .done [be8 h.val, (s1.entry h).state.code])

/-- ABORT CHANNEL (R148). -/
def execAbortChannel (channel : Byte) (s : State) : StepOutcome :=
  .next (takeRequest (onChannel channel abortChannel) s)

end Sys2Proof.Machine
end

