-- ==== Sys2Proof/Machine/LineEvents.lean ====
section
/-! DEFINITION. The events of a channel's receive line and of its CD pin (R95 to R97, R100). An event whose condition
does not hold is none and leaves the state as it is (note 1). -/

namespace Sys2Proof.Machine

/-- The end of an event on a channel's receive line: the carrier gate, then the considerations and the arbiters (R100,
R133, R142). -/
def concludeLine (c : Chan) (s : State) : State := conclude (gate c s)

/-! ## What the sampler hands over (R96, R97) -/

/-- A good character handed over (R96, R117 to R125). -/
def handGood (c : Chan) (code : Byte) (s : State) : State :=
  concludeLine c (receiveCharacter c code (setSampler (.lineIdle false) c (settleLine c s)))

/-- A frame in progress is damaged; in HUNT there is none (R96, R97, R124). -/
def damageInProgress (c : Chan) (s : State) : State := if (s.chan c).receiving then damage c s else s

/-- A character error handed over: after a framing error the next start bit waits for a mark (R96). -/
def handError (c : Chan) (stopBit : Bool) (s : State) : State :=
  concludeLine c (damageInProgress c (setSampler (.lineIdle !stopBit) c (settleLine c s)))

/-- A break received (R97). -/
def handBreak (c : Chan) (s : State) : State :=
  concludeLine c (damageInProgress c (setSampler .lineRecovery c (settleLine c s)))

/-- What the sampler of a channel makes of a character's samples: the votes, and the handover that they give by the
channel's parity setting (R95, R96). -/
def Channel.handsOver (x : Channel) (y : Sampled) : Handover := handover x.settings.parity (voted y)

/-- GOOD_CHARACTER (R95, R96): the votes give a good character by the channel's parity setting. -/
def execGoodCharacter (c : Chan) (x : Sampled) (s : State) : StepOutcome :=
  .next (if (s.chan c).sampling ∧ (s.chan c).handsOver x = .good (voted x).data then handGood c (voted x).data s else s)

/-- CHARACTER_ERROR (R95, R96): the votes give an error by the channel's parity setting. -/
def execCharacterError (c : Chan) (x : Sampled) (s : State) : StepOutcome :=
  .next (if (s.chan c).sampling ∧ (s.chan c).handsOver x = .error then handError c (voted x).stopBit s else s)

/-- BREAK_RECEIVED (R97): the votes of the character in progress are all for space, which the command says by its name
(note 5). -/
def execBreakReceived (c : Chan) (s : State) : StepOutcome :=
  .next (if (s.chan c).sampling then handBreak c s else s)

/-! ## The sampler's other moves (R95, R97) -/

/-- Whether a start bit can be recognised: in LINE_IDLE, and after a framing error only once a sample has read mark
(R95, R96). -/
def Channel.awaitsStart (x : Channel) (markSeen : Bool) : Bool :=
  match x.sampler with
  | .lineIdle await => x.enabled && (!await || markSeen)
  | _ => false

/-- START_BIT (R95). -/
def execStartBit (c : Chan) (markSeen : Bool) (s : State) : StepOutcome :=
  .next (if (s.chan c).awaitsStart markSeen then setSampler .character c s else s)

/-- SHORT_PULSE: the start bit's samples 7, 8 and 9 vote for mark (R95). -/
def execShortPulse (c : Chan) (s7 s8 s9 : Bool) (s : State) : StepOutcome :=
  .next (if (s.chan c).sampling ∧ majority s7 s8 s9 then setSampler (.lineIdle false) c s else s)

/-- Whether the sampler may leave LINE_RECOVERY: while the radio is keyed its count of marks is kept at 0 (R97, R99). -/
def Channel.recovers (x : Channel) : Bool := x.enabled && x.sampler = .lineRecovery && !x.transmitter.keyed

/-- LINE_RECOVERY_END: 16 samples at mark in a row (R97). -/
def execLineRecoveryEnd (c : Chan) (s : State) : StepOutcome :=
  .next (if (s.chan c).recovers then setSampler (.lineIdle false) c s else s)

/-! ## The CD pin (R100) -/

/-- The level of a CD pin. -/
def setCd (level : Bool) (c : Chan) (s : State) : State := s.updChan c fun x => { x with cdPin := level }

/-- CD_INPUT_CHANGE: busy may begin or end (R100), a JAMMED that waits being taken first (R102). On a disabled channel the
pin is not read (R107). -/
def execCdInputChange (c : Chan) (level : Bool) (s : State) : StepOutcome :=
  .next (concludeLine c (setCd level c (takeJam c s)))

end Sys2Proof.Machine
end

