-- ==== Sys2Proof/Machine/MessageRequests.lean ====
section
/-! DEFINITION. The requests that act on messages: FILE, READ ENTRY, READ TEXT, FIND, NEXT CHANGED, LIST QUEUE, AMEND,
CANCEL, RENEW and RETIRE (R15, R21 to R24, R26 to R29, R47 to R51, R70). -/

namespace Sys2Proof.Machine

/-! ## FILE (R28, R29) -/

/-- A destination that FILE and AMEND accept: a valid call other than the own call (R28, R48). -/
def State.destinationOf (s : State) (f : CallField) : Option Call := (portCall f).filter (· ≠ s.own.call)

/-- The entry that FILE allocates, before its serial is chosen (R3, R29). -/
def State.filedEntry (s : State) (p : Fin 8) (d : Call) (body : List Byte) : Entry :=
  { Entry.free with
    state := .ready
    role := .originated
    key := ⟨s.own.call, 0⟩
    precedence := p
    destination := d
    filedTime := s.filedNow
    textLength := body.length
    text := body }

/-- The serial chosen for a new entry, and the counter moved to the one that follows (R13). -/
def giveSerial (h : Handle) (s : State) : State :=
  let n := freeSerial s s.own.call 256 s.ownSerial
  { s.updEntry h (fun e => { e with key := ⟨s.own.call, n⟩ }) with ownSerial := serialAfter n }

/-- FILE with parameters that pass (R28, R29): allocation or FULL; the serial; resolution and placing; the answer. -/
def fileMessage (p : Fin 8) (d : Call) (body : List Byte) (s : State) : State :=
  match s.allocate (s.filedEntry p d body) with
  | none => s.answer .full []
  | some (h, s1) =>
    let s2 := (giveSerial h (testCongestion s1)).place h
    considerAll (s2.answer .done ([be8 h.val] ++ be16 (s2.entry h).key.serial ++ [optByte (s2.placedOn h)]))

/-- FILE (R28, R29). -/
def file (precedence : Byte) (destination : CallField) (body : List Byte) (s : State) : State :=
  match parsePrec precedence, s.destinationOf destination with
  | some p, some d =>
    if Config.maxText < body.length ∨ ¬ body.all isBodyChar then s.answer .badValue []
    else if s.own.call = [] then s.answer .wrongState []
    else fileMessage p d body s
  | _, _ => s.answer .badValue []

/-- FILE (R29). -/
def execFile (precedence : Byte) (destination : CallField) (body : List Byte) (s : State) : StepOutcome :=
  .next (takeRequest (file precedence destination body) s)

/-! ## Reading -/

/-- READ ENTRY (R23). -/
def execReadEntry (handle : Byte) (s : State) : StepOutcome :=
  .next (takeRequest (onEntry handle fun h s => s.answer .done (s.entryRecord h)) s)

/-- READ TEXT of an entry (R24). -/
def readText (offset count : Nat) (h : Handle) (s : State) : State :=
  if (s.entry h).state.textComplete then
    let t := (s.entry h).textFrom offset count
    s.answer .done (be16 t.length ++ t)
  else s.answer .wrongState []

/-- READ TEXT (R24). -/
def execReadText (handle : Byte) (offset count : Half) (s : State) : StepOutcome :=
  .next (takeRequest (onEntry handle (readText offset.toNat count.toNat)) s)

/-- FIND (R15). -/
def find (origin : CallField) (serial : Half) (s : State) : State :=
  match portCall origin with
  | none => s.answer .badValue []
  | some call =>
    if serial.toNat < 1 ∨ 9999 < serial.toNat then s.answer .badValue []
    else match s.findKey ⟨call, serial.toNat⟩ with
      | none => s.answer .noEntry []
      | some h => s.answer .done [be8 h.val, (s.entry h).state.code]

/-- FIND (R15). -/
def execFind (origin : CallField) (serial : Half) (s : State) : StepOutcome :=
  .next (takeRequest (find origin serial) s)

/-- NEXT CHANGED (R21). -/
def nextChanged (s : State) : State :=
  match s.findEntry (·.changed) with
  | none => s.answer .nothing []
  | some h => (s.updEntry h fun e => { e with changed := false }).answer .done (s.summary h)

/-- NEXT CHANGED (R21). -/
def execNextChanged (s : State) : StepOutcome := .next (takeRequest nextChanged s)

/-- The collection that a LIST QUEUE selector names (R70). -/
def parseCollection (b : Byte) : Option Collection :=
  if b = 4 then some .unrouted else (parseChannel b).map .queue

/-- LIST QUEUE (R70). -/
def listQueue (selector : Byte) (start : Half) (s : State) : State :=
  match parseCollection selector with
  | none => s.answer .badValue []
  | some k =>
    if 255 < start.toNat then s.answer .badValue []
    else
      let q := s.collection k
      let part := (q.drop start.toNat).take 32
      s.answer .done (be16 q.length ++ [be8 part.length] ++ part.map fun h => be8 h.val)

/-- LIST QUEUE (R70). -/
def execListQueue (selector : Byte) (start : Half) (s : State) : StepOutcome :=
  .next (takeRequest (listQueue selector start) s)

/-! ## AMEND (R48, R49) -/

/-- The precedence that AMEND gives an entry: FFh leaves it unchanged (R48, R187). -/
def amendedPrecedence (old : Fin 8) (b : Byte) : Option (Fin 8) := if b = 0xFF then some old else parsePrec b

/-- The destination that AMEND gives an entry: eight spaces leave it unchanged (R48, R187). -/
def State.amendedDestination (s : State) (old : Call) (f : CallField) : Option Call :=
  if isBlank f then some old else s.destinationOf f

/-- The states that AMEND accepts (R48). -/
def EntryState.amendable : EntryState → Bool
  | .ready | .retryWait | .failed | .refused | .cancelled => true
  | _ => false

/-- AMEND's effect on an entry in a state it accepts: a READY entry leaves its collection and is placed anew; the answer
reports it as placed (R49; note 8). -/
def amendEntry (p : Fin 8) (d : Call) (h : Handle) (s : State) : State :=
  if (s.entry h).state = .ready then
    let s1 := ((s.leave h).updEntry h fun e => { e with precedence := p, destination := d }).place h
    considerAll (s1.answer .done [EntryState.ready.code, optByte (s1.placedOn h)])
  else
    (s.updEntry h fun e => { e with precedence := p, destination := d }).answer .done
      [(s.entry h).state.code, 0xFF]

/-- AMEND of an entry (R48). -/
def amend (precedence : Byte) (destination : CallField) (h : Handle) (s : State) : State :=
  match amendedPrecedence (s.entry h).precedence precedence,
      s.amendedDestination (s.entry h).destination destination with
  | some p, some d => if (s.entry h).state.amendable then amendEntry p d h s else s.answer .wrongState []
  | _, _ => s.answer .badValue []

/-- AMEND (R49). -/
def execAmend (handle precedence : Byte) (destination : CallField) (s : State) : StepOutcome :=
  .next (takeRequest (onEntry handle (amend precedence destination)) s)

/-! ## CANCEL, RENEW, RETIRE -/

/-- An entry becomes CANCELLED by the request itself, with an outcome; the changed flag is not set (R47). -/
def State.cancelEntry (s : State) (h : Handle) (o : LastOutcome) : State :=
  s.updEntry h fun e =>
    { e with state := .cancelled, lastOutcome := o, nextHop := none, notBefore := none, cancelPending := none }

/-- CANCEL of an ENGAGED entry: withdrawn while STAGED, else cancel pending (R47). -/
def cancelEngaged (h : Handle) (s : State) : State :=
  match s.engineOf h with
  | none => s.answer .wrongState []
  | some c =>
    match (s.chan c).engine with
    | .staged _ _ _ =>
      considerAll (((idleEngine c s).cancelEntry h .withdrawn).answer .done [EntryState.cancelled.code])
    | _ => (s.updEntry h fun e => { e with cancelPending := some true }).answer .done [EntryState.engaged.code]

/-- CANCEL of an entry, by its state (R47). -/
def cancel (h : Handle) (s : State) : State :=
  match (s.entry h).state with
  | .ready => ((s.leave h).cancelEntry h (s.entry h).lastOutcome).answer .done [EntryState.cancelled.code]
  | .retryWait => (s.cancelEntry h (s.entry h).lastOutcome).answer .done [EntryState.cancelled.code]
  | .engaged => cancelEngaged h s
  | _ => s.answer .wrongState []

/-- CANCEL (R47). -/
def execCancel (handle : Byte) (s : State) : StepOutcome := .next (takeRequest (onEntry handle cancel) s)

/-- The states that RENEW accepts (R50). -/
def EntryState.renewable : EntryState → Bool
  | .failed | .refused | .cancelled => true
  | _ => false

/-- RENEW of an entry (R50). -/
def renew (h : Handle) (s : State) : State :=
  if (s.entry h).state.renewable then
    let s1 := (s.updEntry h fun e => { e with attemptCount := 0, lastOutcome := .none }).place h
    considerAll (s1.answer .done [EntryState.ready.code, optByte (s1.placedOn h)])
  else s.answer .wrongState []

/-- RENEW (R50). -/
def execRenew (handle : Byte) (s : State) : StepOutcome := .next (takeRequest (onEntry handle renew) s)

/-- The states that RETIRE accepts (R51). -/
def EntryState.finished : EntryState → Bool
  | .sent | .refused | .failed | .cancelled | .arrived => true
  | _ => false

/-- RETIRE of an entry (R51). -/
def retire (h : Handle) (s : State) : State :=
  if (s.entry h).state.finished then (retireEntry h s).answer .done [] else s.answer .wrongState []

/-- RETIRE (R51). -/
def execRetire (handle : Byte) (s : State) : StepOutcome := .next (takeRequest (onEntry handle retire) s)

end Sys2Proof.Machine
end

