-- ==== Sys2Proof/Machine/Windows.lean ====
section
/-! DEFINITION. The transmit windows at work: their re-evaluation, and what open and close events do (R172 to R174). -/

namespace Sys2Proof.Machine

/-- A window event that waits is taken off the channel (note 2). -/
def clearWindowDue (c : Chan) (s : State) : State := s.updChan c fun x => { x with windowDue := none }

/-- What a window event does on its channel: on an enabled one a close withdraws a STAGED exchange; an open brings the
considerations alone (R173, R174). -/
def applyWindow (e : WindowEvent) (c : Chan) (s : State) : State :=
  match e with
  | .closed => if (s.chan c).enabled then withdraw c s else s
  | .opened => s

/-- A window event that waits is taken (R173, R174). -/
def takeWindow (e : WindowEvent) (c : Chan) (s : State) : State := conclude (applyWindow e c (clearWindowDue c s))

/-- A window event that waits, whichever it is, is taken. -/
def settleWindow (c : Chan) (s : State) : State :=
  match (s.chan c).windowDue with
  | some e => takeWindow e c s
  | none => s

/-- The event that a change of the station clock to a second and a millisecond gives on a channel (R172). -/
def State.windowChange (s : State) (second ms : Nat) (c : Chan) : Option WindowEvent :=
  windowEvent (s.window c) ((s.chan c).settings.window second ms)

/-- The station clock, written (R169, R170). -/
def writeClock (second ms : Nat) (s : State) : State :=
  { s with time := { s.time with clockSecond := second, clockMs := ms } }

end Sys2Proof.Machine
end

