-- ==== Sys2Proof/Machine/PortRequests.lean ====
section
/-! DEFINITION. The requests that act on the whole part: SET CLASS, SET OWN, READ STATUS, SET CLOCK and READ CLOCK; and
the selections that are no request: a read frame and a bad frame (R158, R170, R176, R177, R180, R181, R183). -/

namespace Sys2Proof.Machine

/-! ## SET CLASS (R158) -/

/-- A row of the class table, written. -/
def writeClass (p : Fin 8) (r : ClassRow) (s : State) : State := { s with classes := s.classes.set p.val r }

/-- The row of a precedence as an answer carries it (Table 11-3). -/
def ClassRow.bytes (p : Fin 8) (r : ClassRow) : List Byte := [be8 p.val, be8 r.retryLimit, be8 r.baseWait]

/-- SET CLASS (R158, R180). -/
def setClass (precedence retryLimit baseWait : Byte) (s : State) : State :=
  match parsePrec precedence with
  | none => s.answer .badValue []
  | some p =>
    let r := clampClass retryLimit.toNat baseWait.toNat
    considerAll ((writeClass p r s).answer .done (r.bytes p))

/-- SET CLASS (R158). -/
def execSetClass (precedence retryLimit baseWait : Byte) (s : State) : StepOutcome :=
  .next (takeRequest (setClass precedence retryLimit baseWait) s)

/-! ## SET OWN (R60, R181) -/

/-- Whether SET OWN gives the field of a bit of its mask (section 11.2). -/
def givesField (p : OwnBlock) (bit : Nat) : Bool := p.mask.getLsbD bit

/-- A field that SET OWN gives, through its check, or the value that stands (R181). -/
def givenField {α : Type} (p : OwnBlock) (bit : Nat) (given : Option α) (old : α) : Option α :=
  if givesField p bit then given else some old

/-- The own call that SET OWN gives: eight spaces for the empty call, else a valid call that no record holds (R181,
checks 1 and 2). -/
def State.givenCall (s : State) (f : CallField) : Option Call :=
  if isBlank f then some [] else (portCall f).filter fun call => (s.findStation call).isNone

/-- The default route that SET OWN gives: absent, or an occupied index (R181, check 3). -/
def State.givenRoute (s : State) (b : Byte) : Option (Option Index) :=
  if b = 0xFF then some none else ((parseIndex b).filter fun i => (s.station i).isSome).map some

/-- A tuning field of SET OWN, given or unchanged (R181). -/
def tunedField {α : Type} (p : OwnBlock) (bit : Nat) (given old : α) : α := if givesField p bit then given else old

/-- The own-station record that SET OWN writes, `none` where an identity field or a mode is outside its values (R181,
checks 1 to 4; Tables 4-2 and 4-3 for the clamps). -/
def State.givenOwn (s : State) (p : OwnBlock) : Option OwnStation :=
  let o := s.own
  (givenField p 0 (s.givenCall p.call) o.call).bind fun call =>
  (givenField p 1 (s.givenRoute p.defaultRoute) o.defaultRoute).bind fun route =>
  (givenField p 8 (parseMark p.reholdMode) o.reholdMode).bind fun rehold =>
  (givenField p 9 (parseMark p.releaseMode) o.releaseMode).map fun release =>
  OwnStation.clampThresholds {
    call := call
    defaultRoute := route
    enterEntries := tunedField p 2 p.enterEntries.toNat o.enterEntries
    enterBlocks := tunedField p 3 p.enterBlocks.toNat o.enterBlocks
    leaveEntries := tunedField p 4 p.leaveEntries.toNat o.leaveEntries
    leaveBlocks := tunedField p 5 p.leaveBlocks.toNat o.leaveBlocks
    holdTime := tunedField p 6 (max 1 p.holdTime.toNat) o.holdTime
    holdCutoff := tunedField p 7 (clampSeven p.holdCutoff) o.holdCutoff
    reholdMode := rehold
    releaseMode := release
    reholdLead := tunedField p 10 (max 1 p.reholdLead.toNat) o.reholdLead
    fullBackoff := tunedField p 11 (max 1 p.fullBackoff.toNat) o.fullBackoff }

/-- The own-station record, written. -/
def writeOwn (o : OwnStation) (s : State) : State := { s with own := o }

/-- A sweep, when the default route differs from the one it replaced (R60). -/
def sweepIfRouted (old : Option Index) (s : State) : State := if s.own.defaultRoute = old then s else sweep s

/-- SET OWN (R181): the checks, the record written whole, the test of congestion, the sweep, the answer. -/
def setOwn (p : OwnBlock) (s : State) : State :=
  match s.givenOwn p with
  | none => s.answer .badValue []
  | some o =>
    if o.call ≠ s.own.call ∧ s.anyEnabled then s.answer .wrongState []
    else considerAll ((sweepIfRouted s.own.defaultRoute (testCongestion (writeOwn o s))).answer .done o.bytes)

/-- SET OWN (R181). -/
def execSetOwn (p : OwnBlock) (s : State) : StepOutcome := .next (takeRequest (setOwn p) s)

/-! ## READ STATUS, the clock -/

/-- READ STATUS: the record composed, the flags that it reports cleared, in one act (R183). -/
def readStatus (s : State) : State := s.clearFlags.answer .done s.statusRecord

/-- READ STATUS (R183). -/
def execReadStatus (s : State) : StepOutcome := .next (takeRequest readStatus s)

/-- An accepted SET CLOCK: window events of an earlier clock second come first (note 2); the clock is set, the events
that it gives are applied, and every engine considers (R170). -/
def writeSecond (second : Nat) (s : State) : State :=
  let s1 := forChans settleWindow s
  let act := fun c s => match s1.windowChange second 0 c with
    | some e => applyWindow e c s
    | none => s
  considerAll ((forChans act (writeClock second 0 s1)).answer .done [])

/-- SET CLOCK (R170). -/
def setClock (second : Quad) (s : State) : State :=
  if 86399 < second.toNat then s.answer .badValue [] else writeSecond second.toNat s

/-- SET CLOCK (R170). -/
def execSetClock (second : Quad) (s : State) : StepOutcome := .next (takeRequest (setClock second) s)

/-- READ CLOCK (R170). -/
def execReadClock (s : State) : StepOutcome := .next (takeRequest (fun s => s.answer .done s.clockRecord) s)

/-! ## Selections that are no request -/

/-- A read frame changes nothing; what a selection drives on SPDO is `State.drives` (R175, R177). -/
def execReadFrame (s : State) : StepOutcome := .next s

/-- A bad frame replaces the response buffer and does nothing else; it is no request taken (R176). -/
def execBadFrame (s : State) : StepOutcome := .next (s.answer .badFrame [])

end Sys2Proof.Machine
end

