-- ==== Sys2Proof/Machine/Resets.lean ====
section
/-! DEFINITION. Power-on, the RESET pin, CLEAR ALL and CLEAR CHANNELS (R108, R110, R185, R186, Tables 1-4, 3-6, 4-5, 5-2,
6-4, 7-5, 10-3). -/

namespace Sys2Proof.Machine

/-! ## Power-on, the RESET pin, CLEAR ALL -/

/-- Every piece of state at its value after power-on, but for the inputs and the model's own: the CD levels, the
commands that wait, and the count of free values (notes 1, 3 and 6). -/
def State.resetParts (s : State) : State :=
  { State.reset with
    channels := mapVector (fun x => { Channel.reset with cdPin := x.cdPin }) s.channels
    freeCount := s.freeCount
    pending := s.pending }

/-- POWER_ON (R110, R185). -/
def execPowerOn (s : State) : StepOutcome := .next s.resetParts

/-- RESET_PIN: assertion acts as power-on (R110). -/
def execResetPin (s : State) : StepOutcome := .next s.resetParts

/-- The transmitter as CLEAR ALL leaves it: cut on an enabled channel at the settings then in force; a break runs on
(R110, R185, Table 7-2). -/
def Channel.afterClearAll (x : Channel) : Channel :=
  { Channel.reset with
    cdPin := x.cdPin
    transmitter := x.transmitter.cut x.settings }

/-- CLEAR ALL: the part as after power-on, breaks running on, and the answer DONE (R185). -/
def clearAll (s : State) : State :=
  { s.resetParts with
    channels := mapVector Channel.afterClearAll s.channels
    response := ⟨.done, []⟩ }

/-- CLEAR ALL (R185). -/
def execClearAll (s : State) : StepOutcome := .next (takeRequest clearAll s)

/-! ## CLEAR CHANNELS -/

/-- A reservation released by a clear: the congestion change is taken, its frames wait (R90). -/
def releaseQuietly (c : Chan) (s : State) : State :=
  match (s.chan c).receiver.reservation with
  | some h => (freeEntry h s).markCongestion
  | none => s

/-- What CLEAR CHANNELS leaves of an enabled channel's record once its exchange has ended and its transmitter is cut
(R90, R108, R151). -/
def Channel.clearedRecord (now : Quad) (x : Channel) : Channel :=
  ({ x.cleared with sampler := .lineRecovery, receiver := .hunt }.restartBeacon now).restartGate

/-- CLEAR CHANNELS acting on one channel, the own HOLD frames and the sweep apart (R108). -/
def clearChannel (c : Chan) (s : State) : State :=
  (releaseQuietly c (cutTransmitter c (endExchange c s))).updChan c (Channel.clearedRecord s.time.counter)

/-- The own frames that a clear brings, once every queue is empty: an own HOLD on each enabled channel while CONGESTED,
an own release on each when the clear has brought NORMAL and release mode is on (R90). -/
def clearFrames (was : Congestion) (s : State) : State :=
  if s.congestion = .congested then forChans (ifEnabled queueOwnHold) s
  else if was = .congested ∧ s.own.releaseMode then forChans (ifEnabled queueOwnRelease) s
  else s

/-- CLEAR CHANNELS (R108, R186); a JAMMED that waits is taken first (R102, note 2). -/
def clearChannels (s : State) : State :=
  if s.anyEnabled then
    considerAll ((sweep (clearFrames s.congestion (forChans (ifEnabled clearChannel) (forChans takeJam s)))).answer
      .done [])
  else s.answer .done []

/-- CLEAR CHANNELS (R186). -/
def execClearChannels (s : State) : StepOutcome := .next (takeRequest clearChannels s)

end Sys2Proof.Machine
end

