-- ==== Sys2Proof/Machine/StationRequests.lean ====
section
/-! DEFINITION. The requests that act on the Station Directory: SET STATION, READ STATION, DROP STATION and FORCE STATION
(R55 to R59). -/

namespace Sys2Proof.Machine

/-! ## SET STATION (R55, R56) -/

/-- Whether a record other than an index's own holds a call (Table 3-3). -/
def State.callTaken (s : State) (i : Index) (call : Call) : Bool :=
  match s.findStation call with
  | some j => j ≠ i || (s.setStation i none).findStation call ≠ none
  | none => false

/-- Whether a record is a VIA record with a given relay. -/
def relaysThrough (i : Index) (r : Option Station) : Bool := r.any fun st => st.kind = .via i

/-- Whether an index is the relay of some VIA record (R55, R57). -/
def State.isRelay (s : State) (i : Index) : Bool := s.stations.toList.any (relaysThrough i)

/-- The kind that SET STATION gives, with its relay checked for VIA: in range, occupied, not the index being written,
and DIRECT (Table 3-3). For DIRECT the relay is disregarded. -/
def State.kindOf (s : State) (i : Index) (kind relay : Byte) : Option Kind :=
  match parseMark kind with
  | none => none
  | some false => some .direct
  | some true =>
    (parseIndex relay).bind fun r =>
      if r ≠ i ∧ (s.station r).any (·.kind = .direct) then some (.via r) else none

/-- The fallback that SET STATION gives: absent, or an occupied index other than the one being written (Table 3-3). -/
def State.fallbackOf (s : State) (i : Index) (b : Byte) : Option (Option Index) :=
  if b = 0xFF then some none
  else (parseIndex b).bind fun f => if f ≠ i ∧ (s.station f).isSome then some (some f) else none

/-- The record that an accepted SET STATION writes when the index was empty or held another call (R56). -/
def newStation (call : Call) (channel : Chan) (kind : Kind) (fallback : Option Index) (net : Bool) (interval : Nat)
    (sensitivity : Fin 8) : Station where
  call := call
  channel := channel
  kind := kind
  fallback := fallback
  netControl := net
  interval := interval
  sensitivity := sensitivity
  forcedUnheard := false
  reach := .heard
  heardAge := 0
  confirmCount := 0
  holdRemaining := 0
  holdCutoff := 0
  overLimitDue := false
  holdEndDue := false

/-- The record with the configured fields of a new one and the kept fields of the old one of the same call; a station
that is no longer monitored becomes HEARD at once (R56). DESIGN CHOICE (note 20): a heard age that went over its limit and still
waits for HEARD_AGE_OVER_LIMIT is dropped when the new interval is 0: the station stays HEARD, and REACH_CHANGED is not set. -/
def Station.rewritten (old new_ : Station) : Station :=
  let back := new_.interval = 0 ∧ old.reach = .unheard
  { new_ with
    forcedUnheard := old.forcedUnheard
    reach := if back then .heard else old.reach
    heardAge := old.heardAge
    confirmCount := if back then 0 else old.confirmCount
    holdRemaining := old.holdRemaining
    holdCutoff := old.holdCutoff
    overLimitDue := old.overLimitDue && new_.interval ≠ 0
    holdEndDue := old.holdEndDue }

/-- The record that SET STATION leaves at an index (R56). One for another call keeps nothing of the old record, a heard age
over its limit that waits included (DESIGN CHOICE: note 20). -/
def writtenStation (old : Option Station) (new_ : Station) : Station :=
  match old with
  | some st => if st.call = new_.call then st.rewritten new_ else new_
  | none => new_

/-- The answer of SET STATION: the station record as stored (R179, Table 11-3). -/
def answerStation (i : Index) (s : State) : State :=
  match s.station i with
  | some st => s.answer .done (s.stationRecord i st)
  | none => s.answer .noEntry []

/-- An accepted SET STATION: the record written, REACH_CHANGED set when a station came back to HEARD, a sweep, the answer
and the considerations (R56, R67, R142). -/
def writeStation (i : Index) (new_ : Station) (s : State) : State :=
  let st := writtenStation (s.station i) new_
  let came := (s.station i).any (fun old => old.call = new_.call && old.reach = .unheard) && st.reach = .heard
  let s1 := s.setStation i (some st)
  let s2 := if came then { s1 with reachChanged := true } else s1
  considerAll (answerStation i (sweep s2))

/-- The parameters of SET STATION that pass the checks of Table 3-3 but the last, as the index and the new record. -/
def State.parseStation (s : State) (p : StationBlock) : Option (Index × Station) :=
  (parseIndex p.index).bind fun i =>
  (portCall p.call).bind fun call =>
  if call = s.own.call ∨ s.callTaken i call then none
  else
    (parseChannel p.channel).bind fun channel =>
    (parseMark p.netControl).bind fun net =>
    (s.kindOf i p.kind p.relay).bind fun kind =>
    (s.fallbackOf i p.fallback).map fun fallback =>
      (i, newStation call channel kind fallback net (min 3600 p.interval.toNat) (clampSeven p.sensitivity))

/-- SET STATION (R55, R56). -/
def setStation (p : StationBlock) (s : State) : State :=
  match s.parseStation p with
  | none => s.answer .badValue []
  | some (i, new_) =>
    if s.isRelay i ∧ new_.kind ≠ .direct then s.answer .inUse [] else writeStation i new_ s

/-- SET STATION (R56). -/
def execSetStation (p : StationBlock) (s : State) : StepOutcome := .next (takeRequest (setStation p) s)

/-! ## READ STATION, DROP STATION, FORCE STATION -/

/-- READ STATION (R59). -/
def execReadStation (index : Byte) (s : State) : StepOutcome :=
  .next (takeRequest (onStation index fun i st s => s.answer .done (s.stationRecord i st)) s)

/-- Whether an index is the fallback of some record. -/
def State.isFallback (s : State) (i : Index) : Bool :=
  s.stations.toList.any fun r => r.any fun st => st.fallback = some i

/-- DROP STATION of an occupied index (R57). A heard age over its limit that waits goes with the record (DESIGN CHOICE: note
20). -/
def dropStation (i : Index) (s : State) : State :=
  if s.isRelay i ∨ s.isFallback i ∨ s.own.defaultRoute = some i then s.answer .inUse []
  else considerAll ((sweep (s.setStation i none)).answer .done [])

/-- DROP STATION (R57). -/
def execDropStation (index : Byte) (s : State) : StepOutcome :=
  .next (takeRequest (onStation index fun i _ s => dropStation i s) s)

/-- FORCE STATION of an occupied index: a sweep when the mark changes (R58). -/
def forceStation (mark : Bool) (i : Index) (st : Station) (s : State) : State :=
  if st.forcedUnheard = mark then s.answer .done []
  else considerAll ((sweep (s.updStation i fun r => { r with forcedUnheard := mark })).answer .done [])

/-- FORCE STATION (R58): the index and the mark are checked before an empty index is answered. -/
def execForceStation (index mark : Byte) (s : State) : StepOutcome :=
  .next (takeRequest (fun s => match parseMark mark with
    | none => s.answer .badValue []
    | some m => onStation index (forceStation m) s) s)

end Sys2Proof.Machine
end

