-- ==== Sys2Proof/Machine/TimerEvents.lean ====
section
/-! DEFINITION. The expiries: receipt timeout, retry wait, beacon, hold, silence, re-hold, gap, jam and heard age (R38,
R43, R65, R80, R88, R103, R125, R138). An event whose condition does not hold is none and leaves the state as it is
(note 1). -/

namespace Sys2Proof.Machine

/-! ## Receipt timer and retry wait (R38, R43) -/

/-- The entry whose receipt timer has reached 0 (R147). -/
def Channel.timedOut (x : Channel) : Option Handle :=
  match x.engine with
  | .awaiting h 0 => some h
  | _ => none

/-- The expiry of a receipt timer, taken (R38, R42). -/
def takeTimeout (c : Chan) (s : State) : State :=
  match (s.chan c).timedOut with
  | some h => conclude (timeOut c h s)
  | none => s

/-- RECEIPT_TIMEOUT (R38). -/
def execReceiptTimeout (c : Chan) (s : State) : StepOutcome := .next (takeTimeout c s)

/-- Whether a held time lies ahead of the counter (R167). -/
def liesAhead (t counter : Quad) : Bool := 0 < (t - counter).toNat && (t - counter).toNat < 2 ^ 31

/-- Whether the counter has reached an entry's not-before (R43, R167). -/
def Entry.retryDue (e : Entry) (counter : Quad) : Bool :=
  e.state = .retryWait && e.notBefore.any fun t => !liesAhead t counter

/-- The expiry of an entry's retry wait, taken: resolved and placed (R43). -/
def takeRetry (h : Handle) (s : State) : State :=
  if (s.entry h).retryDue s.time.counter then conclude (s.place h) else s

/-- RETRY_WAIT_EXPIRY (R43). -/
def execRetryWaitExpiry (h : Handle) (s : State) : StepOutcome := .next (takeRetry h s)

/-! ## Beacon (R138, R139) -/

/-- Whether a channel's counting beacon has reached its interval (R138, R167). -/
def Channel.beaconReached (now : Quad) (x : Channel) : Bool :=
  match x.beacon with
  | .counting start =>
    x.enabled && 0 < x.settings.beaconInterval && x.settings.beaconInterval * 1000 ≤ (now - start).toNat
  | _ => false

/-- A beacon that falls due: dropped under a silence, its interval counted afresh; else a claimant (R138, R139). -/
def Channel.beaconFalls (now : Quad) (x : Channel) : Channel :=
  if 0 < x.silenceRemaining then x.restartBeacon now else { x with beacon := .due }

/-- A beacon falling due, taken. -/
def takeBeacon (c : Chan) (s : State) : State :=
  if (s.chan c).beaconReached s.time.counter then
    conclude (s.updChan c (Channel.beaconFalls s.time.counter))
  else s

/-- BEACON_DUE (R138). -/
def execBeaconDue (c : Chan) (s : State) : StepOutcome := .next (takeBeacon c s)

/-! ## Hold, silence, re-hold (R80, R88) -/

/-- The end of a station's hold, taken: the entries that it covered become eligible (R77, R80). -/
def takeHoldEnd (i : Index) (s : State) : State :=
  if (s.station i).any (·.holdEndDue) then conclude (s.updStation i fun st => { st with holdEndDue := false }) else s

/-- HOLD_EXPIRY (R80). -/
def execHoldExpiry (i : Index) (s : State) : StepOutcome := .next (takeHoldEnd i s)

/-- The end of a channel's silence, taken (R79, R80). -/
def takeSilenceEnd (c : Chan) (s : State) : State :=
  if (s.chan c).silenceEndDue then conclude (s.updChan c fun x => { x with silenceEndDue := false }) else s

/-- SILENCE_EXPIRY (R80). -/
def execSilenceExpiry (c : Chan) (s : State) : StepOutcome := .next (takeSilenceEnd c s)

/-- The expiry of a re-hold timer, taken: an own HOLD is queued when the part is CONGESTED (R88). -/
def takeRehold (c : Chan) (s : State) : State :=
  if (s.chan c).rehold = some 0 then
    let s1 := stopRehold c s
    conclude (if s1.congestion = .congested then queueOwnHold c s1 else s1)
  else s

/-- RE_HOLD_EXPIRY (R88). -/
def execReHoldExpiry (c : Chan) (s : State) : StepOutcome := .next (takeRehold c s)

/-! ## Gap, jam, heard age (R125, R103, R65) -/

/-- GAP_EXPIRY (R125). -/
def execGapExpiry (c : Chan) (s : State) : StepOutcome := .next (takeGap c s)

/-- JAMMED (R103). -/
def execJammed (c : Chan) (s : State) : StepOutcome := .next (takeJam c s)

/-- A heard age over its limit, taken (R65, R67). -/
def takeOverLimit (i : Index) (s : State) : State :=
  if (s.station i).any (·.overLimitDue) then conclude (loseStation i s) else s

/-- HEARD_AGE_OVER_LIMIT (R65). -/
def execHeardAgeOverLimit (i : Index) (s : State) : StepOutcome := .next (takeOverLimit i s)

end Sys2Proof.Machine
end

