-- ==== Sys2Proof/Machine/TransmitEvents.lean ====
section
/-! DEFINITION. The events of a transmitter: key-up, the end of the key-up delay, the end of a frame and the end of a
break (R98, R135 to R137). An event whose condition does not hold is none and leaves the state as it is (note 1). -/

namespace Sys2Proof.Machine

/-- The claimant whose key-up has come: the transmitter is CLEARING for it and the clear time has reached its required
wait (R135). -/
def Channel.keyUpDue (x : Channel) : Option Claimant :=
  match x.transmitter with
  | .clearing k w => if x.enabled && !x.busy && decide (w ≤ x.clearTime) then some k else none
  | _ => none

/-- A key-up, taken (R136). A failed re-test puts the transmitter back to IDLE through the arbiter. -/
def takeKeyUp (c : Chan) (s : State) : State :=
  match (s.chan c).keyUpDue with
  | some k => conclude (commit k c s)
  | none => s

/-- KEY_UP (R136). -/
def execKeyUp (c : Chan) (s : State) : StepOutcome := .next (takeKeyUp c s)

/-- What is keyed, when its key-up delay is over (R136). -/
def Channel.delayOver (x : Channel) : Option OnAir :=
  match x.transmitter with
  | .keying w 0 => some w
  | _ => none

/-- The end of a key-up delay, taken (R136, R137). -/
def takeDelayEnd (c : Chan) (s : State) : State :=
  match (s.chan c).delayOver with
  | some w => startSending w c s
  | none => s

/-- KEY_UP_DELAY_END (R136). -/
def execKeyUpDelayEnd (c : Chan) (s : State) : StepOutcome := .next (takeDelayEnd c s)

/-- What has been sent, when the last stop bit of its frame may have ended (R137; note 5). -/
def Channel.frameSent (x : Channel) : Option OnAir :=
  match x.transmitter with
  | .sending w f k => if frameOver x.settings f k then some w else none
  | _ => none

/-- The end of a frame, taken: keying released, the completion handed on, the arbiter (R137). -/
def takeFrameEnd (c : Chan) (s : State) : State :=
  match (s.chan c).frameSent with
  | some w => conclude (completeSending w c (releaseKey c s))
  | none => s

/-- FRAME_END (R137). -/
def execFrameEnd (c : Chan) (s : State) : StepOutcome := .next (takeFrameEnd c s)

/-- Whether a break in progress may have ended (R98; note 5). -/
def Channel.breakSent (x : Channel) : Bool :=
  match x.transmitter with
  | .brk u r k _ => breakOver u r k
  | _ => false

/-- The end of a break, taken (R98). On a disabled channel it releases keying and does nothing else (R107). -/
def takeBreakEnd (c : Chan) (s : State) : State :=
  if (s.chan c).breakSent then
    if (s.chan c).enabled then conclude (releaseKey c s) else setTransmitter .idle c s
  else s

/-- BREAK_END (R98). -/
def execBreakEnd (c : Chan) (s : State) : StepOutcome := .next (takeBreakEnd c s)

end Sys2Proof.Machine
end

