-- ==== Sys2Proof/Machine/TimeBase.lean ====
section
/-! DEFINITION. The Time Base (R166 to R169): the millisecond advance, the quantum, the Time Base second, the clock
second and the window events. What an advance brings about is taken by commands of its own; what none has taken is
taken before the next advance (note 2). -/

namespace Sys2Proof.Machine

/-! ## Quantum (R80, R88, R168) -/

/-- A station's hold at a quantum (R80). -/
def Station.atQuantum (st : Station) : Station :=
  { st with holdRemaining := st.holdRemaining - 1, holdEndDue := st.holdEndDue || st.holdRemaining = 1 }

/-- A channel's silence and re-hold timer at a quantum (R80, R88). -/
def Channel.atQuantum (x : Channel) : Channel :=
  { x with
    silenceRemaining := x.silenceRemaining - 1
    silenceEndDue := x.silenceEndDue || x.silenceRemaining = 1
    rehold := x.rehold.map (· - 1) }

/-- A quantum, taken (R168). -/
def takeQuantum (s : State) : State :=
  { s with
    stations := mapVector (Option.map Station.atQuantum) s.stations
    channels := mapVector Channel.atQuantum s.channels
    time := { s.time with quantumDue := false } }

/-- QUANTUM (R168). -/
def execQuantum (s : State) : StepOutcome := .next (if s.time.quantumDue then takeQuantum s else s)

/-! ## Time Base second (R64, R65, R149, R168) -/

/-- The heard age after one more second (R64). -/
def Station.nextAge (st : Station) : Nat := min Config.saturation (st.heardAge + 1)

/-- A station's heard age at a Time Base second; a HEARD station over its enter limit is marked (R64, R65). -/
def Station.atSecond (st : Station) : Station :=
  { st with
    heardAge := st.nextAge
    overLimitDue := st.overLimitDue ||
      (st.reach = .heard && decide (0 < st.interval) && decide (st.enterLimit < st.nextAge)) }

/-- A Time Base second, taken: heard ages advance, abort pauses end (R149, R168). -/
def takeSecond (s : State) : State :=
  let s1 := { s with
    stations := mapVector (Option.map Station.atSecond) s.stations
    time := { s.time with secondDue := false } }
  arbitrateAll (forChans (endPause fun c => (s.chan c).abortPause) s1)

/-- TIME_BASE_SECOND (R168). -/
def execTimeBaseSecond (s : State) : StepOutcome := .next (if s.time.secondDue then takeSecond s else s)

/-! ## Clock second and windows (R169, R172 to R174) -/

/-- The second after another, with the midnight wrap (R169). -/
def nextSecond (n : Nat) : Nat := if n ≥ 86399 then 0 else n + 1

/-- The advance of the station clock that was left to CLOCK_SECOND: a clock second from 999 ms, or one millisecond after
a SET CLOCK that came first (R169, R170). Each window is re-evaluated, and the event that it gives waits (R172). -/
def takeClockSecond (s : State) : State :=
  let s1 := { s with time := { s.time with clockDue := false } }
  if s.time.clockMs = 999 then
    let next := nextSecond s.time.clockSecond
    forChans (fun c t => t.updChan c fun x =>
      { x with windowDue := (s.windowChange next 0 c).or x.windowDue }) (writeClock next 0 s1)
  else writeClock s.time.clockSecond (s.time.clockMs + 1) s1

/-- CLOCK_SECOND (R169). -/
def execClockSecond (s : State) : StepOutcome := .next (if s.time.clockDue then takeClockSecond s else s)

/-- A window event of one sort, taken if it waits. -/
def takeWindowIf (e : WindowEvent) (c : Chan) (s : State) : State :=
  if (s.chan c).windowDue = some e then takeWindow e c s else s

/-- WINDOW_OPEN_EVENT (R174). -/
def execWindowOpenEvent (c : Chan) (s : State) : StepOutcome := .next (takeWindowIf .opened c s)

/-- WINDOW_CLOSE_EVENT (R173). -/
def execWindowCloseEvent (c : Chan) (s : State) : StepOutcome := .next (takeWindowIf .closed c s)

/-! ## The millisecond advance (R166) -/

/-- A count that stops at its end (R101, R102). -/
def saturate (n : Nat) : Nat := min Config.saturation (n + 1)

/-- The transmitter at a millisecond (R136; note 5). -/
def Transmitter.atMs : Transmitter → Transmitter
  | .keying w n => .keying w (n - 1)
  | .sending w f k => .sending w f (k + 1)
  | .brk u r k b => .brk u r (k + 1) b
  | t => t

/-- The exchange engine at a millisecond: the receipt timer falls (R147). -/
def Engine.atMs : Engine → Engine
  | .awaiting h n => .awaiting h (n - 1)
  | e => e

/-- The frame receiver at a millisecond: the gap count of a frame in progress rises (R125). -/
def Receiver.atMs (r : Receiver) : Receiver := if r.phase = .hunt then r else { r with gap := r.gap + 1 }

/-- A channel at a millisecond (R101, R102, R125, R136, R147). -/
def Channel.atMs (x : Channel) : Channel :=
  { x with
    clearTime := if x.enabled && !x.busy then saturate x.clearTime else x.clearTime
    busyLength := if x.enabled && x.busy && !x.transmitter.keyed then saturate x.busyLength else x.busyLength
    transmitter := x.transmitter.atMs
    engine := x.engine.atMs
    receiver := x.receiver.atMs }

/-- The counter, the dividers and the station clock at a millisecond (R166, R168, R169). -/
def TimeBase.atMs (t : TimeBase) : TimeBase where
  counter := t.counter + 1
  quantumDivider := if t.quantumDivider ≥ 99 then 0 else t.quantumDivider + 1
  secondDivider := if t.secondDivider ≥ 999 then 0 else t.secondDivider + 1
  clockSecond := t.clockSecond
  clockMs := if t.clockMs ≥ 999 then t.clockMs else t.clockMs + 1
  quantumDue := t.quantumDue || t.quantumDivider ≥ 99
  secondDue := t.secondDue || t.secondDivider ≥ 999
  clockDue := t.clockDue || t.clockMs ≥ 999

/-- The advance of the millisecond counter with everything that counts on it (R166). -/
def tick (s : State) : State :=
  { s with channels := mapVector Channel.atMs s.channels, time := s.time.atMs }

/-! ## Events that wait (note 2) -/

/-- An event of the lowest channel on which it waits. -/
def onFirst (due : Chan → Bool) (take : Chan → State → State) (s : State) : Option State :=
  (findChan due).map fun c => take c s

/-- An event of the lowest station index on which it waits. -/
def onFirstStation (due : Station → Bool) (take : Index → State → State) (s : State) : Option State :=
  (findPlace (fun r : Option Station => r.any due) s.stations).map fun i => take i s

/-- The first event that waits, in a fixed order, taken; `none` when nothing waits (note 2). -/
def settleOnce (s : State) : Option State :=
  if s.time.clockDue then some (takeClockSecond s)
  else if s.time.quantumDue then some (takeQuantum s)
  else if s.time.secondDue then some (takeSecond s)
  else (onFirst (fun c => (s.chan c).windowDue.isSome) settleWindow s)
    <|> (onFirstStation (·.holdEndDue) takeHoldEnd s)
    <|> (onFirst (fun c => (s.chan c).silenceEndDue) takeSilenceEnd s)
    <|> (onFirst (fun c => (s.chan c).rehold = some 0) takeRehold s)
    <|> (onFirstStation (·.overLimitDue) takeOverLimit s)
    <|> ((s.findEntry (·.retryDue s.time.counter)).map fun h => takeRetry h s)
    <|> (onFirst (fun c => (s.chan c).beaconReached s.time.counter) takeBeacon s)
    <|> (onFirst (fun c => (s.chan c).gapOver) takeGap s)
    <|> (onFirst (fun c => (s.chan c).jamReached) takeJam s)
    <|> (onFirst (fun c => (s.chan c).timedOut.isSome) takeTimeout s)
    <|> (onFirst (fun c => (s.chan c).delayOver.isSome) takeDelayEnd s)
    <|> (onFirst (fun c => (s.chan c).frameSent.isSome) takeFrameEnd s)
    <|> (onFirst (fun c => (s.chan c).breakSent) takeBreakEnd s)
    <|> (onFirst (fun c => (s.chan c).keyUpDue.isSome) takeKeyUp s)

/-- Events that wait, taken one after another. -/
def settleFor : Nat → State → State
  | 0, s => s
  | n + 1, s =>
    match settleOnce s with
    | some t => settleFor n t
    | none => s

/-- Every event that waits, taken: one instant has far fewer than 2,048 (note 2). -/
def settle (s : State) : State := settleFor 2048 s

/-- MILLISECOND_ADVANCE (R166): the events of the millisecond before it that no command has taken come first (note 2). -/
def execMillisecondAdvance (s : State) : StepOutcome := .next (tick (settle s))

end Sys2Proof.Machine
end

