-- ==== Sys2Proof/Machine/Dispatch.lean ====
section
/-! DEFINITION. The dispatch: each command's meaning (spec/opcode_table.json). -/

namespace Sys2Proof.Machine

/-- The effect of a command on everything but the queue of commands. -/
def exec (i : Instr) (s : State) : Host.Outcome State Fault Refusal :=
  match i with
  | .file precedence destination body => Sys2Proof.Machine.execFile precedence destination body s
  | .readEntry handle => Sys2Proof.Machine.execReadEntry handle s
  | .readText handle offset count => Sys2Proof.Machine.execReadText handle offset count s
  | .find origin serial => Sys2Proof.Machine.execFind origin serial s
  | .nextChanged => Sys2Proof.Machine.execNextChanged s
  | .listQueue selector start => Sys2Proof.Machine.execListQueue selector start s
  | .amend handle precedence destination => Sys2Proof.Machine.execAmend handle precedence destination s
  | .cancel handle => Sys2Proof.Machine.execCancel handle s
  | .renew handle => Sys2Proof.Machine.execRenew handle s
  | .retire handle => Sys2Proof.Machine.execRetire handle s
  | .setStation p => Sys2Proof.Machine.execSetStation p s
  | .readStation index => Sys2Proof.Machine.execReadStation index s
  | .dropStation index => Sys2Proof.Machine.execDropStation index s
  | .forceStation index mark => Sys2Proof.Machine.execForceStation index mark s
  | .setChannel channel p => Sys2Proof.Machine.execSetChannel channel p s
  | .readChannel channel => Sys2Proof.Machine.execReadChannel channel s
  | .enableChannel channel => Sys2Proof.Machine.execEnableChannel channel s
  | .disableChannel channel => Sys2Proof.Machine.execDisableChannel channel s
  | .abortChannel channel => Sys2Proof.Machine.execAbortChannel channel s
  | .setClass precedence retryLimit baseWait => Sys2Proof.Machine.execSetClass precedence retryLimit baseWait s
  | .setOwn p => Sys2Proof.Machine.execSetOwn p s
  | .readStatus => Sys2Proof.Machine.execReadStatus s
  | .setClock second => Sys2Proof.Machine.execSetClock second s
  | .readClock => Sys2Proof.Machine.execReadClock s
  | .clearChannels => Sys2Proof.Machine.execClearChannels s
  | .clearAll => Sys2Proof.Machine.execClearAll s
  | .readFrame => Sys2Proof.Machine.execReadFrame s
  | .badFrame => Sys2Proof.Machine.execBadFrame s
  | .powerOn => Sys2Proof.Machine.execPowerOn s
  | .resetPin => Sys2Proof.Machine.execResetPin s
  | .goodCharacter c x => Sys2Proof.Machine.execGoodCharacter c x s
  | .characterError c x => Sys2Proof.Machine.execCharacterError c x s
  | .breakReceived c => Sys2Proof.Machine.execBreakReceived c s
  | .cdInputChange c level => Sys2Proof.Machine.execCdInputChange c level s
  | .millisecondAdvance => Sys2Proof.Machine.execMillisecondAdvance s
  | .quantum => Sys2Proof.Machine.execQuantum s
  | .timeBaseSecond => Sys2Proof.Machine.execTimeBaseSecond s
  | .clockSecond => Sys2Proof.Machine.execClockSecond s
  | .windowOpenEvent c => Sys2Proof.Machine.execWindowOpenEvent c s
  | .windowCloseEvent c => Sys2Proof.Machine.execWindowCloseEvent c s
  | .keyUp c => Sys2Proof.Machine.execKeyUp c s
  | .keyUpDelayEnd c => Sys2Proof.Machine.execKeyUpDelayEnd c s
  | .frameEnd c => Sys2Proof.Machine.execFrameEnd c s
  | .breakEnd c => Sys2Proof.Machine.execBreakEnd c s
  | .receiptTimeout c => Sys2Proof.Machine.execReceiptTimeout c s
  | .retryWaitExpiry h => Sys2Proof.Machine.execRetryWaitExpiry h s
  | .beaconDue c => Sys2Proof.Machine.execBeaconDue c s
  | .holdExpiry index => Sys2Proof.Machine.execHoldExpiry index s
  | .silenceExpiry c => Sys2Proof.Machine.execSilenceExpiry c s
  | .reHoldExpiry c => Sys2Proof.Machine.execReHoldExpiry c s
  | .gapExpiry c => Sys2Proof.Machine.execGapExpiry c s
  | .jammed c => Sys2Proof.Machine.execJammed c s
  | .heardAgeOverLimit index => Sys2Proof.Machine.execHeardAgeOverLimit index s
  | .startBit c markSeen => Sys2Proof.Machine.execStartBit c markSeen s
  | .shortPulse c s7 s8 s9 => Sys2Proof.Machine.execShortPulse c s7 s8 s9 s
  | .lineRecoveryEnd c => Sys2Proof.Machine.execLineRecoveryEnd c s

end Sys2Proof.Machine
end

