-- ==== Sys2Proof/Machine/Step.lean ====
section
/-! DEFINITION. One step of the part: the command at the front of the queue, run. -/

namespace Sys2Proof.Machine

/-- A step takes the command at the front of the queue and runs it with the queue's rest; with no command waiting the
part stands as it is (note 1). -/
def step (s : State) : Host.Outcome State Fault Refusal :=
  match s.pending with
  | [] => .next s
  | c :: rest => exec c (s.withPending rest)

/-- A command put at the front of the queue. -/
def State.withFront (s : State) (c : Instr) : State := s.withPending (c :: s.pending)

/-- A command that arrives joins the queue behind those that wait. -/
def State.withArrival (s : State) (c : Instr) : State := s.withPending (s.pending ++ [c])

/-- A selection of the Station Port arrives as the command that it is; one that has no effect at all brings none
(R175). -/
def State.withSelection (s : State) (x : Selection) : State :=
  match decodeSelection x with
  | some c => s.withArrival c
  | none => s

/-- The command that a word spells by the table's bits, put at the front of the queue; the table spells none. -/
def State.withFetchWord (s : State) (nbits w : Nat) : State :=
  match decodeTableWord nbits w with
  | some c => s.withFront c
  | none => s

end Sys2Proof.Machine
end

