-- ==== Sys2Proof/Safety.lean ====
section
/-! DEFINITION. The terms in which statements about the part are made: what routing and considerations may touch, a part
at rest, how an exchange leaves its entry, what a sweep leaves, the rules that every channel keeps, the ranges of the tables,
what the directory keeps, and what the Traffic Table keeps with the collections, the exchanges and the reservations. -/

namespace Sys2Proof.Machine

/-! ## What considerations, sweeps and arbiters may touch -/

/-- Two records of an entry carry the same message: only its state, its hops, its not-before, its outcome, its cancel
mark and its changed flag may differ. -/
def Entry.SameMessage (e f : Entry) : Prop :=
  { f with
    state := e.state
    nextHop := e.nextHop
    lastHop := e.lastHop
    notBefore := e.notBefore
    lastOutcome := e.lastOutcome
    cancelPending := e.cancelPending
    changed := e.changed } = e

/-- Two records of a channel differ in its queue and its exchange at most. -/
def Channel.SameButExchange (x y : Channel) : Prop := { y with queue := x.queue, engine := x.engine } = x

/-- Two states differ in what routing may touch at most: the collections, the exchanges, and the entries as far as
`Entry.SameMessage` lets them; a disabled channel's IDLE engine stays IDLE. -/
structure State.Moved (s t : State) : Prop where
  rest : { t with entries := s.entries, unrouted := s.unrouted, channels := s.channels } = s
  entry : ∀ h, (s.entry h).SameMessage (t.entry h)
  chan : ∀ c, (s.chan c).SameButExchange (t.chan c)
  idle : ∀ c, (s.chan c).enabled = false → (s.chan c).engine = .idle → (t.chan c).engine = .idle

/-- An entry waits in a collection or stands in an exchange. -/
def State.Waits (s : State) (h : Handle) : Prop :=
  (∃ k, h ∈ s.collection k) ∨ ∃ c, (s.chan c).engine.entry? = some h

/-- Entries that neither wait nor stand in an exchange are left as they are, and are not brought to wait. -/
def State.LeavesOthers (s t : State) : Prop := ∀ h, ¬ s.Waits h → t.entry h = s.entry h ∧ ¬ t.Waits h

/-- Two transmitters are the same, or neither has keyed. -/
def Transmitter.SameOnAir (a b : Transmitter) : Prop := a = b ∨ (a.keyed = false ∧ b.keyed = false)

/-- Two records of a channel differ in its queue, its exchange, its abort pause and its grant at most; the pause may only
end. -/
structure Channel.SameLine (x y : Channel) : Prop where
  rest : { y with queue := x.queue, engine := x.engine, abortPause := x.abortPause, transmitter := x.transmitter } = x
  onAir : x.transmitter.SameOnAir y.transmitter
  pause : y.abortPause = true → x.abortPause = true

/-- Two states differ at most in what the end of a command may touch: what routing may touch among the entries that wait or
stand in an exchange, the abort pauses, and the grants of transmitters that have not keyed. -/
structure State.Turned (s t : State) : Prop where
  rest : { t with entries := s.entries, unrouted := s.unrouted, channels := s.channels } = s
  entry : ∀ h, (s.entry h).SameMessage (t.entry h)
  others : s.LeavesOthers t
  chan : ∀ c, (s.chan c).SameLine (t.chan c)
  idle : ∀ c, (s.chan c).enabled = false → (s.chan c).engine = .idle → (t.chan c).engine = .idle

/-- A part at rest: no abort pause is set, and every arbiter has acted (R133, R149). -/
def State.AtRest (s : State) : Prop := ∀ c, (s.chan c).abortPause = false ∧ (s.chan c).arbitrated = s.chan c

/-- How a command that takes effect as `u` ends as `t`: `t` is `u` but for what the end of a command may touch, and is `u`
itself when the command found the part at rest. -/
def State.Ends (s u t : State) : Prop := u.Turned t ∧ (s.AtRest → t = u)

/-- Two states differ in one entry, in the places of the collections and in the response buffer at most. -/
def State.SameButPlacing (h : Handle) (s u : State) : Prop :=
  { u with entries := s.entries, unrouted := s.unrouted, channels := s.channels, response := s.response } = s ∧
    (∀ c, { u.chan c with queue := (s.chan c).queue } = s.chan c) ∧ ∀ k, k ≠ h → u.entry k = s.entry k

/-- Two states have the same directory, own-station record, class table, Time Base and serial and accession counters. -/
def State.SameTables (s u : State) : Prop :=
  u.stations = s.stations ∧ u.own = s.own ∧ u.classes = s.classes ∧ u.time = s.time ∧ u.ownSerial = s.ownSerial ∧
    u.accessionCounter = s.accessionCounter ∧ u.pending = s.pending

/-! ## How an exchange leaves its entry -/

/-- A channel's engine holds an entry, which no other engine holds and which waits in no collection. -/
def State.HeldAlone (s : State) (c : Chan) (h : Handle) : Prop :=
  (s.chan c).engine.entry? = some h ∧ (∀ q, h ∉ s.collection q) ∧ ∀ d, d ≠ c → (s.chan d).engine.entry? ≠ some h

/-- In a state, an entry that was `e` is closed: in a final state with an outcome, next hop, not-before and cancel pending
absent, the changed flag set, all else kept (R20, R35, R36, R38, R41, R45, R46). -/
def State.Closes (u : State) (h : Handle) (e : Entry) (x : EntryState) (o : LastOutcome) : Prop :=
  u.entry h = { e with
    state := x, lastOutcome := o, nextHop := none, notBefore := none, cancelPending := none, changed := true }

/-- In a state, an entry that was `e` is back in READY with an outcome, in the collection that its route gives it, all else
kept (R27, R37, R39, R40). -/
def State.Returns (u : State) (h : Handle) (e : Entry) (o : LastOutcome) : Prop :=
  u.entry h = { e with
    state := .ready, lastOutcome := o, nextHop := u.route e, notBefore := none, cancelPending := none } ∧
  h ∈ u.collection (u.collectionFor (u.route e))

/-- In a state, an entry that was `e` has left an exchange that an abort, a disable or a clear ended: withdrawn while STAGED;
by a recorded verdict while SENDING, when there is one (a FULL is never recorded); else ABORTED, CANCELLED where cancel was
pending (R39, R40, R41, R45). -/
def State.LeftExchange (u : State) (x : Engine) (h : Handle) (e : Entry) : Prop :=
  let cancel := e.cancelPending = some true
  match x with
  | .idle | .sending _ (some .full) => True
  | .staged _ _ _ => u.Returns h e .withdrawn
  | .sending _ none | .awaiting _ _ => (cancel → u.Closes h e .cancelled .aborted) ∧ (¬ cancel → u.Returns h e .aborted)
  | .sending _ (some .accept) | .sending _ (some .duplicate) => u.Closes h e .sent .confirmedLate
  | .sending _ (some .noroute) =>
    (cancel → u.Closes h e .cancelled .noroute) ∧ (¬ cancel → u.Closes h e .refused .noroute)

/-! ## What a sweep leaves -/

/-- Every READY entry has its route as its next hop and stands in the collection of that route, and the entry of every STAGED
exchange resolves to that exchange's channel, as a sweep leaves them (R72, R73). -/
def State.Routed (s : State) : Prop :=
  (∀ h, (s.entry h).state = .ready →
    (s.entry h).nextHop = s.route (s.entry h) ∧ h ∈ s.collection (s.collectionFor (s.route (s.entry h)))) ∧
  ∀ c h w x, (s.chan c).engine = .staged h w x → s.collectionFor (s.route (s.entry h)) = .queue c

/-- A command with which JAMMED ends on a channel: the mark stands, or its threshold has been reached, and after the command
the channel has no mark and a busy length of 0 (R101 to R103). -/
def State.EndsJam (s : State) (c : Chan) (i : Instr) : Prop :=
  ((s.chan c).jammed = true ∨ (s.chan c).jamReached = true) ∧
    ∃ t, exec i s = .next t ∧ (t.chan c).jammed = false ∧ (t.chan c).busyLength = 0

/-- The commands that bring a sweep in a state (R71): one that ends the hearing of a station, one that changes a forced mark,
one with which JAMMED begins, or ends as busy does (the CD pin, a character, an error or a break received, a gap limit that
has passed: R103), ENABLE, DISABLE and CLEAR CHANNELS with something to act on, an accepted SET STATION or DROP STATION, and a
change of the default route. A good frame that brings a station back to HEARD is no command of its own; a MILLISECOND_ADVANCE
that takes what waits takes it by the operations of these (note 2) and is not among them. -/
def State.BringsSweep (s : State) : Instr → Prop
  | .heardAgeOverLimit i =>
    ∃ st, s.station i = some st ∧ st.overLimitDue = true ∧ st.reach = .heard ∧ 0 < st.interval
  | .forceStation b m =>
    ∃ (i : Index) (st : Station) (v : Bool),
      b.toNat = i.val ∧ m.toNat = v.toNat ∧ s.station i = some st ∧ st.forcedUnheard ≠ v
  | .jammed c => (s.chan c).jamReached = true
  | .goodCharacter c x => s.EndsJam c (.goodCharacter c x)
  | .characterError c x => s.EndsJam c (.characterError c x)
  | .breakReceived c => s.EndsJam c (.breakReceived c)
  | .gapExpiry c => s.EndsJam c (.gapExpiry c)
  | .cdInputChange c v =>
    (s.chan c).busy = true ∧ ({ s.chan c with cdPin := v } : Channel).busyNow = false ∧
      ((s.chan c).jammed = true ∨ (s.chan c).jamReached = true)
  | .enableChannel b => s.own.call ≠ [] ∧ ∃ c : Chan, b.toNat = c.val ∧ (s.chan c).enabled = false
  | .disableChannel b => ∃ c : Chan, b.toNat = c.val ∧ (s.chan c).enabled = true
  | .clearChannels => ∃ c, (s.chan c).enabled = true
  | .setStation p => ∃ i n, s.parseStation p = some (i, n) ∧ (s.isRelay i = true → n.kind = .direct)
  | .dropStation b =>
    ∃ (i : Index) (st : Station), b.toNat = i.val ∧ s.station i = some st ∧ s.own.defaultRoute ≠ some i ∧
      ∀ j r, s.station j = some r → r.kind ≠ .via i ∧ r.fallback ≠ some i
  | .setOwn p =>
    ∃ o, s.givenOwn p = some o ∧ o.defaultRoute ≠ s.own.defaultRoute ∧
      (o.call = s.own.call ∨ ∀ c, (s.chan c).enabled = false)
  | _ => False

/-! ## Rules that every channel keeps -/

/-- How many own HOLDs and own releases a control frame queue holds (R86). -/
def ownCount (q : List ControlFrame) : Nat := (q.filter (·.isOwn)).length

/-- A channel's control frames: at most four wait; at most one own HOLD or own release waits or is owed, and one is owed
only behind four receipts (R86, R129). -/
def Channel.ControlKept (x : Channel) : Prop :=
  x.control.length ≤ Config.controlRoom ∧ ownCount x.control ≤ 1 ∧
    (x.owed ≠ none → x.control.length = Config.controlRoom ∧ ownCount x.control = 0)

/-- Every channel's control frames are kept so. -/
def State.ControlKept (s : State) : Prop := ∀ c, (s.chan c).ControlKept

/-- A disabled channel is quiet: its sampler stopped, its receiver in HUNT, its gate's counters 0, no JAMMED, no control
frame, no silence, no re-hold, no beacon, no exchange, and at most a break on its line (R90, R106, R107). -/
def Channel.Quiet (x : Channel) : Prop :=
  x.enabled = false →
    x.sampler = .stopped ∧ x.receiver = .hunt ∧ x.busy = false ∧ x.clearTime = 0 ∧ x.busyLength = 0 ∧
    x.jammed = false ∧ x.control = [] ∧ x.owed = none ∧ x.silenceRemaining = 0 ∧ x.silenceCutoff = 0 ∧
    x.rehold = none ∧ x.beacon = .off ∧ x.engine = .idle ∧ x.abortPause = false ∧
    (x.transmitter.keyed = true → x.transmitter.breakRemaining.isSome = true)

/-- Every disabled channel is quiet. -/
def State.Quiet (s : State) : Prop := ∀ c, (s.chan c).Quiet

/-- An enabled channel's gate and receive side: busy as the carrier source and the keying say; the clear time 0 while
busy and the busy length 0 while clear; JAMMED only while busy; and while the radio is keyed the receiver in HUNT and the
sampler in LINE_RECOVERY (R99 to R103). -/
def Channel.Listening (x : Channel) : Prop :=
  x.enabled = true →
    x.busy = x.busyNow ∧ (x.busy = true → x.clearTime = 0) ∧ (x.busy = false → x.busyLength = 0) ∧
    (x.jammed = true → x.busy = true) ∧
    (x.transmitter.keyed = true → x.receiver = .hunt ∧ x.sampler = .lineRecovery)

/-- Every channel is quiet while disabled, and keeps its gate and receive side as it must while enabled. -/
def State.Listening (s : State) : Prop := ∀ c, (s.chan c).Quiet ∧ (s.chan c).Listening

/-- The own-station record's thresholds as SET OWN leaves them: the leave thresholds not below the enter thresholds, all
within Table 4-2 (R82). -/
def OwnStation.Ordered (o : OwnStation) : Prop :=
  o.enterEntries ≤ 255 ∧ o.enterBlocks ≤ 2047 ∧ o.enterEntries ≤ o.leaveEntries ∧ o.leaveEntries ≤ 256 ∧
    o.enterBlocks ≤ o.leaveBlocks ∧ o.leaveBlocks ≤ 2048

/-- Every class row within its range (R158). -/
def State.ClassesKept (s : State) : Prop :=
  ∀ p : Fin 8, 1 ≤ (s.classRow p).retryLimit ∧ (s.classRow p).retryLimit ≤ 15 ∧ (s.classRow p).baseWait ≤ 15

/-- The Time Base within its ranges (R168, R169). -/
def TimeBase.Kept (t : TimeBase) : Prop :=
  t.quantumDivider ≤ 99 ∧ t.secondDivider ≤ 999 ∧ t.clockSecond ≤ 86399 ∧ t.clockMs ≤ 999

/-- The tables that requests write, within their ranges (R82, R158, R168, R169). -/
def State.TablesKept (s : State) : Prop := s.own.Ordered ∧ s.ClassesKept ∧ s.time.Kept

/-- What the Station Directory and the own-station record keep together (Tables 3-1 and 3-2, R52 to R57, R60): the call of an
occupied record valid, no other record's and not the own call; the relay of a VIA record an occupied DIRECT one; a fallback an
occupied index other than the record's own; the default route an occupied index; the own call empty or valid; and the counts
of both within their ranges (R81, R85). -/
structure State.DirectoryKept (s : State) : Prop where
  calls : ∀ i st, s.station i = some st → st.call.valid = true ∧ st.call ≠ s.own.call
  distinct : ∀ i j st r, s.station i = some st → s.station j = some r → st.call = r.call → i = j
  relays : ∀ i st r, s.station i = some st → st.kind = .via r → ∃ d, s.station r = some d ∧ d.kind = .direct
  fallbacks : ∀ i st j, s.station i = some st → st.fallback = some j → j ≠ i ∧ ∃ r, s.station j = some r
  defaultRoute : ∀ i, s.own.defaultRoute = some i → ∃ st, s.station i = some st
  ownCall : s.own.call = [] ∨ s.own.call.valid = true
  ranges : ∀ i st, s.station i = some st →
    st.interval ≤ 3600 ∧ st.heardAge ≤ 65535 ∧ st.confirmCount ≤ 2 ∧ st.holdRemaining ≤ 65535
  ownRanges : (1 ≤ s.own.holdTime ∧ s.own.holdTime ≤ 65535) ∧ (1 ≤ s.own.reholdLead ∧ s.own.reholdLead ≤ 255) ∧
    1 ≤ s.own.fullBackoff ∧ s.own.fullBackoff ≤ 65535

/-! ## Rules that the Traffic Table, the Text Store, the collections and the exchanges keep -/

/-- An entry that is neither FREE nor SPENT: it holds text and does not count as free (Table 1-2, R19). -/
def Entry.inUse (e : Entry) : Bool := e.state ≠ .free && e.state ≠ .spent

/-- The fields of an entry in its state: present and absent as Table 1-3 has them, the attempt count at most 15, and at most
14 where another attempt may follow; the changed flag no where the entry is not yet a message; the text of the length given, at
most 960 characters, but while it is RECEIVING (R2, R5, R6, R8, R17, R20). -/
structure Entry.FieldsKept (e : Entry) : Prop where
  free : e.state = .free → e = Entry.free
  spent : e.state = .spent → e = e.spent
  receivedFrom : e.inUse = true → (e.receivedFrom = none ↔ e.role = .originated)
  nextHop : e.nextHop ≠ none → e.state = .ready ∨ e.state = .engaged
  engagedHop : e.state = .engaged → e.nextHop ≠ none
  lastHop : e.state = .engaged ∨ e.state = .retryWait ∨ e.state = .sent ∨ e.state = .refused → e.lastHop ≠ none
  fresh : e.state = .receiving ∨ e.state = .arrived → e.lastHop = none ∧ e.attemptCount = 0 ∧ e.lastOutcome = .none
  attempts : e.attemptCount ≤ 15
  attemptsLeft : e.state = .ready ∨ e.state = .engaged ∨ e.state = .retryWait → e.attemptCount ≤ 14
  notBefore : e.notBefore ≠ none ↔ e.state = .retryWait
  cancelPending : e.cancelPending ≠ none ↔ e.state = .engaged
  arriving : e.state = .receiving → e.changed = false
  blocks : e.inUse = true → e.blockCount = (e.textLength + 31) / 32
  longest : e.textLength ≤ 960
  whole : e.inUse = true → e.state ≠ .receiving → e.text.length = e.textLength

/-- The receive record of a channel that holds a reservation: past its header, which is that of a TRAFFIC frame to the own
call from another station (R116, R120). -/
def State.Reserves (s : State) (r : Receiver) : Prop :=
  (r.phase = .body ∨ r.phase = .tail) ∧
    ∃ (p : Fin 8) (key : Key) (d : Call) (n : Nat) (from_ : Call), from_ ≠ s.own.call ∧
      r.parsed = some ⟨.station s.own.call, from_, .traffic p key d n⟩

/-- What the Traffic Table, the Text Store, the send collections, the exchanges and the reservations keep together: the
fields of Table 1-3; accessions and keys of entries that are not FREE all distinct, and the accession counter on none of them
(R11, R14); the free counts what the entries leave (R16, R19); every READY entry in the one collection of its next hop,
no other entry in any, each collection in its order (R68); an entry ENGAGED exactly when an engine holds it, and then one
alone (R140); an entry RECEIVING exactly when a receive record holds it, and then one alone (R116), the characters it holds and
those that its receiver still awaits making up its text length, and none awaited exactly in TAIL (R17, R121, R122). -/
structure State.TrafficKept (s : State) : Prop where
  fields : ∀ h, (s.entry h).FieldsKept
  accessions : ∀ h k, (s.entry h).state ≠ .free → (s.entry k).state ≠ .free →
    (s.entry h).accession = (s.entry k).accession → h = k
  counter : ∀ h, (s.entry h).state ≠ .free → (s.entry h).accession ≠ s.accessionCounter
  keys : ∀ h k, (s.entry h).state ≠ .free → (s.entry k).state ≠ .free → (s.entry h).key = (s.entry k).key → h = k
  entriesCounted : s.freeEntries + (s.entries.toList.filter (·.inUse)).length = 256
  blocksCounted : s.freeBlocks + (s.entries.toList.map (·.blockCount)).sum = 2048
  waiting : ∀ h k, h ∈ s.collection k ↔ (s.entry h).state = .ready ∧ s.collectionFor (s.entry h).nextHop = k
  ordered : ∀ k, (s.collection k).Pairwise fun a b => comesBefore s k a b = true
  engaged : ∀ h, (s.entry h).state = .engaged ↔ ∃ c, (s.chan c).engine.entry? = some h
  oneEngine : ∀ c d h, (s.chan c).engine.entry? = some h → (s.chan d).engine.entry? = some h → c = d
  receiving : ∀ h, (s.entry h).state = .receiving ↔ ∃ c, (s.chan c).receiver.reservation = some h
  oneReceiver : ∀ c d h, (s.chan c).receiver.reservation = some h → (s.chan d).receiver.reservation = some h → c = d
  reserves : ∀ c h, (s.chan c).receiver.reservation = some h → s.Reserves (s.chan c).receiver
  filling : ∀ c h, (s.chan c).receiver.reservation = some h →
    (s.entry h).text.length + (s.chan c).receiver.bodyRemaining = (s.entry h).textLength ∧
      ((s.chan c).receiver.phase = .tail ↔ (s.chan c).receiver.bodyRemaining = 0)

/-- Every arbiter has acted: no transmitter that has not keyed stands otherwise than its arbiter would have it (R133 to
R135). -/
def State.Arbitrated (s : State) : Prop := ∀ c, (s.chan c).arbitrated = s.chan c

end Sys2Proof.Machine
end

