-- ==== Sys2Proof/Certificates/Slice0/Obligations.lean ====
section
/-! DEFINITION. The statements for the provers: what the numbered rules of spec/ say of the part, about `exec`, `step` and
the state after reset. -/

open Sys2Proof Sys2Proof.Machine

/-! ## Requests on messages -/

/-- R28, R29, R9, R11, R13: FILE with parameters that pass, an own call set and an entry to be had. Before the
considerations the entry is READY and placed, with the message and the key it was given; the answer names handle, serial
and channel. The entry is the FREE one of lowest handle, or, when none is FREE, the SPENT one of lowest accession. Its
accession is the counter's value, and the counter moves on to the next value that no other entry holds. Its serial is the
first, counted from the own-serial counter with 9999 followed by 1, whose key with the own call no other entry holds. R83,
R87: the allocation tests congestion: the congestion state, its flag and every channel, its queue apart, are as that test
leaves them, and the collections hold what they held beside the new entry, in their order. When no abort pause stands, the
considerations and the arbiters follow. R9, R10, R17, R19: an allocation takes the entry so picked with its accession and its
blocks, and touches nothing but that entry, the free counts and the accession counter; there is no entry to be had when every
entry is neither FREE nor SPENT, or when fewer blocks are free than the body needs. -/
def Obligations.FileStoresMessage : Prop :=
  (∀ (s s1 : State) (b : Byte) (f : CallField) (body : List Byte) (p : Fin 8) (d : Call) (h : Handle),
    b.toNat = p.val → parseCall f.toList = some d → d ≠ s.own.call → body.length ≤ 960 →
    (∀ x ∈ body, isBodyChar x = true) → s.own.call ≠ [] → s.allocate (s.filedEntry p d body) = some (h, s1) →
    ∃ u t : State, exec (.file b f body) s = .next t ∧ u.Turned t ∧
      ((∀ c, (s.chan c).abortPause = false) → t = conclude u) ∧
      (u.entry h).state = .ready ∧ (u.entry h).role = .originated ∧ (u.entry h).precedence = p ∧
      (u.entry h).destination = d ∧ (u.entry h).text = body ∧ (u.entry h).textLength = body.length ∧
      (u.entry h).accession = s.accessionCounter ∧ (u.entry h).filedTime = s.time.clockSecond ∧
      (u.entry h).attemptCount = 0 ∧ (u.entry h).lastOutcome = .none ∧ (u.entry h).receivedFrom = none ∧
      (u.entry h).lastHop = none ∧ (u.entry h).changed = false ∧ (u.entry h).nextHop = s.resolve d ∧
      (u.entry h).key = ⟨s.own.call, freeSerial (testCongestion s1) s.own.call 256 s.ownSerial⟩ ∧
      u.ownSerial = serialAfter (u.entry h).key.serial ∧
      h ∈ u.collection (u.collectionFor (u.entry h).nextHop) ∧
      u.response = ⟨.done, [be8 h.val] ++ be16 (u.entry h).key.serial ++ [optByte (u.placedOn h)]⟩ ∧
      u.freeEntries = s.freeEntries - 1 ∧ u.freeBlocks = s.freeBlocks - blocksFor body.length ∧
      (∀ k, k ≠ h → u.entry k = s.entry k) ∧ u.stations = s.stations ∧ u.own = s.own ∧ u.classes = s.classes ∧
      u.time = s.time ∧ u.reachChanged = s.reachChanged ∧ u.congestion = (testCongestion s1).congestion ∧
      u.congestionChanged = (testCongestion s1).congestionChanged ∧
      (∀ c, { u.chan c with queue := (s.chan c).queue } = (testCongestion s1).chan c) ∧
      (∀ q, without h (u.collection q) = without h (s.collection q)) ∧
      ((s.entry h).state = .free ∧ (∀ k, k < h → (s.entry k).state ≠ .free) ∨
        (∀ k, (s.entry k).state ≠ .free) ∧ (s.entry h).state = .spent ∧
          ∀ k, (s.entry k).state = .spent → (s.entry h).accession ≤ (s.entry k).accession) ∧
      (∃ n : Nat, 1 ≤ n ∧ n ≤ 256 ∧ u.accessionCounter = s.accessionCounter + BitVec.ofNat 32 n ∧
        (∀ m, 1 ≤ m → m < n → ∃ k, k ≠ h ∧ (s.entry k).state ≠ .free ∧
          (s.entry k).accession = s.accessionCounter + BitVec.ofNat 32 m) ∧
        ∀ k, k ≠ h → (s.entry k).state ≠ .free → (s.entry k).accession ≠ u.accessionCounter) ∧
      (1 ≤ s.ownSerial → ∃ n : Nat, n < 256 ∧ (u.entry h).key.serial = Nat.repeat serialAfter n s.ownSerial ∧
        (∀ m, m < n → ∃ k, k ≠ h ∧ (s.entry k).state ≠ .free ∧
          (s.entry k).key = ⟨s.own.call, Nat.repeat serialAfter m s.ownSerial⟩) ∧
        ∀ k, k ≠ h → (s.entry k).state = .free ∨ (s.entry k).key ≠ (u.entry h).key)) ∧
  (∀ (s : State) (e : Entry), s.allocate e = none ↔
      (∀ k, (s.entry k).state ≠ .free ∧ (s.entry k).state ≠ .spent) ∨ s.freeBlocks < (e.textLength + 31) / 32) ∧
  (∀ (s s1 : State) (e : Entry) (h : Handle), s.allocate e = some (h, s1) →
      ((s.entry h).state = .free ∧ (∀ k, k < h → (s.entry k).state ≠ .free) ∨
        (∀ k, (s.entry k).state ≠ .free) ∧ (s.entry h).state = .spent ∧
          ∀ k, (s.entry k).state = .spent → (s.entry h).accession ≤ (s.entry k).accession) ∧
      s1.entry h = { e with accession := s.accessionCounter, blockCount := (e.textLength + 31) / 32 } ∧
      (∀ k, k ≠ h → s1.entry k = s.entry k) ∧ s1.freeEntries = s.freeEntries - 1 ∧
      s1.freeBlocks = s.freeBlocks - (e.textLength + 31) / 32 ∧
      { s1 with entries := s.entries, freeEntries := s.freeEntries, freeBlocks := s.freeBlocks,
                accessionCounter := s.accessionCounter } = s)

/-- R28: FILE is refused BAD_VALUE for a precedence, destination or body outside its values, WRONG_STATE while the own
call is empty, FULL when no entry or too few blocks are to be had, in that order; a refused FILE has no effect of its
own. -/
def Obligations.FileRefused : Prop :=
  ∀ (s : State) (b : Byte) (f : CallField) (body : List Byte),
    ((8 ≤ b.toNat ∨ (∀ d, parseCall f.toList = some d → d = s.own.call) ∨ 960 < body.length ∨
        (∃ x ∈ body, isBodyChar x = false)) →
      ∃ t, exec (.file b f body) s = .next t ∧ s.Ends (s.answer .badValue []) t) ∧
    (∀ (p : Fin 8) (d : Call), b.toNat = p.val → parseCall f.toList = some d → d ≠ s.own.call → body.length ≤ 960 →
      (∀ x ∈ body, isBodyChar x = true) →
      (s.own.call = [] → ∃ t, exec (.file b f body) s = .next t ∧ s.Ends (s.answer .wrongState []) t) ∧
      (s.own.call ≠ [] → s.allocate (s.filedEntry p d body) = none →
        ∃ t, exec (.file b f body) s = .next t ∧ s.Ends (s.answer .full []) t))

/-- R23, R24, R26: READ ENTRY and READ TEXT of an entry that is not FREE, by its state; NO_ENTRY for a FREE one. Nothing
but the response buffer is written. -/
def Obligations.ReadEntryAndText : Prop :=
  ∀ (s : State) (b : Byte) (o n : Half),
    let e := s.entry ⟨b.toNat, b.isLt⟩
    let part := (e.text.drop o.toNat).take (min 256 n.toNat)
    (e.state ≠ .free → ∃ t, exec (.readEntry b) s = .next t ∧
      s.Ends (s.answer .done (s.entryRecord ⟨b.toNat, b.isLt⟩)) t) ∧
    (e.state = .free → ∃ t, exec (.readEntry b) s = .next t ∧ s.Ends (s.answer .noEntry []) t) ∧
    (e.state ≠ .free → e.state ≠ .spent → e.state ≠ .receiving → ∃ t, exec (.readText b o n) s = .next t ∧
      s.Ends (s.answer .done (be16 part.length ++ part)) t) ∧
    (e.state = .spent ∨ e.state = .receiving → ∃ t, exec (.readText b o n) s = .next t ∧
      s.Ends (s.answer .wrongState []) t) ∧
    (e.state = .free → ∃ t, exec (.readText b o n) s = .next t ∧ s.Ends (s.answer .noEntry []) t)

/-- R15: FIND answers the handle and state of the entry that holds the key, which is the one of lowest handle that is
not FREE and was given it; NO_ENTRY where none holds it; BAD_VALUE for no call or a serial outside 1..9999. R70: LIST
QUEUE answers the length of the collection that the selector names, a count and at most 32 handles from the start
position, in order; a selector above 4 or a start above 255 is refused BAD_VALUE. -/
def Obligations.LookupsAnswer : Prop :=
  (∀ (s : State) (f : CallField) (n : Half),
      (∀ (c : Call) (h : Handle), parseCall f.toList = some c → 1 ≤ n.toNat → n.toNat ≤ 9999 →
        (s.entry h).state ≠ .free → (s.entry h).key = ⟨c, n.toNat⟩ →
        (∀ k, k < h → (s.entry k).state = .free ∨ (s.entry k).key ≠ ⟨c, n.toNat⟩) →
        ∃ t, exec (.find f n) s = .next t ∧ s.Ends (s.answer .done [be8 h.val, (s.entry h).state.code]) t) ∧
      (∀ c : Call, parseCall f.toList = some c → 1 ≤ n.toNat → n.toNat ≤ 9999 →
        (∀ k, (s.entry k).state = .free ∨ (s.entry k).key ≠ ⟨c, n.toNat⟩) →
        ∃ t, exec (.find f n) s = .next t ∧ s.Ends (s.answer .noEntry []) t) ∧
      (parseCall f.toList = none ∨ n.toNat = 0 ∨ 9999 < n.toNat →
        ∃ t, exec (.find f n) s = .next t ∧ s.Ends (s.answer .badValue []) t)) ∧
  (∀ (s : State) (b : Byte) (n : Half),
      let part := fun q : List Handle => (q.drop n.toNat).take 32
      let data := fun q : List Handle => be16 q.length ++ [be8 (part q).length] ++ (part q).map fun h => be8 h.val
      (∀ c : Chan, b.toNat = c.val → n.toNat ≤ 255 →
        ∃ t, exec (.listQueue b n) s = .next t ∧ s.Ends (s.answer .done (data (s.chan c).queue)) t) ∧
      (b.toNat = 4 → n.toNat ≤ 255 →
        ∃ t, exec (.listQueue b n) s = .next t ∧ s.Ends (s.answer .done (data s.unrouted)) t) ∧
      (4 < b.toNat ∨ 255 < n.toNat → ∃ t, exec (.listQueue b n) s = .next t ∧ s.Ends (s.answer .badValue []) t))

/-- R21: NEXT CHANGED answers the summary of the entry of lowest handle whose changed flag is yes and clears that flag
alone; with no flag set it answers NOTHING. The summary is handle, state, role, precedence, key, destination, attempt
count and outcome, as the entry stands. -/
def Obligations.NextChangedCollects : Prop :=
  ∀ s : State,
    (∀ h : Handle, (s.entry h).changed = true → (∀ k, k < h → (s.entry k).changed = false) →
      ∃ t, exec .nextChanged s = .next t ∧
        s.Ends ((s.setEntry h { s.entry h with changed := false }).answer .done (s.summary h)) t) ∧
    ((∀ h, (s.entry h).changed = false) →
      ∃ t, exec .nextChanged s = .next t ∧ s.Ends (s.answer .nothing []) t) ∧
    (∀ h : Handle, (s.entry h).state ≠ .spent →
      let e := s.entry h
      s.summary h = [be8 h.val, e.state.code, e.role.code, be8 e.precedence.val] ++ padCall e.key.call ++
        be16 e.key.serial ++ padCall e.destination ++ [be8 e.attemptCount, e.lastOutcome.code])

/-- R26, R48, R49: AMEND writes the precedence and the destination, each given or unchanged. A READY entry is placed
anew by its route and answered READY with its channel as placed, before an engine may take it in the same step (the model's
reading: note 8). One in RETRY_WAIT, FAILED, REFUSED or CANCELLED keeps its state; any other is refused WRONG_STATE. R26,
R48: AMEND of a FREE entry is answered NO_ENTRY, and on any other entry a precedence over 7 that is not "unchanged", or a
destination that is neither unchanged nor a valid call other than the own call, is refused BAD_VALUE. -/
def Obligations.AmendByState : Prop :=
  (∀ (s : State) (b pb : Byte) (f : CallField) (p : Fin 8) (d : Call),
      let h : Handle := ⟨b.toNat, b.isLt⟩
      let e := s.entry h
      let e' := { e with precedence := p, destination := d }
      (pb = 0xFF ∧ p = e.precedence ∨ pb.toNat = p.val) →
      ((∀ x ∈ f.toList, x = 0x20) ∧ d = e.destination ∨ parseCall f.toList = some d ∧ d ≠ s.own.call) →
      (e.state = .ready → ∃ u t : State, exec (.amend b pb f) s = .next t ∧ u.Turned t ∧
        u.entry h = { e' with nextHop := s.route e', notBefore := none, cancelPending := none } ∧
        h ∈ u.collection (u.collectionFor (s.route e')) ∧
        u.response = ⟨.done, [3, optByte ((s.route e').bind s.hopChannel)]⟩ ∧ s.SameButPlacing h u) ∧
      (e.state = .retryWait ∨ e.state = .failed ∨ e.state = .refused ∨ e.state = .cancelled →
        ∃ t, exec (.amend b pb f) s = .next t ∧ s.Ends ((s.setEntry h e').answer .done [e.state.code, 0xFF]) t) ∧
      (e.state = .engaged ∨ e.state = .sent ∨ e.state = .arrived ∨ e.state = .spent ∨ e.state = .receiving →
        ∃ t, exec (.amend b pb f) s = .next t ∧ s.Ends (s.answer .wrongState []) t)) ∧
  (∀ (s : State) (b pb : Byte) (f : CallField),
      let e := s.entry ⟨b.toNat, b.isLt⟩
      (e.state = .free → ∃ t, exec (.amend b pb f) s = .next t ∧ s.Ends (s.answer .noEntry []) t) ∧
      (e.state ≠ .free →
        (pb ≠ 0xFF ∧ 8 ≤ pb.toNat ∨
          (∃ x ∈ f.toList, x ≠ 0x20) ∧ (∀ d, parseCall f.toList = some d → d = s.own.call)) →
        ∃ t, exec (.amend b pb f) s = .next t ∧ s.Ends (s.answer .badValue []) t))

/-- R47, R26: CANCEL makes a READY or RETRY_WAIT entry CANCELLED with its outcome kept; an ENGAGED one CANCELLED with
WITHDRAWN while its exchange is STAGED, its engine then IDLE, its claim dropped, and cancel pending once it is SENDING
or AWAITING; any other state is refused WRONG_STATE, FREE NO_ENTRY. -/
def Obligations.CancelByState : Prop :=
  ∀ (s : State) (b : Byte),
    let h : Handle := ⟨b.toNat, b.isLt⟩
    let e := s.entry h
    let gone := { e with state := .cancelled, nextHop := none, notBefore := none, cancelPending := none }
    (e.state = .ready → ∃ u t : State, exec (.cancel b) s = .next t ∧ u.Turned t ∧ u.entry h = gone ∧
      (∀ k, h ∉ u.collection k) ∧ u.response = ⟨.done, [9]⟩ ∧ s.SameButPlacing h u) ∧
    (e.state = .retryWait → ∃ t, exec (.cancel b) s = .next t ∧ s.Ends ((s.setEntry h gone).answer .done [9]) t) ∧
    (∀ c w x, e.state = .engaged → s.engineOf h = some c → (s.chan c).engine = .staged h w x →
      ∃ t, exec (.cancel b) s = .next t ∧
        (((s.setEntry h { gone with lastOutcome := .withdrawn }).setChan c
          { s.chan c with engine := .idle }).answer .done [9]).Turned t ∧ (t.chan c).arbitrated = t.chan c) ∧
    (∀ c, e.state = .engaged → s.engineOf h = some c →
      ((∃ r, (s.chan c).engine = .sending h r) ∨ ∃ n, (s.chan c).engine = .awaiting h n) →
      ∃ t, exec (.cancel b) s = .next t ∧
        s.Ends ((s.setEntry h { e with cancelPending := some true }).answer .done [4]) t) ∧
    (e.state = .spent ∨ e.state = .receiving ∨ e.state = .sent ∨ e.state = .refused ∨ e.state = .failed ∨
        e.state = .cancelled ∨ e.state = .arrived →
      ∃ t, exec (.cancel b) s = .next t ∧ s.Ends (s.answer .wrongState []) t) ∧
    (e.state = .free → ∃ t, exec (.cancel b) s = .next t ∧ s.Ends (s.answer .noEntry []) t)

/-- R50, R26: RENEW puts a FAILED, REFUSED or CANCELLED entry back: attempt count 0, outcome NONE, READY and placed by its
route, the answer READY with its channel; any other state is refused WRONG_STATE, FREE NO_ENTRY. -/
def Obligations.RenewPutsBack : Prop :=
  ∀ (s : State) (b : Byte),
    let h : Handle := ⟨b.toNat, b.isLt⟩
    let e := s.entry h
    (e.state = .failed ∨ e.state = .refused ∨ e.state = .cancelled →
      ∃ u t : State, exec (.renew b) s = .next t ∧ u.Turned t ∧
        u.entry h = { e with state := .ready, attemptCount := 0, lastOutcome := .none, nextHop := s.route e,
                             notBefore := none, cancelPending := none } ∧
        h ∈ u.collection (u.collectionFor (s.route e)) ∧
        u.response = ⟨.done, [3, optByte ((s.route e).bind s.hopChannel)]⟩ ∧ s.SameButPlacing h u) ∧
    (e.state ≠ .free → e.state ≠ .failed → e.state ≠ .refused → e.state ≠ .cancelled →
      ∃ t, exec (.renew b) s = .next t ∧ s.Ends (s.answer .wrongState []) t) ∧
    (e.state = .free → ∃ t, exec (.renew b) s = .next t ∧ s.Ends (s.answer .noEntry []) t)

/-- R51, R26, R83: RETIRE makes a finished entry SPENT with its role, key and accession, returns its blocks, raises the
free-entry count by one and tests congestion; any other state is refused WRONG_STATE, FREE NO_ENTRY. -/
def Obligations.RetireSpendsEntry : Prop :=
  ∀ (s : State) (b : Byte),
    let h : Handle := ⟨b.toNat, b.isLt⟩
    let e := s.entry h
    let freed := (s.setEntry h { Entry.free with state := .spent, role := e.role, key := e.key,
                                                 accession := e.accession }).countFreed e.blockCount
    (e.state = .sent ∨ e.state = .refused ∨ e.state = .failed ∨ e.state = .cancelled ∨ e.state = .arrived →
      ∃ t, exec (.retire b) s = .next t ∧ ((testCongestion freed).answer .done []).Turned t) ∧
    (e.state ≠ .free → e.state ≠ .sent → e.state ≠ .refused → e.state ≠ .failed → e.state ≠ .cancelled →
      e.state ≠ .arrived → ∃ t, exec (.retire b) s = .next t ∧ s.Ends (s.answer .wrongState []) t) ∧
    (e.state = .free → ∃ t, exec (.retire b) s = .next t ∧ s.Ends (s.answer .noEntry []) t)

/-! ## Congestion -/

/-- R83, R87, R89: the test of congestion. NORMAL becomes CONGESTED below an enter threshold, CONGESTED becomes NORMAL
at both leave thresholds; a change sets CONGESTION_CHANGED. On entry each enabled channel takes an own HOLD with the
time and cutoff in force; on leaving every re-hold timer stops, and each enabled channel takes an own release, or
every own frame that waits or is owed is dropped. Nothing else changes. R86: an own frame queued on a channel replaces
one that waits in its place, else joins the tail when the queue has room, else sets the owed mark. -/
def Obligations.CongestionTested : Prop :=
  (∀ s : State,
      let t := testCongestion s
      let low := s.freeEntries < s.own.enterEntries ∨ s.freeBlocks < s.own.enterBlocks
      let high := s.own.leaveEntries ≤ s.freeEntries ∧ s.own.leaveBlocks ≤ s.freeBlocks
      { t with congestion := s.congestion, congestionChanged := s.congestionChanged, channels := s.channels } = s ∧
      (s.congestion = .normal → low → t.congestion = .congested ∧ t.congestionChanged = true ∧
        ∀ c, t.chan c = if (s.chan c).enabled then (s.chan c).queueOwn s.own.holdTime s.own.holdCutoff else s.chan c) ∧
      (s.congestion = .congested → high → s.own.releaseMode = true → t.congestion = .normal ∧
        t.congestionChanged = true ∧ ∀ c, t.chan c =
          if (s.chan c).enabled then Channel.queueOwn 0 s.own.holdCutoff { s.chan c with rehold := none }
          else { s.chan c with rehold := none }) ∧
      (s.congestion = .congested → high → s.own.releaseMode = false → t.congestion = .normal ∧
        t.congestionChanged = true ∧ ∀ c, t.chan c =
          { s.chan c with rehold := none, owed := none, control := (s.chan c).control.filter (!·.isOwn) }) ∧
      (s.congestion = .normal → ¬ low → t = s) ∧ (s.congestion = .congested → ¬ high → t = s)) ∧
  (∀ (x : Channel) (n : Nat) (k : Fin 8),
      ((∀ f ∈ x.control, f.isOwn = false) → x.control.length < 4 →
        x.queueOwn n k = { x with control := x.control ++ [.ownHold n k] }) ∧
      ((∀ f ∈ x.control, f.isOwn = false) → 4 ≤ x.control.length →
        x.queueOwn n k = { x with owed := some (if n = 0 then .release else .hold) }) ∧
      (∀ (a b : List ControlFrame) (m : Nat) (j : Fin 8), x.control = a ++ [.ownHold m j] ++ b →
        (∀ f ∈ a ++ b, f.isOwn = false) → x.queueOwn n k = { x with control := a ++ [.ownHold n k] ++ b }))

/-! ## The directory -/

/-- R55, R56: SET STATION with parameters that pass writes the record at its index, sweeps and answers the record as
stored; REACH_CHANGED is set when a station came back to HEARD by it. At an index that was empty or held another call
the runtime fields start afresh: HEARD, not forced, ages, counts and hold 0. R56: the rewriting of a record for the
same call keeps the forced mark, the heard age and the hold; a station whose interval becomes 0 while UNHEARD is HEARD
at once with confirm count 0. The model's choice (note 20): a heard age over its limit that waits for HEARD_AGE_OVER_LIMIT is
dropped where the record is rewritten for the same call with interval 0, or for another call, with no UNHEARD and no
REACH_CHANGED. -/
def Obligations.SetStationWritesRecord : Prop :=
  (∀ (s : State) (p : StationBlock) (i : Index) (n : Station),
      s.parseStation p = some (i, n) → (s.isRelay i = true → n.kind = .direct) →
      ∃ t : State, exec (.setStation p) s = .next t ∧
        t.station i = some (writtenStation (s.station i) n) ∧ (∀ j, j ≠ i → t.station j = s.station j) ∧
        ((s.station i).any (·.call = n.call) = false → t.station i = some n ∧ n.reach = .heard ∧
          n.forcedUnheard = false ∧ n.heardAge = 0 ∧ n.confirmCount = 0 ∧ n.holdRemaining = 0 ∧ n.holdCutoff = 0) ∧
        (∃ v : Bool, (v = true ↔
            ∃ old, s.station i = some old ∧ old.call = n.call ∧ old.reach = .unheard ∧ n.interval = 0) ∧
          let r := writtenStation (s.station i) n
          let u := sweep { s.setStation i (some r) with reachChanged := s.reachChanged || v }
          (u.answer .done (u.stationRecord i r)).Turned t) ∧
        (∀ k, (s.entry k).SameMessage (t.entry k)) ∧ (∀ c, (s.chan c).SameLine (t.chan c)) ∧ t.own = s.own ∧
        t.classes = s.classes ∧ t.time = s.time ∧ t.freeEntries = s.freeEntries ∧ t.freeBlocks = s.freeBlocks) ∧
  (∀ old n : Station, old.call = n.call →
      let r := writtenStation (some old) n
      r.call = n.call ∧ r.channel = n.channel ∧ r.kind = n.kind ∧ r.fallback = n.fallback ∧
        r.netControl = n.netControl ∧ r.interval = n.interval ∧ r.sensitivity = n.sensitivity ∧
        r.forcedUnheard = old.forcedUnheard ∧ r.heardAge = old.heardAge ∧ r.holdRemaining = old.holdRemaining ∧
        r.holdCutoff = old.holdCutoff ∧
        (n.interval = 0 ∧ old.reach = .unheard → r.reach = .heard ∧ r.confirmCount = 0) ∧
        (¬ (n.interval = 0 ∧ old.reach = .unheard) → r.reach = old.reach ∧ r.confirmCount = old.confirmCount))

/-- R55, Table 3-3: the checks of SET STATION but the last refuse it BAD_VALUE; a VIA record over an index that is a relay
is refused IN_USE; a refused SET STATION has no effect of its own. Parameters that fail none of the first checks give the
record that they carry, interval and sensitivity clamped. -/
def Obligations.SetStationRefused : Prop :=
  ∀ (s : State) (p : StationBlock),
    (64 ≤ p.index.toNat ∨ parseCall p.call.toList = none ∨
        (∃ c, parseCall p.call.toList = some c ∧ (c = s.own.call ∨
          ∃ j st, s.station j = some st ∧ st.call = c ∧ j.val ≠ p.index.toNat)) ∨
        4 ≤ p.channel.toNat ∨ 2 ≤ p.netControl.toNat ∨ 2 ≤ p.kind.toNat ∨
        (p.kind = 1 ∧ (64 ≤ p.relay.toNat ∨ p.relay = p.index ∨
          ∀ r : Index, p.relay.toNat = r.val → (s.station r).any (·.kind = .direct) = false)) ∨
        (p.fallback ≠ 0xFF ∧ (64 ≤ p.fallback.toNat ∨ p.fallback = p.index ∨
          ∀ r : Index, p.fallback.toNat = r.val → s.station r = none)) →
      ∃ t, exec (.setStation p) s = .next t ∧ s.Ends (s.answer .badValue []) t) ∧
    ((64 ≤ p.index.toNat ∨ parseCall p.call.toList = none ∨
        (∃ c, parseCall p.call.toList = some c ∧ (c = s.own.call ∨
          ∃ j st, s.station j = some st ∧ st.call = c ∧ j.val ≠ p.index.toNat)) ∨
        4 ≤ p.channel.toNat ∨ 2 ≤ p.netControl.toNat ∨ 2 ≤ p.kind.toNat ∨
        (p.kind = 1 ∧ (64 ≤ p.relay.toNat ∨ p.relay = p.index ∨
          ∀ r : Index, p.relay.toNat = r.val → (s.station r).any (·.kind = .direct) = false)) ∨
        (p.fallback ≠ 0xFF ∧ (64 ≤ p.fallback.toNat ∨ p.fallback = p.index ∨
          ∀ r : Index, p.fallback.toNat = r.val → s.station r = none))) ∨
      ∃ i n, s.parseStation p = some (i, n) ∧ i.val = p.index.toNat ∧ parseCall p.call.toList = some n.call ∧
        n.channel.val = p.channel.toNat ∧ (n.netControl = true ↔ p.netControl = 1) ∧ (p.kind = 0 → n.kind = .direct) ∧
        (p.kind = 1 → ∃ r, n.kind = .via r ∧ r.val = p.relay.toNat) ∧ (p.fallback = 0xFF → n.fallback = none) ∧
        (p.fallback ≠ 0xFF → ∃ f, n.fallback = some f ∧ f.val = p.fallback.toNat) ∧
        n.interval = min 3600 p.interval.toNat ∧ n.sensitivity.val = min 7 p.sensitivity.toNat) ∧
    (∀ (i : Index) (n : Station), s.parseStation p = some (i, n) → n.kind ≠ .direct →
      (∃ j st, s.station j = some st ∧ st.kind = .via i) →
      ∃ t, exec (.setStation p) s = .next t ∧ s.Ends (s.answer .inUse []) t)

/-- R57, R59: READ STATION answers the record of an occupied index and DROP STATION empties one that no record and no
default route names, with a sweep; one that is named is refused IN_USE, an empty index NO_ENTRY, an index over 63
BAD_VALUE. The model's choice (note 20): a heard age over its limit that waits for HEARD_AGE_OVER_LIMIT is dropped with the
record, and REACH_CHANGED stands as it stood. -/
def Obligations.ReadAndDropStation : Prop :=
  ∀ (s : State) (b : Byte),
    (∀ (i : Index) (st : Station), b.toNat = i.val → s.station i = some st →
      (∃ t, exec (.readStation b) s = .next t ∧ s.Ends (s.answer .done (s.stationRecord i st)) t) ∧
      ((∃ j r, s.station j = some r ∧ (r.kind = .via i ∨ r.fallback = some i)) ∨ s.own.defaultRoute = some i →
        ∃ t, exec (.dropStation b) s = .next t ∧ s.Ends (s.answer .inUse []) t) ∧
      ((∀ j r, s.station j = some r → r.kind ≠ .via i ∧ r.fallback ≠ some i) → s.own.defaultRoute ≠ some i →
        ∃ t, exec (.dropStation b) s = .next t ∧ ((sweep (s.setStation i none)).answer .done []).Turned t ∧
          t.station i = none)) ∧
    (∀ i : Index, b.toNat = i.val → s.station i = none →
      (∃ t, exec (.readStation b) s = .next t ∧ s.Ends (s.answer .noEntry []) t) ∧
      ∃ t, exec (.dropStation b) s = .next t ∧ s.Ends (s.answer .noEntry []) t) ∧
    (64 ≤ b.toNat →
      (∃ t, exec (.readStation b) s = .next t ∧ s.Ends (s.answer .badValue []) t) ∧
      ∃ t, exec (.dropStation b) s = .next t ∧ s.Ends (s.answer .badValue []) t)

/-- R58: FORCE STATION writes the forced unheard mark of an occupied index, with a sweep when the mark changes; an index
over 63 or a mark other than 0 and 1 is refused BAD_VALUE, an empty index NO_ENTRY. -/
def Obligations.ForceStationMarks : Prop :=
  ∀ (s : State) (b m : Byte),
    (∀ (i : Index) (st : Station) (v : Bool), b.toNat = i.val → s.station i = some st → m.toNat = v.toNat →
      (st.forcedUnheard = v → ∃ t, exec (.forceStation b m) s = .next t ∧ s.Ends (s.answer .done []) t) ∧
      (st.forcedUnheard ≠ v → ∃ t, exec (.forceStation b m) s = .next t ∧
        ((sweep (s.setStation i (some { st with forcedUnheard := v }))).answer .done []).Turned t)) ∧
    (64 ≤ b.toNat ∨ 2 ≤ m.toNat → ∃ t, exec (.forceStation b m) s = .next t ∧ s.Ends (s.answer .badValue []) t) ∧
    (∀ i : Index, b.toNat = i.val → m.toNat < 2 → s.station i = none →
      ∃ t, exec (.forceStation b m) s = .next t ∧ s.Ends (s.answer .noEntry []) t)

/-- R61: a station is usable exactly when it is HEARD, not forced unheard, on a channel that is enabled and not
JAMMED, and, if it is VIA, its relay is too. R62: resolution takes the record that holds the destination, else the
default route; a usable candidate gives itself or its relay; an unusable one gives its fallback's hop when that is
usable, and no route otherwise; the own call has none. R27: the route of an entry is what its destination resolves to, but
a RELAY entry has no route where the next hop's call is its received-from call. R72: a sweep gives every READY entry its
route as its next hop, and it stands in the collection of that route alone; the entries that stay in a collection keep their
places among themselves, those that join it join at their places, and no other field of any of them changes. (That the
collection is the route's also where the next hop's index is the same and its record was rewritten on another channel is the
model's reading: note 12.) R73, R39: a STAGED exchange whose entry now resolves to another channel or to no route is
withdrawn, READY with WITHDRAWN and placed; any other exchange and every other entry are left alone. R71: after each command
that `State.BringsSweep` names (Safety.lean), those with which JAMMED ends as busy does among them, every READY entry's next
hop is its route, and every STAGED exchange's entry resolves to its channel; so after a good frame that changes a station's
reach state. R68: a next hop gives the queue of its station's channel, none the unrouted list; a queue's order is ascending
precedence value and then accession, that of the unrouted list accession alone. -/
def Obligations.RouteResolved : Prop :=
  (∀ (s : State) (st : Station),
      let own := fun r : Station => r.reach = .heard ∧ r.forcedUnheard = false ∧ (s.chan r.channel).enabled = true ∧
        (s.chan r.channel).jammed = false
      (st.kind = .direct → (s.usable st = true ↔ own st)) ∧
      (∀ i r, st.kind = .via i → s.station i = some r → (s.usable st = true ↔ own st ∧ own r))) ∧
  (∀ (s : State) (d : Call),
      (d = s.own.call → s.resolve d = none) ∧
      (∀ i st, d ≠ s.own.call → s.candidate d = some i → s.station i = some st →
        (s.usable st = true → s.resolve d = some (match st.kind with | .direct => i | .via r => r)) ∧
        (s.usable st = false → st.fallback = none → s.resolve d = none) ∧
        (∀ j f, s.usable st = false → st.fallback = some j → s.station j = some f →
          (s.usable f = true → s.resolve d = some (match f.kind with | .direct => j | .via r => r)) ∧
          (s.usable f = false → s.resolve d = none))) ∧
      (d ≠ s.own.call → s.candidate d = none → s.resolve d = none) ∧
      (∀ i st, s.station i = some st → st.call = d → (∀ j r, s.station j = some r → r.call = d → j = i) →
        s.candidate d = some i) ∧
      ((∀ i st, s.station i = some st → st.call ≠ d) → s.candidate d = s.own.defaultRoute)) ∧
  (∀ (s : State) (e : Entry),
      (e.role ≠ .relay → s.route e = s.resolve e.destination) ∧
      (s.resolve e.destination = none → s.route e = none) ∧
      (∀ i st, e.role = .relay → s.resolve e.destination = some i → s.station i = some st →
        (e.receivedFrom = some st.call → s.route e = none) ∧ (e.receivedFrom ≠ some st.call → s.route e = some i))) ∧
  (∀ s : State,
      (∀ i st, s.station i = some st → s.collectionFor (some i) = .queue st.channel) ∧ s.collectionFor none = .unrouted ∧
      ∀ a b c,
        (comesBefore s (.queue c) a b = true ↔ (s.entry a).precedence < (s.entry b).precedence ∨
          (s.entry a).precedence = (s.entry b).precedence ∧ (s.entry a).accession < (s.entry b).accession) ∧
        (comesBefore s .unrouted a b = true ↔ (s.entry a).accession < (s.entry b).accession)) ∧
  (∀ s : State,
      (∀ h k, h ∈ s.collection k → (s.entry h).state = .ready ∧ ∀ q, h ∈ s.collection q → q = k) →
      (∀ h, (s.entry h).state = .ready → ∃ k, h ∈ s.collection k) → (∀ k, (s.collection k).Nodup) →
      (∀ c h, (s.chan c).engine.entry? = some h → s.HeldAlone c h) →
      let t := sweep s
      let home := fun h => s.collectionFor (s.route (s.entry h))
      (∀ h, (s.entry h).state = .ready → t.entry h = { s.entry h with nextHop := s.route (s.entry h) } ∧
        ∀ q, h ∈ t.collection q ↔ q = home h) ∧
      (∀ k, (t.collection k).filter (fun h => h ∈ s.collection k) =
        (s.collection k).filter fun h => decide (home h = k)) ∧
      ((∀ a b, s.Waits a → s.Waits b → (s.entry a).accession = (s.entry b).accession → a = b) →
        (∀ k, (s.collection k).Pairwise fun a b => comesBefore s k a b = true) →
        ∀ k, (t.collection k).Pairwise fun a b => comesBefore t k a b = true) ∧
      (∀ c h w x, (s.chan c).engine = .staged h w x →
        (home h = .queue c → (t.chan c).engine = .staged h w x ∧ t.entry h = s.entry h) ∧
        (home h ≠ .queue c → (t.chan c).engine = .idle ∧ t.Returns h (s.entry h) .withdrawn ∧
          ∀ q, h ∈ t.collection q ↔ q = home h)) ∧
      (∀ c, (∀ h w x, (s.chan c).engine ≠ .staged h w x) → (t.chan c).engine = (s.chan c).engine) ∧
      (∀ h, (s.entry h).state ≠ .ready → (∀ c w x, (s.chan c).engine ≠ .staged h w x) → t.entry h = s.entry h) ∧
      (∀ c, (s.chan c).SameButExchange (t.chan c)) ∧
      { t with entries := s.entries, unrouted := s.unrouted, channels := s.channels } = s) ∧
  (∀ (s t : State) (i : Instr), s.TrafficKept → s.BringsSweep i → exec i s = .next t → t.Routed) ∧
  (∀ (s : State) (i : Index) (st : Station), s.TrafficKept → s.station i = some st → st.overLimitDue = false →
      st.refreshed.reach ≠ st.reach → (goodFrameFrom i s).Routed)

/-! ## Channels -/

/-- R104, R180: SET CHANNEL on a disabled channel writes the settings as clamped and answers them; on an enabled one it
is refused WRONG_STATE; a channel over 3 or a selector that names no choice is refused BAD_VALUE first. Table 10-2,
R93, R103, R157, R138, R171: each setting is stored as its selector names it or its rule clamps it, the window fields
in the order period, offset, length. -/
def Obligations.SetChannelWritesSettings : Prop :=
  (∀ (s : State) (b : Byte) (p : SettingsBlock),
      (∀ (c : Chan) (g : Settings), b.toNat = c.val → storedSettings p = some g → (s.chan c).enabled = false →
        ∃ t, exec (.setChannel b p) s = .next t ∧
          s.Ends ((s.setChan c { s.chan c with settings := g }).answer .done g.bytes) t) ∧
      (∀ c : Chan, b.toNat = c.val → storedSettings p ≠ none → (s.chan c).enabled = true →
        ∃ t, exec (.setChannel b p) s = .next t ∧ s.Ends (s.answer .wrongState []) t) ∧
      (4 ≤ b.toNat ∨ 3 ≤ p.parity.toNat ∨ p.stopBits.toNat = 0 ∨ 3 ≤ p.stopBits.toNat ∨ 3 ≤ p.source.toNat ∨
          2 ≤ p.polarity.toNat →
        ∃ t, exec (.setChannel b p) s = .next t ∧ s.Ends (s.answer .badValue []) t)) ∧
  (∀ (p : SettingsBlock) (g : Settings), storedSettings p = some g →
      g.parity = (if p.parity = 0 then .none else if p.parity = 1 then .even else .odd) ∧
        g.twoStops = (p.stopBits == 2) ∧
        g.source = (if p.source = 0 then .cd else if p.source = 1 then .activity else .either) ∧
        g.polarity = (if p.polarity = 0 then .activeHigh else .activeLow) ∧
        g.divisor = min 511 p.divisor.toNat ∧ g.jamLimit = p.jamLimit.toNat ∧ g.keyUpField = p.keyUpField.toNat ∧
        g.turnField = p.turnField.toNat ∧ g.slotField = max 1 p.slotField.toNat ∧ g.stagger = min 7 p.stagger.toNat ∧
        g.retryBase = max 1 p.retryBase.toNat ∧ g.beaconInterval = min 3600 p.beaconInterval.toNat ∧
        (p.period.toNat = 0 → g.period = 0 ∧ g.offset = 0 ∧ g.length = 0) ∧
        (p.period.toNat ≠ 0 → g.period = min 86400 (max 60 p.period.toNat) ∧
          g.offset = min 86399 p.offset.toNat % g.period ∧ g.length = min g.period (max 1 p.length.toNat)))

/-- R109, R152: READ CHANNEL answers the channel record as it stands, the abort pause as it stood before the request; a
channel over 3 is refused BAD_VALUE. While the beacon is on the air the record's beacon fields are the model's free values
(note 3), and their count rises. -/
def Obligations.ReadChannelAnswers : Prop :=
  ∀ (s : State) (b : Byte),
    (∀ c : Chan, b.toNat = c.val → (s.chan c).beacon ≠ .onAir →
      ∃ t, exec (.readChannel b) s = .next t ∧ s.Ends (s.answer .done (s.channelRecord c)) t) ∧
    (∀ c : Chan, b.toNat = c.val → (s.chan c).beacon = .onAir →
      ∃ t, exec (.readChannel b) s = .next t ∧
        s.Ends ({ s with freeCount := s.freeCount + 1 }.answer .done (s.channelRecord c)) t) ∧
    (4 ≤ b.toNat → ∃ t, exec (.readChannel b) s = .next t ∧ s.Ends (s.answer .badValue []) t)

/-- R105, R150, R90: ENABLE CHANNEL of a disabled channel with an own call set: enabled, sampler in LINE_RECOVERY,
receiver in HUNT, gate counters 0 and JAMMED no, busy as the inputs stand, beacon counting when the interval is above
0, an own HOLD queued when the part is CONGESTED, and its settings kept. R105, R106, R54: ENABLE CHANNEL is refused
WRONG_STATE while the own call is empty; on an enabled channel, as DISABLE CHANNEL on a disabled one, it answers DONE
and has no effect of its own; a channel over 3 is refused BAD_VALUE. -/
def Obligations.EnableStartsChannel : Prop :=
  (∀ (s : State) (b : Byte) (c : Chan), b.toNat = c.val → s.own.call ≠ [] → (s.chan c).enabled = false →
      ∃ t, exec (.enableChannel b) s = .next t ∧ t.response = ⟨.done, []⟩ ∧
        (t.chan c).enabled = true ∧ (t.chan c).sampler = .lineRecovery ∧ (t.chan c).receiver = .hunt ∧
        (t.chan c).clearTime = 0 ∧ (t.chan c).busyLength = 0 ∧ (t.chan c).jammed = false ∧
        (t.chan c).busy = (t.chan c).busyNow ∧ (t.chan c).settings = (s.chan c).settings ∧
        (t.chan c).beacon = (if (s.chan c).settings.beaconInterval = 0 then .off else .counting s.time.counter) ∧
        (t.chan c).control = (if s.congestion = .congested then
          ((s.chan c).queueOwn s.own.holdTime s.own.holdCutoff).control else (s.chan c).control) ∧
        (∀ d, d ≠ c → (s.chan d).SameLine (t.chan d)) ∧ (∀ k, (s.entry k).SameMessage (t.entry k)) ∧
        s.SameTables t) ∧
  (∀ (s : State) (b : Byte),
      (∀ c : Chan, b.toNat = c.val → s.own.call = [] →
        ∃ t, exec (.enableChannel b) s = .next t ∧ s.Ends (s.answer .wrongState []) t) ∧
      (∀ c : Chan, b.toNat = c.val → s.own.call ≠ [] → (s.chan c).enabled = true →
        ∃ t, exec (.enableChannel b) s = .next t ∧ s.Ends (s.answer .done []) t) ∧
      (∀ c : Chan, b.toNat = c.val → (s.chan c).enabled = false →
        ∃ t, exec (.disableChannel b) s = .next t ∧ s.Ends (s.answer .done []) t) ∧
      (4 ≤ b.toNat → (∃ t, exec (.enableChannel b) s = .next t ∧ s.Ends (s.answer .badValue []) t) ∧
        ∃ t, exec (.disableChannel b) s = .next t ∧ s.Ends (s.answer .badValue []) t))

/-- R106, R90, R151: DISABLE CHANNEL of an enabled channel ends its exchange, cuts its transmitter, drops its frame in
reception, empties its control frames, clears its silence, re-hold, beacon and pause, stops its sampler, sets its gate
to 0 and raises JAM_CHANGED when it was JAMMED or its busy length had reached the jam threshold; its settings are kept.
R39, R40, R41, R45: the exchange leaves its entry as its phase, a recorded verdict and a cancel pending have it (a STAGED
one that a JAMMED just reached withdraws first may be taken elsewhere before the disable). R32, R18: an entry reserved is
FREE and its blocks are back; without one the counts stand. R142, R133: the considerations and the arbiters follow, when no
abort pause stands. -/
def Obligations.DisableStopsChannel : Prop :=
  ∀ (s : State) (b : Byte) (c : Chan), b.toNat = c.val → (s.chan c).enabled = true →
    ∃ u t : State, exec (.disableChannel b) s = .next t ∧ u.Turned t ∧ t.response = ⟨.done, []⟩ ∧
      ((∀ d, (s.chan d).abortPause = false) → t = conclude u) ∧
      (t.chan c).enabled = false ∧ (t.chan c).Quiet ∧ (t.chan c).settings = (s.chan c).settings ∧
      (t.chan c).transmitter = (s.chan c).transmitter.cut (s.chan c).settings ∧
      (t.chan c).jamChanged = ((s.chan c).jamChanged || (s.chan c).jammed || (s.chan c).jamReached) ∧
      (∀ d, d ≠ c → (t.chan d).enabled = (s.chan d).enabled ∧ (t.chan d).settings = (s.chan d).settings ∧
        (t.chan d).receiver = (s.chan d).receiver ∧ (t.chan d).transmitter.keyed = (s.chan d).transmitter.keyed ∧
        ((s.chan c).receiver.reservation = none → (s.chan d).SameLine (t.chan d))) ∧
      (∀ h, s.HeldAlone c h → (s.chan c).receiver.reservation ≠ some h →
        ((s.chan c).jamReached = false ∨ ∀ w x, (s.chan c).engine ≠ .staged h w x) →
        u.LeftExchange (s.chan c).engine h (s.entry h)) ∧
      (∀ h n, (s.chan c).engine = .awaiting h n → (s.entry h).cancelPending = some true → s.HeldAlone c h →
        (s.chan c).receiver.reservation ≠ some h →
        (t.entry h).state = .cancelled ∧ (t.entry h).lastOutcome = .aborted ∧ (t.entry h).changed = true) ∧
      (∀ h, (s.chan c).receiver.reservation = some h → t.freeEntries = s.freeEntries + 1 ∧
        t.freeBlocks = s.freeBlocks + (s.entry h).blockCount ∧ (¬ s.Waits h → t.entry h = Entry.free)) ∧
      ((s.chan c).receiver.reservation = none → t.freeEntries = s.freeEntries ∧ t.freeBlocks = s.freeBlocks ∧
        t.congestion = s.congestion) ∧
      (∀ k, (s.chan c).receiver.reservation ≠ some k → (s.entry k).SameMessage (t.entry k) ∧
        (¬ s.Waits k → t.entry k = s.entry k)) ∧
      s.SameTables t

/-- R98, Table 7-2: a cut of a transmitter. A frame on the line ends in a break of 15 bit times at the divisor in
force, which begins at the end of the bit on the line; a claim or a key-up delay is dropped without one; a break runs on.
R98: after a cut TXDn stays at the level of the cut bit until that bit ends, is then at space for 13 bit times, and at mark
from there on. R98, R107: the end of a break, when the rest of the cut bit and 15 bit times are over, releases keying. On a disabled channel
nothing else changes; on an enabled one busy is then as the carrier source says. Before that the break goes on. The model's
choice (notes 1 and 5): the place on the line is kept in whole milliseconds, the rest of the cut bit is reckoned from the
frame's last whole millisecond, and BREAK_END is taken from the whole millisecond on in which the break can end and is none
before it. -/
def Obligations.CutAndBreak : Prop :=
  (∀ (g : Settings) (x : Channel) (w : OnAir) (f : List Byte) (k u r n : Nat) (q : Claimant),
      Transmitter.cut g .idle = .idle ∧ Transmitter.cut g (.clearing q n) = .idle ∧
      Transmitter.cut g (.keying w n) = .idle ∧
      (∀ level, Transmitter.cut g (.brk u r n level) = .brk u r n level) ∧
      (∃ m rest level, Transmitter.cut g (.sending w f k) = .brk m rest 0 level ∧ m = (g.divisor + 1) * 5 ∧
        (k * 384 < f.length * g.bitsPerChar * m → 0 < rest ∧ rest ≤ m ∧ (k * 384 + rest) % m = 0 ∧
          (f.flatMap g.characterBits)[k * 384 / m]? = some level) ∧
        (f.length * g.bitsPerChar * m ≤ k * 384 → rest = 0) ∧
        Transmitter.breakRemaining (.brk m rest 0 level) = some 15 ∧
        ({ x with transmitter := .brk m rest 0 level } : Channel).lineBits =
          (if rest = 0 then [] else [level]) ++ List.replicate 13 false ++ List.replicate 2 true)) ∧
  (∀ (x : Channel) (u r k : Nat) (level : Bool), x.transmitter = .brk u r k level →
      (k * 384 < r → x.txd = level) ∧ (r ≤ k * 384 → k * 384 < r + 13 * u → x.txd = false) ∧
      (r + 13 * u ≤ k * 384 → x.txd = true)) ∧
  (∀ (s : State) (c : Chan) (u r k : Nat) (level : Bool), (s.chan c).transmitter = .brk u r k level →
      ((k + 1) * 384 ≤ r + 15 * u → exec (.breakEnd c) s = .next s) ∧
      (r + 15 * u < (k + 1) * 384 → (s.chan c).enabled = false →
        exec (.breakEnd c) s = .next (s.setChan c { s.chan c with transmitter := .idle })) ∧
      (r + 15 * u < (k + 1) * 384 → (s.chan c).enabled = true →
        ∃ t, exec (.breakEnd c) s = .next t ∧ (t.chan c).transmitter.keyed = false ∧
          (t.chan c).busy = (s.chan c).carrier ∧ (t.chan c).control = (s.chan c).control ∧
          (∀ d, d ≠ c → (s.chan d).SameLine (t.chan d)) ∧ (∀ k, ¬ s.Waits k → t.entry k = s.entry k) ∧
          s.SameTables t ∧ t.response = s.response))

/-- R148, R149: ABORT CHANNEL of a channel with an exchange leaves the engine IDLE with its abort pause set, cuts the
transmitter when the exchange is SENDING and not otherwise, and answers the entry's handle and its state after the
abort, as it stands before another engine's consideration (the model's reading: note 8); on an IDLE engine it is refused
WRONG_STATE; a channel over 3 BAD_VALUE. R39, R40, R41, R45: the exchange leaves its entry as its phase, a recorded verdict
and a cancel pending have it. R149: a pause that stood before the request ends with it. R149, R142: whatever request is taken
next ends every pause that stood before it, and the engine of each has then made its consideration: another takes nothing and
fails nothing. -/
def Obligations.AbortEndsExchange : Prop :=
  ∀ (s : State) (b : Byte),
    (∀ (c : Chan) (h : Handle), b.toNat = c.val → (s.chan c).engine.entry? = some h → (s.chan c).abortPause = false →
      (∀ d, d ≠ c → (s.chan d).engine.entry? ≠ some h) →
      ∃ u t : State, exec (.abortChannel b) s = .next t ∧ u.Turned t ∧
        u.response = ⟨.done, [be8 h.val, (u.entry h).state.code]⟩ ∧
        (t.chan c).engine = .idle ∧ (t.chan c).abortPause = true ∧
        ((∃ w x, (s.chan c).engine = .staged h w x) →
          (u.entry h).state = .ready ∧ (u.entry h).lastOutcome = .withdrawn) ∧
        ((s.chan c).engine = .sending h none ∨ (∃ n, (s.chan c).engine = .awaiting h n) →
          (u.entry h).lastOutcome = .aborted ∧
            (u.entry h).state = if (s.entry h).cancelPending = some true then .cancelled else .ready) ∧
        (s.HeldAlone c h → u.LeftExchange (s.chan c).engine h (s.entry h)) ∧
        ((∀ d, (s.chan d).abortPause = false) → t = conclude u) ∧
        (∀ r, (s.chan c).engine = .sending h r →
          (u.chan c).transmitter = (s.chan c).transmitter.cut (s.chan c).settings) ∧
        ((∀ r, (s.chan c).engine ≠ .sending h r) → (u.chan c).transmitter = (s.chan c).transmitter) ∧
        (∀ k, k ≠ h → ¬ s.Waits k → t.entry k = s.entry k) ∧ s.SameTables t) ∧
    (∀ (c : Chan) (h : Handle), b.toNat = c.val → s.HeldAlone c h → (s.chan c).abortPause = true →
      ∃ u t : State, exec (.abortChannel b) s = .next t ∧ u.Turned t ∧
        u.response = ⟨.done, [be8 h.val, (u.entry h).state.code]⟩ ∧ (u.chan c).engine = .idle ∧
        u.LeftExchange (s.chan c).engine h (s.entry h) ∧ (t.chan c).abortPause = false ∧ s.SameTables t) ∧
    (∀ c : Chan, b.toNat = c.val → (s.chan c).engine = .idle →
      ∃ t, exec (.abortChannel b) s = .next t ∧ s.Ends (s.answer .wrongState []) t) ∧
    (4 ≤ b.toNat → ∃ t, exec (.abortChannel b) s = .next t ∧ s.Ends (s.answer .badValue []) t) ∧
    (∀ (i : Instr) (t : State) (c : Chan), i.isRequest = true → exec i s = .next t → (s.chan c).abortPause = true →
      (t.chan c).abortPause = false ∧ consider c t = t)

/-! ## The part as a whole -/

/-- R158, R180: SET CLASS writes the row of its precedence, the retry limit brought into 1..15 and the base wait to at
most 15, and answers the row as stored; a precedence over 7 is refused BAD_VALUE and the table does not change. -/
def Obligations.SetClassWritesRow : Prop :=
  ∀ (s : State) (b l w : Byte),
    (∀ p : Fin 8, b.toNat = p.val →
      ∃ t, exec (.setClass b l w) s = .next t ∧
        ({ s with classes := s.classes.set p.val ⟨min 15 (max 1 l.toNat), min 15 w.toNat⟩ }.answer .done
          [b, be8 (min 15 (max 1 l.toNat)), be8 (min 15 w.toNat)]).Turned t) ∧
    (8 ≤ b.toNat → ∃ t, exec (.setClass b l w) s = .next t ∧ s.Ends (s.answer .badValue []) t)

/-- R181, R82, R60: an accepted SET OWN writes each field that its mask gives, the tuning fields clamped, keeps the
rest, leaves the thresholds in order, tests congestion, sweeps when the default route differs, and answers the whole
record. R181: SET OWN is refused BAD_VALUE for a given call that is neither empty nor valid or that a record holds, a
given default route that is out of range or empty, or a given mode that is neither on nor off; and WRONG_STATE for a
call that differs from the present one while any channel is enabled. -/
def Obligations.SetOwnByMask : Prop :=
  (∀ (s : State) (p : OwnBlock) (o : OwnStation), s.givenOwn p = some o →
      (o.call = s.own.call ∨ ∀ c, (s.chan c).enabled = false) →
      o.Ordered ∧
      o.enterEntries = min 255 (if p.mask.getLsbD 2 then p.enterEntries.toNat else s.own.enterEntries) ∧
      o.enterBlocks = min 2047 (if p.mask.getLsbD 3 then p.enterBlocks.toNat else s.own.enterBlocks) ∧
      o.leaveEntries = min 256 (max o.enterEntries
        (if p.mask.getLsbD 4 then p.leaveEntries.toNat else s.own.leaveEntries)) ∧
      o.leaveBlocks = min 2048 (max o.enterBlocks
        (if p.mask.getLsbD 5 then p.leaveBlocks.toNat else s.own.leaveBlocks)) ∧
      (p.mask.getLsbD 0 = false → o.call = s.own.call) ∧
      (p.mask.getLsbD 1 = false → o.defaultRoute = s.own.defaultRoute) ∧
      o.holdTime = (if p.mask.getLsbD 6 then max 1 p.holdTime.toNat else s.own.holdTime) ∧
      (o.holdCutoff.val = if p.mask.getLsbD 7 then min 7 p.holdCutoff.toNat else s.own.holdCutoff.val) ∧
      (p.mask.getLsbD 8 = false → o.reholdMode = s.own.reholdMode) ∧
      (p.mask.getLsbD 9 = false → o.releaseMode = s.own.releaseMode) ∧
      o.reholdLead = (if p.mask.getLsbD 10 then max 1 p.reholdLead.toNat else s.own.reholdLead) ∧
      o.fullBackoff = (if p.mask.getLsbD 11 then max 1 p.fullBackoff.toNat else s.own.fullBackoff) ∧
      (p.mask.getLsbD 0 = true → (∀ x ∈ p.call.toList, x = 0x20) ∧ o.call = [] ∨ parseCall p.call.toList = some o.call) ∧
      (p.mask.getLsbD 1 = true → (p.defaultRoute = 0xFF ∧ o.defaultRoute = none) ∨
        ∃ i, o.defaultRoute = some i ∧ i.val = p.defaultRoute.toNat) ∧
      (p.mask.getLsbD 8 = true → (o.reholdMode = true ↔ p.reholdMode = 1)) ∧
      (p.mask.getLsbD 9 = true → (o.releaseMode = true ↔ p.releaseMode = 1)) ∧
      ∃ t, exec (.setOwn p) s = .next t ∧ t.own = o ∧ t.response = ⟨.done, o.bytes⟩ ∧
        let v := testCongestion { s with own := o }
        ((if o.defaultRoute = s.own.defaultRoute then v else sweep v).answer .done o.bytes).Turned t) ∧
  (∀ (s : State) (p : OwnBlock),
      ((p.mask.getLsbD 0 = true ∧ (∃ x ∈ p.call.toList, x ≠ 0x20) ∧
          (parseCall p.call.toList = none ∨ ∃ i st, s.station i = some st ∧ parseCall p.call.toList = some st.call)) ∨
        (p.mask.getLsbD 1 = true ∧ p.defaultRoute ≠ 0xFF ∧
          (64 ≤ p.defaultRoute.toNat ∨ ∀ i : Index, p.defaultRoute.toNat = i.val → s.station i = none)) ∨
        (p.mask.getLsbD 8 = true ∧ 2 ≤ p.reholdMode.toNat) ∨ (p.mask.getLsbD 9 = true ∧ 2 ≤ p.releaseMode.toNat) →
        ∃ t, exec (.setOwn p) s = .next t ∧ s.Ends (s.answer .badValue []) t) ∧
      (∀ o c, s.givenOwn p = some o → o.call ≠ s.own.call → (s.chan c).enabled = true →
        ∃ t, exec (.setOwn p) s = .next t ∧ s.Ends (s.answer .wrongState []) t))

/-- R183, R182: READ STATUS answers the status record as it stands, the flags as they stood, and clears every
status-change flag in the same act; it touches no changed flag, no entry, no collection and no exchange of its own. R22:
changed pending is true exactly while some entry's changed flag is yes. R184: ATTN is asserted exactly while some entry's
changed flag is yes or a status-change flag is set. -/
def Obligations.ReadStatusAndAttn : Prop :=
  (∀ s : State, ∃ t, exec .readStatus s = .next t ∧ s.Ends (s.clearFlags.answer .done s.statusRecord) t ∧
      t.response = ⟨.done, s.statusRecord⟩ ∧ t.congestionChanged = false ∧ t.reachChanged = false ∧
      (∀ c, (t.chan c).jamChanged = false)) ∧
  (∀ s : State, (∀ c, s.clearFlags.chan c = { s.chan c with jamChanged := false }) ∧
      { s.clearFlags with congestionChanged := s.congestionChanged, reachChanged := s.reachChanged,
                          channels := s.channels } = s) ∧
  (∀ s : State, s.changedPending = true ↔ ∃ h, (s.entry h).changed = true) ∧
  (∀ s : State, s.attn = true ↔ (∃ h, (s.entry h).changed = true) ∨ s.congestionChanged = true ∨
      s.reachChanged = true ∨ ∃ c, (s.chan c).jamChanged = true)

/-- R170: SET CLOCK of a second within 0..86,399 sets the clock to it and its millisecond to 0 and touches no other count;
a second above is refused BAD_VALUE. R170, R172, R173, R174: each window is re-evaluated; where that is a close on an
enabled channel a STAGED exchange is withdrawn, no other exchange is touched, and the considerations follow, when no abort
pause stands. (With a window event of an earlier clock second still waiting, that one is taken first: note 2.) READ CLOCK
answers second, millisecond and counter as they stand. -/
def Obligations.ClockSetAndRead : Prop :=
  ∀ (s : State) (n : Quad),
    (n.toNat ≤ 86399 → ∃ t, exec (.setClock n) s = .next t ∧ t.response = ⟨.done, []⟩ ∧
      t.time = { s.time with clockSecond := n.toNat, clockMs := 0 } ∧ t.stations = s.stations ∧ t.own = s.own ∧
      t.classes = s.classes ∧ (∀ k, (s.entry k).SameMessage (t.entry k)) ∧ (∀ k, ¬ s.Waits k → t.entry k = s.entry k)) ∧
    (n.toNat ≤ 86399 → (∀ c, (s.chan c).windowDue = none) →
      let closes := fun c => (s.chan c).enabled = true ∧
        windowEvent (s.window c) ((s.chan c).settings.window n.toNat 0) = some .closed
      ∃ u t : State, exec (.setClock n) s = .next t ∧ u.Turned t ∧
        ((∀ c, (s.chan c).abortPause = false) → t = conclude u) ∧
        (∀ c h w x, closes c → (s.chan c).engine = .staged h w x → (u.chan c).engine = .idle ∧
          (s.HeldAlone c h → u.Returns h (s.entry h) .withdrawn)) ∧
        (∀ c, (closes c → ∀ h w x, (s.chan c).engine ≠ .staged h w x) → (u.chan c).engine = (s.chan c).engine) ∧
        (∀ k, (∀ c w x, closes c → (s.chan c).engine ≠ .staged k w x) → u.entry k = s.entry k)) ∧
    (86399 < n.toNat → ∃ t, exec (.setClock n) s = .next t ∧ s.Ends (s.answer .badValue []) t) ∧
    (∃ t, exec .readClock s = .next t ∧
      s.Ends (s.answer .done (be32 s.time.clockSecond ++ be16 s.time.clockMs ++ quadBytes s.time.counter)) t)

/-- R172, R162: the event that a re-evaluation of a window gives, from the station clock just before (second c,
millisecond m) and just after (n, k): open when it was closed and is open, or when it stays open with more time
remaining; close when it was open and is closed; none otherwise, and none without a window. R169, R172: a clock second
raises the station clock's second, from 86,399 to 0, with millisecond 0, and gives each channel the window event of its
re-evaluation; it changes nothing else. The model's choice (note 2): CLOCK_SECOND is a command that a mark left by the
millisecond advance lets act, the event is left on the channel as a mark that its own command takes, and where SET CLOCK came
first the advance that was left counts one millisecond. -/
def Obligations.ClockSecondAndWindows : Prop :=
  (∀ (g : Settings) (c m n k : Nat), g.period ≠ 0 → g.offset < g.period → g.length ≤ g.period → m ≤ 999 → k ≤ 999 →
      let e := (c + g.period - g.offset) % g.period
      let e' := (n + g.period - g.offset) % g.period
      (g.length ≤ e → e' < g.length → windowEvent (g.window c m) (g.window n k) = some .opened) ∧
      (e < g.length → g.length ≤ e' → windowEvent (g.window c m) (g.window n k) = some .closed) ∧
      (e < g.length → e' < g.length → e' * 1000 + k < e * 1000 + m →
        windowEvent (g.window c m) (g.window n k) = some .opened) ∧
      (e < g.length → e' < g.length → e * 1000 + m ≤ e' * 1000 + k → windowEvent (g.window c m) (g.window n k) = none) ∧
      (g.length ≤ e → g.length ≤ e' → windowEvent (g.window c m) (g.window n k) = none)) ∧
  (∀ (g : Settings) (c m n k : Nat), g.period = 0 → windowEvent (g.window c m) (g.window n k) = none) ∧
  (∀ s : State, s.time.clockDue = true → s.time.clockMs = 999 → s.time.clockSecond ≤ 86399 →
      let n := (s.time.clockSecond + 1) % 86400
      ∃ t, exec .clockSecond s = .next t ∧
        t.time = { s.time with clockSecond := n, clockMs := 0, clockDue := false } ∧
        (∀ c, (s.chan c).windowDue = none → t.chan c = { s.chan c with
          windowDue := windowEvent (s.window c) ((s.chan c).settings.window n 0) }) ∧
        { t with time := s.time, channels := s.channels } = s) ∧
  (∀ s : State, (s.time.clockDue = false → exec .clockSecond s = .next s) ∧
      (s.time.clockDue = true → s.time.clockMs ≠ 999 → exec .clockSecond s =
        .next { s with time := { s.time with clockMs := s.time.clockMs + 1, clockDue := false } }))

/-- R177, R176: a read frame changes nothing; a bad frame replaces the response buffer and changes nothing else. R175,
R177: while a request frame is clocked SPDO carries 00h, and in a read frame, from the byte after the read code on, the
result, the two bytes of the data length, the data, and 00h beyond the end (00h beside the read code itself, and for every
byte of a selection that RESET discards, is the model's choice: note 7). R175, R176: what a selection is. One that RESET discards, or with no whole byte, is none; one that begins
with the read code is a read frame; any other is a request with its parameters, when it is, to the byte, the request frame of
a command that a frame can carry, and a bad frame otherwise. -/
def Obligations.ReadFrameAndBadFrame : Prop :=
  (∀ s : State, exec .readFrame s = .next s ∧ exec .badFrame s = .next { s with response := ⟨.badFrame, []⟩ }) ∧
  (∀ (s : State) (x : Selection) (code : Byte) (rest : List Byte), x.bytes = code :: rest →
      (code ≠ 0xA5 → s.drives x = List.replicate (rest.length + 1) 0) ∧
      (code = 0xA5 → x.resetAsserted = false →
        let answer := s.response.result.code :: (be16 s.response.data.length ++ s.response.data)
        s.drives x = 0 :: (List.range rest.length).map fun i => answer.getD i 0) ∧
      (x.resetAsserted = true → s.drives x = List.replicate (rest.length + 1) 0)) ∧
  (∀ x : Selection,
      (x.resetAsserted = true ∨ x.bytes = [] → decodeSelection x = none) ∧
      (∀ code rest, x.resetAsserted = false → x.bytes = code :: rest →
        (code = 0xA5 → decodeSelection x = some .readFrame) ∧
        (code ≠ 0xA5 →
          (∀ i : Instr, x.extraBits = 0 → i.isRequest = true → i.wellFormed = true → x.bytes = encodeRequest i →
            decodeSelection x = some i) ∧
          ((∀ i : Instr, i.isRequest = true → i.wellFormed = true → x.bytes = encodeRequest i → x.extraBits ≠ 0) →
            decodeSelection x = some .badFrame) ∧
          (x.extraBits ≠ 0 ∨ rest.length < 2 ∨ 1040 < (halfAt rest 0).toNat ∨
              rest.length ≠ (halfAt rest 0).toNat + 2 → decodeSelection x = some .badFrame))))

/-- R108, R186, R151, R90: CLEAR CHANNELS, as the part stands before the considerations that it brings. On every enabled
channel: the exchange is ended, the transmitter cut, the receiver in HUNT and the sampler in LINE_RECOVERY, silence, re-hold,
pause and gate counters 0, JAMMED no with JAM_CHANGED set if it was JAMMED or had reached the jam threshold, busy as the
inputs stand, the beacon counting from now; of its control frames there are none but, while the part is CONGESTED, an own
HOLD with the time and cutoff in force, or, when the clear has ended congestion and release mode is on, an own release; it
stays enabled with its settings. R25, R32: every reserved entry is FREE and its blocks are back, which may end congestion.
R39, R40, R41, R45: each exchange leaves its entry as its phase, a recorded verdict and a cancel pending have it (a STAGED
one that a JAMMED just reached withdraws first apart). Every other entry is kept but for a sweep's routing, and wholly when it
neither waits nor stands in an exchange; a disabled channel keeps all of its state. With no channel enabled nothing but the
answer comes about. The directory, the class table, the own-station record and the Time Base are kept. -/
def Obligations.ClearChannelsClears : Prop :=
  ∀ s : State,
    let held := [(0 : Chan), 1, 2, 3].filterMap fun c =>
      if (s.chan c).enabled then (s.chan c).receiver.reservation else none
    ∃ u t : State, exec .clearChannels s = .next t ∧ u.Turned t ∧ u.response = ⟨.done, []⟩ ∧ s.SameTables u ∧
      ((∀ c, (s.chan c).enabled = false → (s.chan c).abortPause = false) → t = conclude u) ∧
      (∀ c, (s.chan c).enabled = true →
        let x := s.chan c
        let y := { x with
          sampler := .lineRecovery, receiver := .hunt, clearTime := 0, busyLength := 0, jammed := false,
          jamChanged := x.jamChanged || x.jammed || x.jamReached, owed := none, silenceRemaining := 0,
          silenceCutoff := 0, silenceEndDue := false, rehold := none, engine := .idle, abortPause := false,
          transmitter := x.transmitter.cut x.settings,
          beacon := if x.settings.beaconInterval = 0 then .off else .counting s.time.counter,
          control := if u.congestion = Congestion.congested then [.ownHold s.own.holdTime s.own.holdCutoff]
            else if s.congestion = Congestion.congested ∧ s.own.releaseMode = true then [.ownHold 0 s.own.holdCutoff] else [] }
        u.chan c = { y with busy := y.busyNow, queue := (u.chan c).queue }) ∧
      (∀ c, (s.chan c).enabled = false → (s.chan c).SameLine (t.chan c)) ∧
      (∀ c h, (s.chan c).enabled = true → s.HeldAlone c h → h ∉ held →
        ((∀ d, (s.chan d).jamReached = false) ∨ ∀ w x, (s.chan c).engine ≠ .staged h w x) →
        u.LeftExchange (s.chan c).engine h (s.entry h)) ∧
      (∀ h ∈ held, ¬ s.Waits h → t.entry h = Entry.free) ∧
      u.freeEntries = s.freeEntries + held.length ∧
      (held.Nodup → u.freeBlocks = s.freeBlocks + (held.map fun h => (s.entry h).blockCount).sum) ∧
      (held = [] → u.congestion = s.congestion ∧ u.congestionChanged = s.congestionChanged) ∧
      (held ≠ [] → s.congestion = .congested → s.own.Ordered → s.own.leaveEntries ≤ u.freeEntries →
        s.own.leaveBlocks ≤ u.freeBlocks → u.congestion = .normal ∧ u.congestionChanged = true) ∧
      (s.congestion = .congested → u.freeEntries < s.own.leaveEntries ∨ u.freeBlocks < s.own.leaveBlocks →
        u.congestion = .congested) ∧
      (∀ k, k ∉ held → (s.entry k).SameMessage (u.entry k) ∧ (¬ s.Waits k → t.entry k = s.entry k)) ∧
      ((∀ c, (s.chan c).enabled = false) → s.Ends (s.answer .done []) t)

/-- R110, R166, R168, R169: power-on and the assertion of the RESET pin put every piece of state to its reset value,
with the radio released at once. The CD levels are inputs and stay (note 6). Tables 1-4, 3-2, 3-6, 4-5, 5-2, 7-5,
8-3, 10-2, 10-3: the state after reset, at the values that the spec gives, the own-station record, the settings of every
channel, the class rows and the dividers among them. R185, R110: CLEAR ALL leaves every piece of state as
after power-on, except that the answer is DONE and that a break runs on, or begins where an enabled channel was
sending, at the divisor in force. -/
def Obligations.ResetsAndResetValues : Prop :=
  (∀ s : State, ∃ t, exec .powerOn s = .next t ∧ exec .resetPin s = .next t ∧
      { t with channels := State.reset.channels, freeCount := 0, pending := [] } = State.reset ∧
      ∀ c, t.chan c = { Channel.reset with cdPin := (s.chan c).cdPin }) ∧
  ((∀ h, State.reset.entry h = Entry.free ∧ (State.reset.entry h).state = .free ∧ (State.reset.entry h).changed = false) ∧
    (∀ i, State.reset.station i = none) ∧
    (∀ c, let x := State.reset.chan c
      (x.enabled = false ∧ x.sampler = .stopped ∧ x.busy = false ∧ x.clearTime = 0 ∧ x.busyLength = 0 ∧
        x.jammed = false ∧ x.jamChanged = false) ∧
      (x.receiver.phase = .hunt ∧ x.receiver.kind = none ∧ x.receiver.position = 0 ∧ x.receiver.header = [] ∧
        x.receiver.bodyRemaining = 0 ∧ x.receiver.reservation = none ∧ x.receiver.owed = none ∧ x.receiver.gap = 0) ∧
      (x.control = [] ∧ x.owed = none ∧ x.silenceRemaining = 0 ∧ x.silenceCutoff = 0 ∧ x.rehold = none ∧
        x.transmitter = .idle ∧ x.transmitter.keyed = false ∧ x.txd = true ∧ x.beacon = .off ∧ x.engine = .idle ∧
        x.abortPause = false ∧ x.queue = []) ∧
      x.settings = { divisor := 63, parity := .none, twoStops := false, source := .either, polarity := .activeHigh,
                     jamLimit := 30, keyUpField := 30, turnField := 20, slotField := 10, stagger := 0, retryBase := 10,
                     beaconInterval := 600, period := 0, offset := 0, length := 0 }) ∧
    State.reset.own = { call := [], defaultRoute := none, enterEntries := 16, enterBlocks := 128, leaveEntries := 32,
                        leaveBlocks := 256, holdTime := 600, holdCutoff := 4, reholdMode := true, releaseMode := true,
                        reholdLead := 50, fullBackoff := 300 } ∧
    State.reset.classes.toList.map (fun r => (r.retryLimit, r.baseWait)) =
      [(15, 0), (12, 1), (10, 1), (8, 2), (6, 2), (5, 3), (4, 3), (3, 4)] ∧
    State.reset.response = ⟨.nothing, []⟩ ∧ State.reset.congestionChanged = false ∧ State.reset.reachChanged = false ∧
    State.reset.attn = false ∧ State.reset.freeEntries = 256 ∧ State.reset.freeBlocks = 2048 ∧
    State.reset.ownSerial = 1 ∧ State.reset.accessionCounter = 0 ∧ State.reset.congestion = .normal ∧
    State.reset.unrouted = [] ∧ State.reset.time.counter = 0 ∧ State.reset.time.quantumDivider = 0 ∧
    State.reset.time.secondDivider = 0 ∧ State.reset.time.clockSecond = 0 ∧ State.reset.time.clockMs = 0) ∧
  (∀ s : State, ∃ t, exec .clearAll s = .next t ∧ t.response = ⟨.done, []⟩ ∧
      { t with response := State.reset.response, channels := State.reset.channels, freeCount := 0, pending := [] } =
        State.reset ∧
      ∀ c, t.chan c = { Channel.reset with
        cdPin := (s.chan c).cdPin, transmitter := (s.chan c).transmitter.cut (s.chan c).settings })

/-! ## The receive line -/

/-- R95, R96, R97, R99: the sampler's own moves. A start bit in LINE_IDLE begins a character, after a framing error
only once a mark has been seen; a short pulse goes back to LINE_IDLE; 16 marks end LINE_RECOVERY unless the radio is
keyed. R95: each bit of a character is the majority of its samples 7, 8 and 9. R94, R96, R97: what the sampler hands over.
With the stop bit at mark and the parity right it is the code; a break when the stop bit, every data bit and the parity bit,
if there is one, read space; a character error otherwise. -/
def Obligations.SamplerMoves : Prop :=
  (∀ (s : State) (c : Chan), (s.chan c).enabled = true →
      (∀ a m, (s.chan c).sampler = .lineIdle a → (a = true → m = true) →
        exec (.startBit c m) s = .next (s.setChan c { s.chan c with sampler := .character })) ∧
      ((s.chan c).sampler = .lineIdle true → exec (.startBit c false) s = .next s) ∧
      (∀ s7 s8 s9 : Bool, (s.chan c).sampler = .character →
        exec (.shortPulse c s7 s8 s9) s =
          .next (if 2 ≤ s7.toNat + s8.toNat + s9.toNat then s.setChan c { s.chan c with sampler := .lineIdle false }
            else s)) ∧
      ((s.chan c).sampler = .lineRecovery → (s.chan c).transmitter.keyed = false →
        exec (.lineRecoveryEnd c) s = .next (s.setChan c { s.chan c with sampler := .lineIdle false })) ∧
      ((s.chan c).transmitter.keyed = true → exec (.lineRecoveryEnd c) s = .next s)) ∧
  (∀ x : Sampled,
      let two := fun a b d : Bool => decide (2 ≤ a.toNat + b.toNat + d.toNat)
      (∀ i, i < 8 → (voted x).data.getLsbD i =
        two (x.sample7.data.getLsbD i) (x.sample8.data.getLsbD i) (x.sample9.data.getLsbD i)) ∧
      (voted x).parityBit = two x.sample7.parityBit x.sample8.parityBit x.sample9.parityBit ∧
      (voted x).stopBit = two x.sample7.stopBit x.sample8.stopBit x.sample9.stopBit) ∧
  (∀ (p : Parity) (x : CharBits),
      let ones := ((List.range 8).filter fun i => x.data.getLsbD i).length + x.parityBit.toNat
      let right := (p = .even → ones % 2 = 0) ∧ (p = .odd → ones % 2 = 1)
      let low := x.data = 0 ∧ (p ≠ .none → x.parityBit = false)
      (x.stopBit = true → right → handover p x = .good x.data) ∧
      (x.stopBit = true → ¬ right → handover p x = .error) ∧
      (x.stopBit = false → low → handover p x = .brk) ∧
      (x.stopBit = false → ¬ low → handover p x = .error))

/-- R95, R96: a good character handed over, with no expiry of the gap limit and no JAMMED of the line waiting: the sampler
is in LINE_IDLE, the frame receiver takes the code that the votes give, and the gate, the considerations and the arbiters
follow. R117: taken in HUNT, the SOH starts a frame (HEAD, position 1, gap 0, no header character) and any other code leaves
the receiver in HUNT. R125: with the gap count of a frame over the gap limit, the frame is damaged first and the character is
taken in HUNT. -/
def Obligations.SohStartsFrame : Prop :=
  ∀ (s : State) (c : Chan) (x : Sampled), (s.chan c).enabled = true → (s.chan c).sampler = .character →
    handover (s.chan c).settings.parity (voted x) = .good (voted x).data →
    ((s.chan c).gapOver = false → (s.chan c).jamReached = false →
      exec (.goodCharacter c x) s = .next (conclude (gate c (receiveCharacter c (voted x).data
        (s.setChan c { s.chan c with sampler := .lineIdle false }))))) ∧
    ((s.chan c).receiver = .hunt ∨
        (s.chan c).receiver.phase ≠ .hunt ∧ max 1 ((s.chan c).settings.airTime 16) < (s.chan c).receiver.gap →
      ∃ t, exec (.goodCharacter c x) s = .next t ∧ (t.chan c).sampler = .lineIdle false ∧
        ((voted x).data = 0x01 → (t.chan c).receiver = { Receiver.hunt with phase := .head, position := 1 }) ∧
        ((voted x).data ≠ 0x01 → (t.chan c).receiver = .hunt) ∧
        ((s.chan c).receiver.reservation = none → ∀ d, d ≠ c → (s.chan d).SameLine (t.chan d)) ∧
        (∀ h, (s.chan c).receiver.reservation = some h → ¬ s.Waits h → t.entry h = Entry.free) ∧
        (∀ k, ¬ s.Waits k → (s.chan c).receiver.reservation ≠ some k → t.entry k = s.entry k) ∧
        s.SameTables t ∧ t.response = s.response)

/-- R16, R113, R114, R122, R123: the body characters are 20h to 7Eh and 0Ah, the digits 0 to 9, the check characters 0 to 9
and A to F. R117, R118, R122, R124: what the frame receiver makes of a good character. In HUNT an SOH starts a frame and any other
code is none. In HEAD a character joins the header, its kind letter (T, A, H or B) the first of it: the sum and the position
move on and the gap is 0; at the header's length the header is complete, and a first letter that names no kind damages the
frame. In BODY a body character joins the text of the entry reserved, when there is one; the sum, the position and the body
remaining move on, the gap is 0, and the last one brings TAIL; any other character damages the frame. An SOH in HEAD, BODY or
TAIL damages the frame and starts another. R124, R32: damage leaves the receiver in HUNT and an entry reserved FREE, its
blocks back, with the test of congestion. -/
def Obligations.HeaderAndBodyCollected : Prop :=
  (∀ b : Byte,
      (isBodyChar b = true ↔ 0x20 ≤ b.toNat ∧ b.toNat ≤ 0x7E ∨ b.toNat = 0x0A) ∧
      (isDigit b = true ↔ 0x30 ≤ b.toNat ∧ b.toNat ≤ 0x39) ∧
      (isCheckChar b = true ↔ 0x30 ≤ b.toNat ∧ b.toNat ≤ 0x39 ∨ 0x41 ≤ b.toNat ∧ b.toNat ≤ 0x46)) ∧
  (∀ (s : State) (c : Chan) (b : Byte),
      let r := (s.chan c).receiver
      let take := fun n : Receiver => s.setChan c { s.chan c with receiver := n }
      (r.phase = .hunt → b ≠ 0x01 → receiveCharacter c b s = s) ∧
      (r.phase = .hunt → b = 0x01 →
        receiveCharacter c b s = take { Receiver.hunt with phase := .head, position := 1 }) ∧
      (r.phase ≠ .hunt → b = 0x01 → receiveCharacter c b s = (damage c s).setChan c
        { (damage c s).chan c with receiver := { Receiver.hunt with phase := .head, position := 1 } }) ∧
      (∀ k, r.phase = .head → b ≠ 0x01 →
        (r.header = [] ∧ (b, k) ∈ [((0x54 : Byte), FrameKind.traffic), (0x41, .receipt), (0x48, .hold), (0x42, .beacon)] ∨
          r.header ≠ [] ∧ r.kind = some k) →
        let n := { r with
          header := r.header ++ [b], sum := r.sum + b.setWidth 16, position := r.position + 1, gap := 0, kind := some k }
        let full := match k with | .traffic => 42 | .receipt => 31 | .hold => 24 | .beacon => 18
        (r.position + 1 ≠ full → receiveCharacter c b s = take n) ∧
        (r.position + 1 = full → receiveCharacter c b s = completeHeader c n s)) ∧
      (r.phase = .head → r.header = [] → b ≠ 0x01 → b ≠ 0x54 → b ≠ 0x41 → b ≠ 0x48 → b ≠ 0x42 →
        receiveCharacter c b s = damage c s) ∧
      (r.phase = .body → b ≠ 0x01 → isBodyChar b = false → receiveCharacter c b s = damage c s) ∧
      (r.phase = .body → isBodyChar b = true →
        let n := { r with
          sum := r.sum + b.setWidth 16, position := r.position + 1, gap := 0, bodyRemaining := r.bodyRemaining - 1,
          phase := if r.bodyRemaining ≤ 1 then .tail else .body }
        (r.reservation = none → receiveCharacter c b s = take n) ∧
        (∀ h, r.reservation = some h → receiveCharacter c b s =
          (take n).setEntry h { s.entry h with text := (s.entry h).text ++ [b] }))) ∧
  (∀ (s : State) (c : Chan),
      let cleared := s.setChan c { s.chan c with receiver := .hunt }
      ((s.chan c).receiver.reservation = none → damage c s = cleared) ∧
      (∀ h, (s.chan c).receiver.reservation = some h → damage c s = testCongestion
        { cleared.setEntry h Entry.free with
          freeEntries := s.freeEntries + 1, freeBlocks := s.freeBlocks + (s.entry h).blockCount }))

/-- R112, R113, R119: a header is valid exactly when each field of its kind is, at its positions (the SOH at 1): a call is
one to eight of A to Z, 0 to 9 and "/", padded with spaces, a to-call may be the all-stations address, a digit field holds
digits and a value in range, a verdict letter is A, D, N or F. R119, R121: at header completion an invalid header damages
the frame; a TRAFFIC header to another station goes on to BODY, or to TAIL with an empty body, without a decision, and a
header of another kind to TAIL. R120, R14, R84: the decision at the end of a TRAFFIC header to the own call. A frame from the
own call is followed without reservation; a key that is held is owed DUPLICATE; under congestion a precedence at or above the
own cutoff is owed FULL; without an entry or enough blocks it is owed FULL; else an entry is reserved RECEIVING with the
header's fields. R83, R87: the reservation tests congestion; nothing else changes by it but the receiver and what the
allocation takes. -/
def Obligations.TrafficDecided : Prop :=
  (∀ (s : State) (c : Chan) (r : Receiver) (p : Fin 8) (key : Key) (d : Call) (n : Nat) (from_ : Call),
    let r1 := { r with phase := if n = 0 then .tail else .body, bodyRemaining := n }
    let t := decideTraffic c r p key d n from_ s
    let held := ∃ h, (s.entry h).state ≠ .free ∧ (s.entry h).key = key
    let refused := s.congestion = .congested ∧ s.own.holdCutoff ≤ p
    (from_ = s.own.call → t = s.setChan c { s.chan c with receiver := r1 }) ∧
    (from_ ≠ s.own.call → held → t = s.setChan c { s.chan c with receiver := { r1 with owed := some .duplicate } }) ∧
    (from_ ≠ s.own.call → ¬ held → refused → t = s.setChan c { s.chan c with receiver := { r1 with owed := some .full } }) ∧
    (from_ ≠ s.own.call → ¬ held → ¬ refused → s.allocate (s.arrivingEntry p key d n from_) = none →
      t = s.setChan c { s.chan c with receiver := { r1 with owed := some .full } }) ∧
    (∀ h u, from_ ≠ s.own.call → ¬ held → ¬ refused → s.allocate (s.arrivingEntry p key d n from_) = some (h, u) →
      (t.chan c).receiver = { r1 with reservation := some h } ∧
      t.entry h = { Entry.free with
        state := .receiving, role := if d = s.own.call then .localDelivery else .relay, key := key, precedence := p,
        destination := d, filedTime := s.time.clockSecond, textLength := n, receivedFrom := some from_,
        accession := s.accessionCounter, blockCount := (n + 31) / 32 } ∧
      t.freeEntries = s.freeEntries - 1 ∧ t.freeBlocks = s.freeBlocks - (n + 31) / 32 ∧
      t = testCongestion (u.setChan c { u.chan c with receiver := { r1 with reservation := some h } }) ∧
      (∀ k, k ≠ h → t.entry k = s.entry k))) ∧
  (∀ (s : State) (c : Chan) (r : Receiver),
      let on := fun n : Nat => s.setChan c { s.chan c with
        receiver := { r with phase := if n = 0 then .tail else .body, bodyRemaining := n } }
      (r.parsed = none → completeHeader c r s = damage c s) ∧
      (∀ to_ from_ p key d n, r.parsed = some ⟨to_, from_, .traffic p key d n⟩ →
        (to_ = .station s.own.call → completeHeader c r s = decideTraffic c r p key d n from_ s) ∧
        (to_ ≠ .station s.own.call → completeHeader c r s = on n)) ∧
      (∀ x, r.parsed = some x → (∀ p key d n, x.fields ≠ .traffic p key d n) → completeHeader c r s = on 0)) ∧
  (∀ (k : FrameKind) (h : List Byte) (x : Header),
      let at_ := fun a b : Nat => (h.drop (a - 2)).take (b + 1 - a)
      let number := fun (f : List Byte) (lo hi n : Nat) => (∀ b ∈ f, isDigit b = true) ∧
        n = f.foldl (fun m b => 10 * m + (b.toNat - 0x30)) 0 ∧ lo ≤ n ∧ n ≤ hi
      parseHeader k h = some x ↔ parseAddress (at_ 3 10) = some x.toCall ∧ parseCall (at_ 11 18) = some x.fromCall ∧
        match k, x.fields with
        | .traffic, .traffic p key d n => number (at_ 19 19) 0 7 p.val ∧ parseCall (at_ 20 27) = some key.call ∧
            number (at_ 28 31) 1 9999 key.serial ∧ parseCall (at_ 32 39) = some d ∧ number (at_ 40 42) 0 960 n
        | .receipt, .receipt key v => parseCall (at_ 19 26) = some key.call ∧ number (at_ 27 30) 1 9999 key.serial ∧
            (at_ 31 31, v) ∈ [([(0x41 : Byte)], Verdict.accept), ([0x44], .duplicate), ([0x4E], .noroute), ([0x46], .full)]
        | .hold, .hold t q => number (at_ 19 23) 0 65535 t ∧ number (at_ 24 24) 0 7 q.val
        | .beacon, .beacon => True
        | _, _ => False) ∧
  (∀ (f : List Byte) (d : Call),
      (parseCall f = some d ↔ 1 ≤ d.length ∧ d.length ≤ 8 ∧
        (∀ b ∈ d, 0x41 ≤ b ∧ b ≤ 0x5A ∨ 0x30 ≤ b ∧ b ≤ 0x39 ∨ b = 0x2F) ∧ f = d ++ List.replicate (8 - d.length) 0x20) ∧
      (parseAddress f = some (.station d) ↔ parseCall f = some d) ∧
      (parseAddress f = some .all ↔ f = 0x2A :: List.replicate 7 0x20))

/-- R30, R31, R127, R128: a reserved TRAFFIC frame that completes. A LOCAL entry becomes ARRIVED with its changed flag
set, a RELAY entry with a route READY and placed, and ACCEPT is owed; a RELAY entry without a route is released and
NOROUTE is owed. Without a reservation the verdict owed since the header is queued, and no entry is touched. R128, R129: an
owed receipt joins the control frames when fewer than four wait, and is lost otherwise. (That an own release which the
released reservation brings joins the queue before the NOROUTE is the model's choice, where R129 leaves the order open:
note 14.) R123: in TAIL four check characters
are taken, and then EOT with the check equal to the sum completes the frame; anything else damages it. R126: at completion
the record of the sender is refreshed first; a frame neither to the own call nor to all stations, or from the own call, goes
no further; the receiver is in HUNT. R127: a frame handed on is applied by its kind: TRAFFIC and RECEIPT when to the own
call, HOLD always, a beacon not at all. (A loss of the sender that still waits is taken before the refresh, its considerations only
at the end of the event: the model's choice, note 23. The clauses on the refreshed record are about a sender with no loss
waiting.) -/
def Obligations.ArrivalByRole : Prop :=
  (∀ (s : State) (c : Chan) (r : Receiver) (from_ : Call) (key : Key) (h : Handle), r.reservation = some h →
    (s.chan c).control.length < 4 →
    let t := applyTraffic c r from_ key s
    let e := s.entry h
    (e.role = .localDelivery → t.entry h = { e with state := .arrived, changed := true } ∧
      (t.chan c).control = (s.chan c).control ++ [.receipt from_ key .accept]) ∧
    (∀ i, e.role = .relay → s.route e = some i →
      t.entry h = { e with state := .ready, nextHop := some i, notBefore := none, cancelPending := none } ∧
      h ∈ t.collection (t.collectionFor (some i)) ∧
      (t.chan c).control = (s.chan c).control ++ [.receipt from_ key .accept]) ∧
    (e.role = .relay → s.route e = none → t.entry h = Entry.free ∧ t.freeEntries = s.freeEntries + 1 ∧
      t.freeBlocks = s.freeBlocks + e.blockCount ∧ t = queueReceipt from_ key .noroute c (releaseEntry h s))) ∧
  (∀ (s : State) (c : Chan) (r : Receiver) (from_ : Call) (key : Key),
      (∀ h, r.reservation = some h → (s.entry h).role = .localDelivery → applyTraffic c r from_ key s =
        queueReceipt from_ key .accept c (s.setEntry h { s.entry h with state := .arrived, changed := true })) ∧
      (∀ h i, r.reservation = some h → (s.entry h).role = .relay → s.route (s.entry h) = some i →
        applyTraffic c r from_ key s = queueReceipt from_ key .accept c (s.place h)) ∧
      (∀ v, r.reservation = none → r.owed = some v → applyTraffic c r from_ key s = queueReceipt from_ key v c s) ∧
      (r.reservation = none → r.owed = none → applyTraffic c r from_ key s = s) ∧
      ∀ v, ((s.chan c).control.length < 4 → queueReceipt from_ key v c s = s.setChan c
          { s.chan c with control := (s.chan c).control ++ [.receipt from_ key v] }) ∧
        (4 ≤ (s.chan c).control.length → queueReceipt from_ key v c s = s)) ∧
  (∀ (s : State) (c : Chan) (b : Byte), (s.chan c).receiver.phase = .tail → b ≠ 0x01 →
      let r := (s.chan c).receiver
      let t := receiveCharacter c b s
      (r.check.length < 4 → isCheckChar b = true → t = s.setChan c { s.chan c with
        receiver := { r with check := r.check ++ [b], position := r.position + 1, gap := 0 } }) ∧
      (r.check.length < 4 → isCheckChar b = false → t = damage c s) ∧
      (4 ≤ r.check.length → b = 0x04 → checkValue r.check = r.sum.toNat → t = completeFrame c s) ∧
      (4 ≤ r.check.length → b ≠ 0x04 ∨ checkValue r.check ≠ r.sum.toNat → t = damage c s)) ∧
  (∀ (s : State) (c : Chan) (x : Header), (s.chan c).receiver.parsed = some x →
      let u := refreshSender x.fromCall s
      let hunting := fun v : State => v.setChan c { v.chan c with receiver := .hunt }
      let mine := x.toCall = .all ∨ x.toCall = .station s.own.call
      (mine → x.fromCall ≠ s.own.call → completeFrame c s = hunting (applyFrame c (s.chan c).receiver x u)) ∧
      (¬ mine ∨ x.fromCall = s.own.call → completeFrame c s = hunting u) ∧
      (s.findStation x.fromCall = none → u = s) ∧
      ∀ i st, s.findStation x.fromCall = some i → s.station i = some st → st.overLimitDue = false →
        u.station i = some st.refreshed ∧ (∀ j, j ≠ i → u.station j = s.station j) ∧
        (st.refreshed.reach = st.reach → u = s.setStation i (some st.refreshed)) ∧
        (st.refreshed.reach ≠ st.reach → u.reachChanged = true)) ∧
  (∀ (s : State) (c : Chan) (r : Receiver) (x : Header),
      (∀ to_ p key d n, x.toCall = .station to_ → x.fields = .traffic p key d n →
        applyFrame c r x s = applyTraffic c r x.fromCall key s) ∧
      (∀ to_ key v, x.toCall = .station to_ → x.fields = .receipt key v →
        applyFrame c r x s = applyReceipt key v x.fromCall s) ∧
      (∀ n k, x.fields = .hold n k → applyFrame c r x s = applyHold c (decide (x.toCall = .all)) x.fromCall n k s) ∧
      (x.fields = .beacon → applyFrame c r x s = s) ∧
      (x.toCall = .all → (∀ n k, x.fields ≠ .hold n k) → applyFrame c r x s = s))

/-- R96, R97, R116, R124, R32: a character error or a break in HEAD, BODY or TAIL damages the frame: the receiver is in
HUNT, a reserved entry is FREE and its blocks are back. After a framing error the sampler waits for a mark; after a
break it is in LINE_RECOVERY. Taken in HUNT a character error or a break has no effect on the receiver, and no entry and no
count changes by it: the sampler moves in the same way, and the gate, the considerations and the arbiters follow. -/
def Obligations.ErrorDamagesFrame : Prop :=
  (∀ (s : State) (c : Chan), (s.chan c).enabled = true → (s.chan c).sampler = .character →
    (s.chan c).receiver.phase ≠ .hunt →
    let freed := fun t : State => (∀ h, (s.chan c).receiver.reservation = some h → ¬ s.Waits h →
        t.entry h = Entry.free ∧ t.freeEntries = s.freeEntries + 1 ∧
          t.freeBlocks = s.freeBlocks + (s.entry h).blockCount) ∧
      (∀ k, ¬ s.Waits k → (s.chan c).receiver.reservation ≠ some k → t.entry k = s.entry k)
    (∀ x : Sampled, handover (s.chan c).settings.parity (voted x) = .error →
      ∃ t, exec (.characterError c x) s = .next t ∧ (t.chan c).receiver = .hunt ∧
        (t.chan c).sampler = .lineIdle !(voted x).stopBit ∧ freed t ∧ s.SameTables t ∧ t.response = s.response) ∧
    (∃ t, exec (.breakReceived c) s = .next t ∧ (t.chan c).receiver = .hunt ∧
        (t.chan c).sampler = .lineRecovery ∧ freed t ∧ s.SameTables t ∧ t.response = s.response)) ∧
  (∀ (s : State) (c : Chan), (s.chan c).enabled = true → (s.chan c).sampler = .character →
    (s.chan c).receiver.phase = .hunt →
    let moved := fun (p : Sampler) (t : State) => (t.chan c).receiver = (s.chan c).receiver ∧ (t.chan c).sampler = p ∧
      (∀ k, ¬ s.Waits k → t.entry k = s.entry k) ∧ t.freeEntries = s.freeEntries ∧ t.freeBlocks = s.freeBlocks ∧
      t.congestion = s.congestion ∧ (∀ d, d ≠ c → (s.chan d).SameLine (t.chan d)) ∧ s.SameTables t ∧
      t.response = s.response ∧
      ((s.chan c).jamReached = false → t = conclude (gate c (s.setChan c { s.chan c with sampler := p })))
    (∀ x : Sampled, handover (s.chan c).settings.parity (voted x) = .error →
      ∃ t, exec (.characterError c x) s = .next t ∧ moved (.lineIdle !(voted x).stopBit) t) ∧
    (∃ t, exec (.breakReceived c) s = .next t ∧ moved .lineRecovery t))

/-- R100, R132: an enabled channel is busy when its carrier source is active, the CD pin by its polarity or the frame
receiver not in HUNT, or its radio is keyed, which it is in KEYING, SENDING and BREAK. R100, R101, R102: a change of the CD
pin. On an enabled channel busy is, at once, as the carrier source and the keying
say; where busy begins the clear time is 0, where it ends the busy length is 0 and JAMMED no. R102, R103: a busy length that
has reached the jam threshold makes the channel JAMMED before the change, with JAM_CHANGED set. -/
def Obligations.CdBeginsAndEndsBusy : Prop :=
  (∀ x : Channel,
      let cd := x.cdPin = true ↔ x.settings.polarity = .activeHigh
      let activity := x.receiver.phase ≠ .hunt
      (x.carrier = true ↔ match x.settings.source with | .cd => cd | .activity => activity | .either => cd ∨ activity) ∧
      (x.transmitter.keyed = true ↔ (∃ w n, x.transmitter = .keying w n) ∨ (∃ w f k, x.transmitter = .sending w f k) ∨
        ∃ u r k b, x.transmitter = .brk u r k b) ∧
      (x.busyNow = true ↔ x.enabled = true ∧ (x.carrier = true ∨ x.transmitter.keyed = true))) ∧
  ∀ (s : State) (c : Chan) (v : Bool), (s.chan c).enabled = true →
    ∃ t, exec (.cdInputChange c v) s = .next t ∧ (t.chan c).cdPin = v ∧
      let x := { s.chan c with cdPin := v }
      (t.chan c).busy = x.busyNow ∧
      ((s.chan c).busy = false → x.busyNow = true → (t.chan c).clearTime = 0) ∧
      ((s.chan c).busy = true → x.busyNow = false → (t.chan c).clearTime = 0 ∧ (t.chan c).busyLength = 0 ∧
        (t.chan c).jammed = false ∧
        (t.chan c).jamChanged = ((s.chan c).jamChanged || (s.chan c).jammed || (s.chan c).jamReached)) ∧
      ((s.chan c).busy = true → x.busyNow = true → (t.chan c).busyLength = (s.chan c).busyLength ∧
        (t.chan c).jammed = ((s.chan c).jammed || (s.chan c).jamReached) ∧
        (t.chan c).jamChanged = ((s.chan c).jamChanged || (s.chan c).jamReached)) ∧
      (t.chan c).settings = (s.chan c).settings ∧ (t.chan c).receiver = (s.chan c).receiver ∧
      (∀ d, d ≠ c → (s.chan d).SameLine (t.chan d)) ∧ (∀ k, ¬ s.Waits k → t.entry k = s.entry k) ∧ s.SameTables t ∧
      t.response = s.response

/-! ## The transmitter and the exchange -/

/-- R136, R135, R129, R99: key-up of a CONTROL or a BEACON claimant. The radio is keyed, KEYING with the key-up delay or
SENDING at once when that is 0; the control frame has left its queue, the due mark is cleared; busy has begun with clear
time 0; the receiver is in HUNT and the sampler in LINE_RECOVERY. R86: an own frame that is owed joins the tail of the queue
as the control frame leaves it. R99, R124, R32: a frame in reception is damaged; an entry that it reserved is FREE and its
blocks are back, and the own frames that the test of congestion then brings are queued as well. (That the head of the queue
has left it before the damage, so that an own release joins behind an own HOLD that is keyed, is the model's choice: note
22.) -/
def Obligations.KeyUpOfControlAndBeacon : Prop :=
  ∀ (s : State) (c : Chan) (w : Nat), (s.chan c).enabled = true → (s.chan c).busy = false →
    w ≤ (s.chan c).clearTime →
    let keyed := fun (t : State) (o : OnAir) =>
      (t.chan c).transmitter = (if (s.chan c).settings.keyUpField = 0 then .sending o (s.compose c o) 0
        else .keying o (10 * (s.chan c).settings.keyUpField)) ∧
      (t.chan c).busy = true ∧ (t.chan c).clearTime = 0 ∧ (t.chan c).receiver = .hunt ∧
      (t.chan c).sampler = .lineRecovery ∧ (t.chan c).settings = (s.chan c).settings ∧ s.SameTables t ∧
      (∀ k, ¬ s.Waits k → (s.chan c).receiver.reservation ≠ some k → t.entry k = s.entry k) ∧
      (∀ h, (s.chan c).receiver.reservation = some h → t.freeEntries = s.freeEntries + 1 ∧
        t.freeBlocks = s.freeBlocks + (s.entry h).blockCount ∧ (¬ s.Waits h → t.entry h = Entry.free)) ∧
      ((s.chan c).receiver.reservation = none → t.freeEntries = s.freeEntries ∧ t.freeBlocks = s.freeBlocks)
    (∀ f rest, (s.chan c).transmitter = .clearing .control w → (s.chan c).control = f :: rest →
      let left := { s.chan c with
        owed := none
        control := match (s.chan c).owed with
          | none => rest
          | some .hold => rest ++ [.ownHold s.own.holdTime s.own.holdCutoff]
          | some .release => rest ++ [.ownHold 0 s.own.holdCutoff] }
      ∃ t, exec (.keyUp c) s = .next t ∧ keyed t (.control f) ∧
        ((s.chan c).receiver.reservation = none → (t.chan c).control = left.control ∧ (t.chan c).owed = none) ∧
        (t.chan c).control = ((damage c (s.setChan c left)).chan c).control ∧
        (t.chan c).owed = ((damage c (s.setChan c left)).chan c).owed) ∧
    ((s.chan c).transmitter = .clearing .beacon w →
      ∃ t, exec (.keyUp c) s = .next t ∧ keyed t .beacon ∧ (t.chan c).beacon = .onAir)

/-- R136, R145, R162: key-up of a TRAFFIC claimant. Where the key-up need fits the time remaining in the open window, or
there is no window, the exchange is SENDING and the radio keyed; where it does not fit, or the window is closed, the
exchange is withdrawn, the entry READY with WITHDRAWN, and the radio is not keyed. A need fits a window that is open with
at least that time remaining, and fits where the channel has no window. R99, R124, R32: keying damages a frame in reception;
an entry that it reserved is FREE. -/
def Obligations.KeyUpOfTraffic : Prop :=
  (∀ (s : State) (c : Chan) (h : Handle) (w0 w x : Nat), (s.chan c).enabled = true → (s.chan c).busy = false →
      (s.chan c).receiver.reservation ≠ some h → w0 ≤ (s.chan c).clearTime →
      (s.chan c).transmitter = .clearing .traffic w0 → (s.chan c).engine = .staged h w x →
      ((s.window c).fits (x - w) = true →
        ∃ t, exec (.keyUp c) s = .next t ∧ (t.chan c).engine = .sending h none ∧
          (t.chan c).transmitter = (if (s.chan c).settings.keyUpField = 0 then .sending .traffic (s.compose c .traffic) 0
            else .keying .traffic (10 * (s.chan c).settings.keyUpField)) ∧
          (t.chan c).busy = true ∧ (t.chan c).clearTime = 0 ∧ (t.chan c).receiver = .hunt ∧
          (t.chan c).sampler = .lineRecovery ∧
          (∀ k, ¬ s.Waits k → (s.chan c).receiver.reservation ≠ some k → t.entry k = s.entry k) ∧
          (∀ k, (s.chan c).receiver.reservation = some k → ¬ s.Waits k → t.entry k = Entry.free) ∧
          s.SameTables t ∧ t.response = s.response) ∧
      ((s.window c).fits (x - w) = false →
        ∃ u t : State, exec (.keyUp c) s = .next t ∧ t = conclude u ∧ u.Turned t ∧ (u.entry h).state = .ready ∧
          (u.entry h).lastOutcome = .withdrawn ∧ (u.entry h).attemptCount = (s.entry h).attemptCount ∧
          (u.chan c).engine = .idle ∧ (t.chan c).transmitter.keyed = false ∧ (∀ k, k ≠ h → u.entry k = s.entry k) ∧
          s.SameTables t ∧ t.response = s.response)) ∧
  (∀ (g : Settings) (m n need : Nat), g.offset < g.period → m ≤ 999 →
    ((g.window n m).fits need = true ↔ (n + g.period - g.offset) % g.period < g.length ∧
      (n + g.period - g.offset) % g.period * 1000 + m + need ≤ g.length * 1000)) ∧
  (∀ (g : Settings) (m n need : Nat), g.period = 0 → (g.window n m).fits need = true)

/-- R136, R137, R115: the end of the key-up delay. The transmitter is SENDING the frame composed at that moment from
its claimant; nothing else changes. R115: a control frame is composed of what was queued, a beacon of nothing but the own
call, a TRAFFIC frame of the entry that the exchange holds, addressed to its last hop. R111, Table 11-1: the characters of
each frame: SOH, the kind letter, the to-call, the own call as from-call, the fields of its kind, the check and EOT; a receipt
has 36, an own HOLD 29, a beacon 23, a TRAFFIC frame 47 more than its body. With valid calls and fields in range the header
is valid, and gives back what the frame was composed of. R114: the check is the sum of the codes from the kind letter through
the last character before it, modulo 65,536, in four upper-case hexadecimal digits, most significant first. R94: the bits on
TXDn while a frame is sent: character after character with nothing between them, each a start bit at space, eight data bits,
least significant first, the parity bit that the setting asks for, and one or two stop bits at mark; with no frame and no
break there are none, and TXDn is at mark. While a frame is sent TXDn is at the level of the bit that its place has reached
(the place in whole milliseconds is the model's choice, note 5). -/
def Obligations.FramesComposed : Prop :=
  (∀ (s : State) (c : Chan) (w : OnAir), (s.chan c).transmitter = .keying w 0 →
      exec (.keyUpDelayEnd c) s = .next (s.setChan c { s.chan c with transmitter := .sending w (s.compose c w) 0 })) ∧
  (∀ (s : State) (c : Chan),
      (∀ f, s.compose c (.control f) = controlFrameOf s.own.call f) ∧
      s.compose c .beacon = frameOf 0x42 (0x2A :: List.replicate 7 0x20) s.own.call [] ∧
      (∀ h, (s.chan c).engine.entry? = some h → s.compose c .traffic = trafficFrame s.own.call (s.entry h))) ∧
  (∀ (own to_ d : Call) (key : Key) (v : Verdict) (n : Nat) (k : Fin 8) (e : Entry),
      let call := fun x : Call => (x ++ List.replicate 8 0x20).take 8
      let all := (0x2A : Byte) :: List.replicate 7 0x20
      let digits := fun width m : Nat =>
        (List.range width).map fun i => BitVec.ofNat 8 (0x30 + m / 10 ^ (width - 1 - i) % 10)
      let letter : Byte := match v with | .accept => 0x41 | .duplicate => 0x44 | .noroute => 0x4E | .full => 0x46
      let valid := fun x : Call => 1 ≤ x.length ∧ x.length ≤ 8 ∧
        ∀ b ∈ x, 0x41 ≤ b ∧ b ≤ 0x5A ∨ 0x30 ≤ b ∧ b ≤ 0x39 ∨ b = 0x2F
      (∀ (kind : Byte) (a f : List Byte),
        let guarded := kind :: (a ++ call own ++ f)
        frameOf kind a own f = [0x01] ++ guarded ++ checkField (checkSum guarded) ++ [0x04]) ∧
      (e.lastHop = some to_ → trafficFrame own e = frameOf 0x54 (call to_) own
        (digits 1 e.precedence.val ++ call e.key.call ++ digits 4 e.key.serial ++ call e.destination ++
          digits 3 e.textLength ++ e.text)) ∧
      controlFrameOf own (.receipt to_ key v) = frameOf 0x41 (call to_) own (call key.call ++ digits 4 key.serial ++ [letter]) ∧
      controlFrameOf own (.ownHold n k) = frameOf 0x48 all own (digits 5 n ++ digits 1 k.val) ∧
      (trafficFrame own e).length = 47 + e.text.length ∧ (controlFrameOf own (.receipt to_ key v)).length = 36 ∧
      (controlFrameOf own (.ownHold n k)).length = 29 ∧ (frameOf 0x42 all own []).length = 23 ∧
      (valid own →
        (∀ f, f = frameOf 0x42 all own [] → parseHeader .beacon ((f.drop 1).take 17) = some ⟨.all, own, .beacon⟩) ∧
        (∀ f, f = controlFrameOf own (.ownHold n k) → n ≤ 65535 →
          parseHeader .hold ((f.drop 1).take 23) = some ⟨.all, own, .hold n k⟩) ∧
        (∀ f, f = controlFrameOf own (.receipt to_ key v) → valid to_ → valid key.call → 1 ≤ key.serial →
          key.serial ≤ 9999 → parseHeader .receipt ((f.drop 1).take 30) = some ⟨.station to_, own, .receipt key v⟩) ∧
        (∀ f, f = trafficFrame own e → e.lastHop = some to_ → valid to_ → valid e.key.call → 1 ≤ e.key.serial →
          e.key.serial ≤ 9999 → e.destination = d → valid d → e.textLength = e.text.length → e.text.length ≤ 960 →
          parseHeader .traffic ((f.drop 1).take 41) =
            some ⟨.station to_, own, .traffic e.precedence e.key d e.text.length⟩ ∧
          (f.drop 42).take e.text.length = e.text))) ∧
  (∀ (body : List Byte) (w : Half),
      let hex := fun m : Nat => (BitVec.ofNat 8 (if m < 10 then 0x30 + m else 0x37 + m))
      (checkSum body).toNat = (body.map (·.toNat)).sum % 65536 ∧
      checkField w = [hex (w.toNat / 4096 % 16), hex (w.toNat / 256 % 16), hex (w.toNat / 16 % 16), hex (w.toNat % 16)] ∧
      checkValue (checkField w) = w.toNat) ∧
  (∀ x : Channel,
      (∀ w f k, x.transmitter = .sending w f k → x.lineBits = f.flatMap x.settings.characterBits ∧
        x.lineBits.length = f.length * x.settings.bitsPerChar) ∧
      ((∀ w f k, x.transmitter ≠ .sending w f k) → (∀ u r k b, x.transmitter ≠ .brk u r k b) →
        x.lineBits = [] ∧ x.txd = true) ∧
      (∀ w f k, x.transmitter = .sending w f k →
        let bit := (x.settings.divisor + 1) * 5
        (k * 384 < f.length * x.settings.bitsPerChar * bit →
          (f.flatMap x.settings.characterBits)[k * 384 / bit]? = some x.txd) ∧
        (f.length * x.settings.bitsPerChar * bit ≤ k * 384 → x.txd = true))) ∧
  (∀ (g : Settings) (b : Byte),
      let data := [b.getLsbD 0, b.getLsbD 1, b.getLsbD 2, b.getLsbD 3, b.getLsbD 4, b.getLsbD 5, b.getLsbD 6, b.getLsbD 7]
      ∃ parity : List Bool,
        g.characterBits b = [false] ++ data ++ parity ++ (if g.twoStops then [true, true] else [true]) ∧
        (g.parity = .none → parity = []) ∧
        (g.parity = .even → ∃ p, parity = [p] ∧ (data ++ [p]).count true % 2 = 0) ∧
        (g.parity = .odd → ∃ p, parity = [p] ∧ (data ++ [p]).count true % 2 = 1))

/-- R137, R146, R147, R45, R138, R88: the end of a sent frame. Keying is released; a TRAFFIC exchange without a recorded
verdict awaits its receipt with the timer at T_ack, one with ACCEPT or DUPLICATE recorded makes its entry SENT, one with
NOROUTE recorded REFUSED, or CANCELLED with cancel pending (R41); a beacon counts afresh; an own HOLD loads the re-hold timer
by the rule of the lead (an expiry of the timer that still waits is lost by it: the model's choice, note 21). -/
def Obligations.FrameEndHandedOn : Prop :=
  ∀ (s : State) (c : Chan) (w : OnAir) (f : List Byte) (k : Nat), (s.chan c).enabled = true →
    (s.chan c).transmitter = .sending w f k →
    f.length * (s.chan c).settings.bitsPerChar * (((s.chan c).settings.divisor + 1) * 5) < (k + 1) * 384 →
    ∃ t, exec (.frameEnd c) s = .next t ∧ (t.chan c).transmitter.keyed = false ∧ s.SameTables t ∧
      t.response = s.response ∧ (t.chan c).receiver = (s.chan c).receiver ∧
      (∀ h, w = .traffic → (s.chan c).engine = .sending h none →
        (t.chan c).engine = .awaiting h (s.chan c).settings.receiptTimeout) ∧
      (∀ h v, w = .traffic → (s.chan c).engine = .sending h (some v) → v = .accept ∨ v = .duplicate →
        (∀ q, h ∉ s.collection q) → (∀ d, d ≠ c → (s.chan d).engine.entry? ≠ some h) →
        (t.entry h).state = .sent ∧ (t.entry h).lastOutcome = .confirmedLate ∧ (t.entry h).changed = true ∧
          (t.entry h).nextHop = none) ∧
      (∀ h, w = .traffic → (s.chan c).engine = .sending h (some .noroute) → s.HeldAlone c h →
        t.Closes h (s.entry h) (if (s.entry h).cancelPending = some true then .cancelled else .refused) .noroute) ∧
      (w = .beacon → (t.chan c).beacon =
        if (s.chan c).settings.beaconInterval = 0 then .off else .counting s.time.counter) ∧
      (∀ n q, w = .control (.ownHold n q) → (t.chan c).rehold =
        if s.congestion = .congested ∧ s.own.reholdMode = true ∧ s.own.reholdLead < n then some (n - s.own.reholdLead)
        else none) ∧
      (∀ a b v, w = .control (.receipt a b v) → (t.chan c).rehold = (s.chan c).rehold)

/-- R133, R134, R135: the arbiter. An IDLE or CLEARING transmitter of an enabled channel is granted to a waiting control
frame, else to a due beacon, both with one slot to wait, else to a STAGED exchange with its W, else to none; one that has
keyed is not touched, and nothing but the transmitter is. R133: every step leaves every arbiter having acted, when it found
them so. -/
def Obligations.ArbiterGrants : Prop :=
  (∀ x : Channel,
    let y := x.arbitrated
    { y with transmitter := x.transmitter } = x ∧
    (x.transmitter.keyed = true → y.transmitter = x.transmitter) ∧
    (x.transmitter.keyed = false → x.enabled = false → y.transmitter = .idle) ∧
    (x.transmitter.keyed = false → x.enabled = true →
      (x.control ≠ [] → y.transmitter = .clearing .control (10 * x.settings.slotField)) ∧
      (x.control = [] → x.beacon = .due → y.transmitter = .clearing .beacon (10 * x.settings.slotField)) ∧
      (∀ h w n, x.control = [] → x.beacon ≠ .due → x.engine = .staged h w n →
        y.transmitter = .clearing .traffic w) ∧
      (x.control = [] → x.beacon ≠ .due → (∀ h w n, x.engine ≠ .staged h w n) → y.transmitter = .idle))) ∧
  (∀ s t : State, s.Arbitrated → step s = .next t → t.Arbitrated)

/-- R142: an engine makes considerations when it is IDLE, its channel enabled and not JAMMED, and its abort pause clear; in
any other case it takes nothing and fails nothing. R141, R142, R143, R33, R34: a consideration. The engine takes the first entry of its queue that is neither held nor
covered, not OVERSIZE, and fits the window: it is ENGAGED with its last hop set, and the exchange is STAGED with the W and
the X of that moment; entries that are held, covered or do not fit are passed over. R34, R142: an entry that is neither held
nor covered but OVERSIZE is FAILED and leaves the queue, and the walk goes on; with no entry to take the engine stays IDLE.
R77, R79: an entry is covered by a hold of its next hop, or by the channel's silence, in force at or below its precedence.
R155, R159, R160, R161, R163: the air time, the wait W, the receipt timeout, the need X and the OVERSIZE test. -/
def Obligations.ConsiderationTakesFirstEligible : Prop :=
  (∀ (s : State) (c : Chan),
      ((s.chan c).considers = true ↔ (s.chan c).engine = .idle ∧ (s.chan c).enabled = true ∧ (s.chan c).jammed = false ∧
        (s.chan c).abortPause = false) ∧
      ((s.chan c).engine ≠ .idle ∨ (s.chan c).enabled = false ∨ (s.chan c).jammed = true ∨ (s.chan c).abortPause = true →
        consider c s = s)) ∧
  (∀ (s : State) (c : Chan) (a : List Handle) (h : Handle) (b : List Handle), (s.chan c).considers = true →
    (s.chan c).queue = a ++ h :: b →
    (∀ k ∈ a, s.covered c (s.entry k) = true ∨
      ((s.chan c).settings.oversize (s.needOf c (s.entry k)) = false ∧ (s.window c).fits (s.needOf c (s.entry k)) = false)) →
    s.covered c (s.entry h) = false → (s.chan c).settings.oversize (s.needOf c (s.entry h)) = false →
    (s.window c).fits (s.needOf c (s.entry h)) = true →
    let t := consider c s
    t.entry h = { s.entry h with
      state := .engaged, lastHop := s.hopCall (s.entry h).nextHop, cancelPending := some false } ∧
    (t.chan c).engine = .staged h (s.waitOf c (s.entry h)) (s.needOf c (s.entry h)) ∧ (∀ k, h ∉ t.collection k) ∧
    (∀ k, k ≠ h → t.entry k = s.entry k)) ∧
  (∀ (s : State) (c : Chan) (a r : List Handle), (s.chan c).considers = true → (s.chan c).queue = a ++ r →
    (s.chan c).queue.Nodup →
    let big := fun k => s.covered c (s.entry k) = false ∧ (s.chan c).settings.oversize (s.needOf c (s.entry k)) = true
    let takes := fun k => s.covered c (s.entry k) = false ∧
      (s.chan c).settings.oversize (s.needOf c (s.entry k)) = false ∧ (s.window c).fits (s.needOf c (s.entry k)) = true
    let t := consider c s
    (∀ k ∈ a, ¬ takes k) → (∀ h, r.head? = some h → takes h) →
      (∀ k ∈ a, big k → t.Closes k (s.entry k) .failed .oversize ∧ ∀ q, k ∉ t.collection q) ∧
      (∀ k, ¬ (k ∈ a ∧ big k) → r.head? ≠ some k → t.entry k = s.entry k ∧ (k ∈ (s.chan c).queue → k ∈ (t.chan c).queue)) ∧
      (r = [] → (t.chan c).engine = .idle) ∧
      (∀ h, r.head? = some h →
        (t.chan c).engine = .staged h (s.waitOf c (s.entry h)) (s.needOf c (s.entry h)) ∧ (t.entry h).state = .engaged)) ∧
  (∀ (s : State) (c : Chan) (e : Entry),
      (s.covered c e = true ↔
        (∃ i st, e.nextHop = some i ∧ s.station i = some st ∧ 0 < st.holdRemaining ∧ st.holdCutoff ≤ e.precedence) ∨
        0 < (s.chan c).silenceRemaining ∧ (s.chan c).silenceCutoff ≤ e.precedence) ∧
      let g := (s.chan c).settings
      let row := s.classRow e.precedence
      s.waitOf c e = min 65535 (max 1 (row.baseWait + min 7 e.attemptCount + g.stagger) * (10 * g.slotField)) ∧
      s.needOf c e = s.waitOf c e + 10 * g.keyUpField + g.airTime (47 + e.textLength) + g.receiptTimeout) ∧
  (∀ (g : Settings) (n : Nat),
      let line := n * (9 + (if g.parity = .none then 0 else 1) + (if g.twoStops = true then 2 else 1)) *
        ((g.divisor + 1) * 5)
      (line ≤ g.airTime n * 384 ∧ g.airTime n * 384 < line + 384) ∧
      g.receiptTimeout = min 65535 (g.airTime 36 + 10 * g.keyUpField + 10 * g.turnField + 10 * g.slotField) ∧
      (g.oversize n = true ↔ g.period ≠ 0 ∧ g.length * 1000 < n))

/-- R44, R45, R35, R36, R37, R81: a receipt that matches an AWAITING exchange ends it. ACCEPT and DUPLICATE make the
entry SENT, NOROUTE makes it REFUSED or, with cancel pending, CANCELLED; FULL returns it to READY with outcome FULL, or
leaves it CANCELLED, and holds the sender for the full backoff with cutoff 0. R45: one that matches a STAGED exchange ends it
before key-up, SENT with CONFIRMED_LATE or REFUSED, and a FULL is ignored; one that matches a SENDING exchange is recorded,
the first verdict other than FULL being kept. R46, Table 2-4: one that finds its entry in no exchange makes it SENT with
CONFIRMED_LATE, or REFUSED, or is ignored, by the entry's state. R44: one that no entry with its key and last hop matches is
ignored. -/
def Obligations.ReceiptEndsExchange : Prop :=
  (∀ (s : State) (c : Chan) (h : Handle) (n : Nat) (key : Key) (v : Verdict) (from_ : Call),
    s.findKey key = some h → (s.entry h).lastHop = some from_ → (s.entry h).state = .engaged → s.engineOf h = some c →
    (s.chan c).engine = .awaiting h n →
    let t := applyReceipt key v from_ s
    (t.chan c).engine = .idle ∧ (t.entry h).attemptCount = (s.entry h).attemptCount ∧
    (t.entry h).text = (s.entry h).text ∧ (v ≠ .full → (t.entry h).nextHop = none) ∧
    (v = .accept → (t.entry h).state = .sent ∧ (t.entry h).lastOutcome = .confirmed ∧ (t.entry h).changed = true) ∧
    (v = .duplicate → (t.entry h).state = .sent ∧ (t.entry h).lastOutcome = .confirmedDuplicate ∧
      (t.entry h).changed = true) ∧
    (v = .noroute → (t.entry h).state = (if (s.entry h).cancelPending = some true then .cancelled else .refused) ∧
      (t.entry h).lastOutcome = .noroute ∧ (t.entry h).changed = true) ∧
    (v = .full → (∀ d, d ≠ c → (s.chan d).engine.entry? ≠ some h) →
      (t.entry h).state = (if (s.entry h).cancelPending = some true then .cancelled else .ready) ∧
      (t.entry h).lastOutcome = .full ∧
      ∀ i st, s.findStation from_ = some i → s.station i = some st → ∃ r, t.station i = some r ∧
        (0 < s.own.fullBackoff → r.holdRemaining = s.own.fullBackoff ∧ r.holdCutoff = 0))) ∧
  (∀ (s : State) (h : Handle) (key : Key) (v : Verdict) (from_ : Call),
    let e := s.entry h
    let t := applyReceipt key v from_ s
    (s.findKey key = none → t = s) ∧
    (s.findKey key = some h → e.lastHop ≠ some from_ → t = s) ∧
    (∀ c w x, s.findKey key = some h → e.lastHop = some from_ → e.state = .engaged → s.engineOf h = some c →
      (s.chan c).engine = .staged h w x →
      (v = .full → t = s) ∧
      (v ≠ .full → (t.chan c).engine = .idle ∧ (∀ k, k ≠ h → t.entry k = s.entry k) ∧
        (v = .noroute → t.Closes h e .refused .noroute) ∧ (v ≠ .noroute → t.Closes h e .sent .confirmedLate))) ∧
    (∀ c r, s.findKey key = some h → e.lastHop = some from_ → e.state = .engaged → s.engineOf h = some c →
      (s.chan c).engine = .sending h r →
      (r = none → v ≠ .full → t = s.setChan c { s.chan c with engine := .sending h (some v) }) ∧
      (r ≠ none ∨ v = .full → t = s)) ∧
    (s.findKey key = some h → e.lastHop = some from_ → e.state ≠ .engaged →
      let late := v = .accept ∨ v = .duplicate
      (late → e.state = .ready ∨ e.state = .retryWait ∨ e.state = .failed ∨ e.state = .cancelled →
        t.Closes h e .sent .confirmedLate ∧ (e.state = .ready → ∀ q, h ∉ t.collection q) ∧
          (∀ k, k ≠ h → t.entry k = s.entry k)) ∧
      (v = .noroute → e.state = .ready ∨ e.state = .retryWait ∨ e.state = .failed →
        t.Closes h e .refused .noroute ∧ (e.state = .ready → ∀ q, h ∉ t.collection q) ∧
          (∀ k, k ≠ h → t.entry k = s.entry k)) ∧
      (v = .noroute → e.state = .cancelled → t = s) ∧ (v = .full → t = s) ∧
      (e.state ≠ .ready → e.state ≠ .retryWait → e.state ≠ .failed → e.state ≠ .cancelled → t = s)))

/-- R38, R41, R42, R164: the receipt timer at 0. The attempt count rises; with cancel pending the entry is CANCELLED,
below the retry limit it is in RETRY_WAIT until the retry delay has passed, and at the limit it is FAILED; outcome
NO_RECEIPT. R43, R167, R27: at its not-before an entry in RETRY_WAIT is READY again, resolved afresh and placed, with
its attempt count and outcome kept. -/
def Obligations.RetryAndReceiptTimers : Prop :=
  (∀ (s : State) (c : Chan) (h : Handle), (s.chan c).engine = .awaiting h 0 → (∀ q, h ∉ s.collection q) →
      (∀ d, d ≠ c → (s.chan d).engine.entry? ≠ some h) →
      let e := s.entry h
      let k := e.attemptCount + 1
      ∃ t, exec (.receiptTimeout c) s = .next t ∧
        (t.entry h).attemptCount = k ∧ (t.entry h).lastOutcome = .noReceipt ∧ (t.entry h).nextHop = none ∧
        (t.entry h).lastHop = e.lastHop ∧ (∀ q, h ∉ t.collection q) ∧
        (e.cancelPending = some true → (t.entry h).state = .cancelled ∧ (t.entry h).changed = true) ∧
        (e.cancelPending ≠ some true → k < (s.classRow e.precedence).retryLimit → (t.entry h).state = .retryWait ∧
          (t.entry h).changed = e.changed ∧ (t.entry h).notBefore = some (s.time.counter +
            BitVec.ofNat 32 (min 3600 ((s.chan c).settings.retryBase * 2 ^ (k - 1)) * 1000))) ∧
        (e.cancelPending ≠ some true → (s.classRow e.precedence).retryLimit ≤ k → (t.entry h).state = .failed ∧
          (t.entry h).changed = true) ∧
        (∀ q, q ≠ h → ¬ s.Waits q → t.entry q = s.entry q) ∧ s.SameTables t ∧ t.response = s.response) ∧
  (∀ (s : State) (h : Handle), (s.entry h).state = .retryWait → (s.entry h).notBefore = some s.time.counter →
      ∃ u t : State, exec (.retryWaitExpiry h) s = .next t ∧ u.Turned t ∧
        u.entry h = { s.entry h with state := .ready, nextHop := s.route (s.entry h), notBefore := none,
                                     cancelPending := none } ∧
        h ∈ u.collection (u.collectionFor (s.route (s.entry h))) ∧ s.SameButPlacing h u)

/-! ## Time -/

/-- R166, R168, R169: the millisecond advance when no event of the millisecond before waits: the counter rises by one
and wraps, the dividers and the station clock's millisecond move, and quantum, second and clock second are yielded
where they pass their ends. R101, R102, R125, R136, R147: what a channel counts at a millisecond. The clear time rises while
enabled and clear, the busy length while enabled, busy and not keyed, both stopping at 65,535; keying remaining and the
receipt timer fall by one; the gap count of a frame in progress rises by one, and so do the places of a frame and of a break
on the line. Nothing but the Time Base and these counts changes. The model's choice (note 2): what the advance yields is left
as marks, the clock second among them, whose second stands at 999 ms until CLOCK_SECOND takes it. R173, R174, R142: a close
event that waits on an enabled channel withdraws a STAGED exchange, its entry READY with WITHDRAWN; any other event that
waits touches no exchange; the considerations and the arbiters follow, and an engine that is not IDLE keeps its exchange. With
no such event waiting the command is none. -/
def Obligations.MillisecondAndWindowEvents : Prop :=
  (∀ s : State, settleOnce s = none → s.time.Kept →
      ∃ t, exec .millisecondAdvance s = .next t ∧ t.time.counter = s.time.counter + 1 ∧
        (s.time.counter = 0xFFFFFFFF → t.time.counter = 0) ∧
        t.time.quantumDivider = (s.time.quantumDivider + 1) % 100 ∧
        t.time.secondDivider = (s.time.secondDivider + 1) % 1000 ∧
        (t.time.quantumDue = true ↔ s.time.quantumDivider = 99) ∧ (t.time.secondDue = true ↔ s.time.secondDivider = 999) ∧
        (t.time.clockDue = true ↔ s.time.clockMs = 999) ∧ t.time.clockSecond = s.time.clockSecond ∧
        (s.time.clockMs ≠ 999 → t.time.clockMs = s.time.clockMs + 1) ∧
        (s.time.clockMs = 999 → t.time.clockMs = 999) ∧
        { t with time := s.time, channels := s.channels } = s ∧
        ∀ c, let x := s.chan c
          t.chan c = { x with
            clearTime := if x.enabled = true ∧ x.busy = false then min 65535 (x.clearTime + 1) else x.clearTime
            busyLength := if x.enabled = true ∧ x.busy = true ∧ x.transmitter.keyed = false then
              min 65535 (x.busyLength + 1) else x.busyLength
            transmitter := match x.transmitter with
              | .idle => .idle
              | .clearing k w => .clearing k w
              | .keying w n => .keying w (n - 1)
              | .sending w f n => .sending w f (n + 1)
              | .brk u r n b => .brk u r (n + 1) b
            engine := match x.engine with
              | .idle => .idle
              | .staged h w n => .staged h w n
              | .sending h v => .sending h v
              | .awaiting h n => .awaiting h (n - 1)
            receiver := if x.receiver.phase = .hunt then x.receiver
              else { x.receiver with gap := x.receiver.gap + 1 } }) ∧
  (∀ (s : State) (c : Chan),
    let taken := s.setChan c { s.chan c with windowDue := none }
    (∀ h w x, (s.chan c).windowDue = some .closed → (s.chan c).enabled = true → (s.chan c).engine = .staged h w x →
      ∃ u : State, exec (.windowCloseEvent c) s = .next (conclude u) ∧ u.Turned (conclude u) ∧
        u.Returns h (s.entry h) .withdrawn ∧
        (∀ d, { u.chan d with queue := (taken.chan d).queue } =
          if d = c then { taken.chan d with engine := .idle } else taken.chan d) ∧
        (∀ k, k ≠ h → u.entry k = s.entry k) ∧ s.SameTables u ∧ u.response = s.response) ∧
    ((s.chan c).windowDue = some .closed → ((s.chan c).enabled = true → ∀ h w x, (s.chan c).engine ≠ .staged h w x) →
      exec (.windowCloseEvent c) s = .next (conclude taken) ∧ taken.Turned (conclude taken) ∧
        ((s.chan c).engine ≠ .idle → ((conclude taken).chan c).engine = (s.chan c).engine)) ∧
    ((s.chan c).windowDue = some .opened →
      exec (.windowOpenEvent c) s = .next (conclude taken) ∧ taken.Turned (conclude taken) ∧
        ((s.chan c).engine ≠ .idle → ((conclude taken).chan c).engine = (s.chan c).engine)) ∧
    ((s.chan c).windowDue ≠ some .closed → exec (.windowCloseEvent c) s = .next s) ∧
    ((s.chan c).windowDue ≠ some .opened → exec (.windowOpenEvent c) s = .next s))

/-- R168, R80, R88: a quantum lowers by one every hold, every silence and every counting re-hold timer that is above 0, on
enabled and disabled channels alike, and changes no other count. R80: a hold or a silence whose remaining falls from 1 to 0
ends at that quantum. The model's choice (note 2): its end is left as a mark until HOLD_EXPIRY or SILENCE_EXPIRY takes it. -/
def Obligations.QuantumCountsDown : Prop :=
  ∀ s : State, s.time.quantumDue = true →
    ∃ t, exec .quantum s = .next t ∧
      (∀ i st, s.station i = some st → ∃ r, t.station i = some r ∧ r.holdRemaining = st.holdRemaining - 1 ∧
        (r.holdEndDue = true ↔ st.holdEndDue = true ∨ st.holdRemaining = 1) ∧
        { r with holdRemaining := st.holdRemaining, holdEndDue := st.holdEndDue } = st) ∧
      (∀ i, s.station i = none → t.station i = none) ∧
      (∀ c, (t.chan c).silenceRemaining = (s.chan c).silenceRemaining - 1 ∧
        ((t.chan c).silenceEndDue = true ↔ (s.chan c).silenceEndDue = true ∨ (s.chan c).silenceRemaining = 1) ∧
        (∀ n, (s.chan c).rehold = some n → (t.chan c).rehold = some (n - 1)) ∧
        ((s.chan c).rehold = none → (t.chan c).rehold = none) ∧
        { t.chan c with silenceRemaining := (s.chan c).silenceRemaining, rehold := (s.chan c).rehold,
                        silenceEndDue := (s.chan c).silenceEndDue } = s.chan c) ∧
      { t with stations := s.stations, channels := s.channels, time := s.time } = s ∧
      { t.time with quantumDue := true } = s.time

/-- R64, R168, R149: a Time Base second raises every occupied record's heard age by one, stopping at 65,535, whatever the
channels do, and ends every abort pause. The model's choice (note 2): a HEARD station whose age goes over its enter limit is
marked, and keeps its reach state until HEARD_AGE_OVER_LIMIT takes the mark. -/
def Obligations.SecondAdvancesAges : Prop :=
  ∀ s : State, s.time.secondDue = true →
    ∃ t, exec .timeBaseSecond s = .next t ∧
      (∀ i st, s.station i = some st → ∃ r, t.station i = some r ∧ r.heardAge = min 65535 (st.heardAge + 1) ∧
        (r.overLimitDue = true ↔ st.overLimitDue = true ∨
          (st.reach = .heard ∧ 0 < st.interval ∧ st.enterLimit < r.heardAge)) ∧
        { r with heardAge := st.heardAge, overLimitDue := st.overLimitDue } = st) ∧
      (∀ i, s.station i = none → t.station i = none) ∧ (∀ c, (t.chan c).abortPause = false) ∧
      (∀ c, (s.chan c).SameLine (t.chan c)) ∧ (∀ k, ¬ s.Waits k → t.entry k = s.entry k) ∧ t.own = s.own ∧
      t.time = { s.time with secondDue := false } ∧ t.response = s.response

/-- R138, R139: a beacon whose interval has passed is due, or under a silence is dropped and counts afresh from now. -/
def Obligations.BeaconFallsDue : Prop :=
  ∀ (s : State) (c : Chan) (b : Quad), (s.chan c).enabled = true → (s.chan c).beacon = .counting b →
    0 < (s.chan c).settings.beaconInterval → (s.time.counter - b).toNat = (s.chan c).settings.beaconInterval * 1000 →
    ∃ t, exec (.beaconDue c) s = .next t ∧
      ((s.chan c).silenceRemaining = 0 → (t.chan c).beacon = .due) ∧
      (0 < (s.chan c).silenceRemaining → (t.chan c).beacon = .counting s.time.counter) ∧
      (∀ d, d ≠ c → (s.chan d).SameLine (t.chan d)) ∧ (∀ k, ¬ s.Waits k → t.entry k = s.entry k) ∧ s.SameTables t ∧
      t.response = s.response

/-- R80, R77, R79, R142: the end of a station's hold or of a channel's silence brings the considerations and the arbiters,
and touches nothing else. R88, R86: a re-hold timer at 0 stops, and while the part is CONGESTED an own HOLD with the time and
cutoff in force is queued on that channel; in NORMAL nothing is. R75, R76, R78: a HOLD received with a time above 0 is written
as a silence of the channel, when it is to all stations and from net control, else as a hold of its sender's record; one of
time 0 ends it and keeps the cutoff; one from a station that no record holds is none. R77, R79: a STAGED exchange that the
hold or the silence newly covers is withdrawn, its entry READY with WITHDRAWN; one that it does not cover continues. (That an
exchange STAGED toward an index rewritten to VIA counts as held is the model's choice: note 19.) R139: a silence drops a beacon
that is due, and its interval starts afresh. -/
def Obligations.HoldSilenceAndReholdEnd : Prop :=
  (∀ s : State,
      (∀ i st, s.station i = some st → st.holdEndDue = true →
        let taken := s.setStation i (some { st with holdEndDue := false })
        exec (.holdExpiry i) s = .next (conclude taken) ∧ taken.Turned (conclude taken)) ∧
      (∀ c, (s.chan c).silenceEndDue = true →
        let taken := s.setChan c { s.chan c with silenceEndDue := false }
        exec (.silenceExpiry c) s = .next (conclude taken) ∧ taken.Turned (conclude taken))) ∧
  (∀ (s : State) (c : Chan), (s.chan c).rehold = some 0 →
      ∃ t, exec (.reHoldExpiry c) s = .next t ∧
        (s.congestion = .congested → (s.setChan c
          (Channel.queueOwn s.own.holdTime s.own.holdCutoff { s.chan c with rehold := none })).Turned t) ∧
        (s.congestion = .normal → (s.setChan c { s.chan c with rehold := none }).Turned t)) ∧
  (∀ (s : State) (c : Chan) (toAll : Bool) (from_ : Call) (n : Nat) (k : Fin 8),
      let t := applyHold c toAll from_ n k s
      (s.findStation from_ = none → t = s) ∧
      (∀ i st, s.findStation from_ = some i → s.station i = some st → toAll = true → st.netControl = true →
        let x := s.chan c
        let y := { x with
          silenceRemaining := n, silenceCutoff := k
          beacon := if x.beacon = .due then
              (if x.settings.beaconInterval = 0 then .off else .counting s.time.counter) else x.beacon }
        (n = 0 → t = s.setChan c { x with silenceRemaining := 0 }) ∧
        (0 < n → (∀ h w z, x.engine = .staged h w z → (s.entry h).precedence < k) → t = s.setChan c y) ∧
        (∀ h w z, 0 < n → x.engine = .staged h w z → k ≤ (s.entry h).precedence →
          { t.chan c with queue := x.queue } = { y with engine := .idle } ∧ t.Returns h (s.entry h) .withdrawn ∧
            (∀ j, j ≠ h → t.entry j = s.entry j) ∧ s.SameTables t)) ∧
      (∀ i st, s.findStation from_ = some i → s.station i = some st → toAll = false ∨ st.netControl = false →
        let r := if n = 0 then { st with holdRemaining := 0 } else { st with holdRemaining := n, holdCutoff := k }
        let covers := fun h => 0 < n ∧ (s.entry h).nextHop = some i ∧ k ≤ (s.entry h).precedence
        t.station i = some r ∧ (∀ j, j ≠ i → t.station j = s.station j) ∧
        ((∀ d h w z, (s.chan d).engine = .staged h w z → ¬ covers h) → t = s.setStation i (some r)) ∧
        (∀ d h w z, (s.chan d).engine = .staged h w z → s.HeldAlone d h → covers h →
          (t.chan d).engine = .idle ∧ t.Returns h (s.entry h) .withdrawn) ∧
        (∀ d, (∀ h w z, (s.chan d).engine = .staged h w z → s.HeldAlone d h ∧ ¬ covers h) →
          (t.chan d).engine = (s.chan d).engine)))

/-- R125, R103: when a gap count is over its limit, the time of 16 characters, and when a busy length has reached the jam
threshold. R125, R124, R32: a gap count over the gap limit damages the frame in progress: the receiver is in HUNT, an entry
reserved is FREE and its blocks are back. R103, R71, R39: a channel whose busy length reaches its jam threshold is JAMMED with
JAM_CHANGED set; a STAGED exchange is withdrawn, its entry READY with WITHDRAWN, a sweep follows, then the considerations and
the arbiters; the engine takes nothing while the mark stands. Before the sweep nothing else of any channel changes but a queue
that the entry joins. -/
def Obligations.GapAndJam : Prop :=
  (∀ x : Channel,
      (x.gapOver = true ↔ x.receiver.phase ≠ .hunt ∧ max 1 (x.settings.airTime 16) < x.receiver.gap) ∧
      (x.jamReached = true ↔ x.enabled = true ∧ x.busy = true ∧ x.jammed = false ∧ x.settings.jamLimit ≠ 0 ∧
        min 65535 (x.settings.jamLimit * 1000) ≤ x.busyLength)) ∧
  (∀ (s : State) (c : Chan), (s.chan c).receiver.phase ≠ .hunt →
      max 1 ((s.chan c).settings.airTime 16) < (s.chan c).receiver.gap →
      ∃ t, exec (.gapExpiry c) s = .next t ∧ (t.chan c).receiver = .hunt ∧ (t.chan c).sampler = (s.chan c).sampler ∧
        (∀ h, (s.chan c).receiver.reservation = some h → (¬ s.Waits h → t.entry h = Entry.free) ∧
          t.freeEntries = s.freeEntries + 1 ∧ t.freeBlocks = s.freeBlocks + (s.entry h).blockCount) ∧
        ((s.chan c).receiver.reservation = none → t.freeEntries = s.freeEntries ∧ t.freeBlocks = s.freeBlocks ∧
          t.congestion = s.congestion) ∧
        (∀ k, ¬ s.Waits k → (s.chan c).receiver.reservation ≠ some k → t.entry k = s.entry k) ∧
        s.SameTables t ∧ t.response = s.response) ∧
  (∀ (s : State) (c : Chan), (s.chan c).enabled = true → (s.chan c).busy = true → (s.chan c).jammed = false →
      (s.chan c).settings.jamLimit ≠ 0 → min 65535 ((s.chan c).settings.jamLimit * 1000) ≤ (s.chan c).busyLength →
      ∃ u t : State, exec (.jammed c) s = .next t ∧ t = conclude (sweep u) ∧ (sweep u).Turned t ∧
        (∀ d, { u.chan d with queue := (s.chan d).queue } = if d = c then { s.chan c with
            jammed := true, jamChanged := true
            engine := match (s.chan c).engine with | .staged _ _ _ => .idle | e => e } else s.chan d) ∧
        (∀ h w x, (s.chan c).engine = .staged h w x → s.HeldAlone c h →
          u.Returns h (s.entry h) .withdrawn ∧ (sweep u).Returns h (s.entry h) .withdrawn) ∧
        (∀ k, (∀ w x, (s.chan c).engine ≠ .staged k w x) → u.entry k = s.entry k) ∧
        (t.chan c).jammed = true ∧ (t.chan c).jamChanged = true ∧
        (∀ h w x, (s.chan c).engine = .staged h w x → (t.chan c).engine = .idle) ∧
        ((∀ h w x, (s.chan c).engine ≠ .staged h w x) → (t.chan c).engine = (s.chan c).engine) ∧
        (t.chan c).control = (s.chan c).control ∧ (t.chan c).beacon = (s.chan c).beacon ∧
        (∀ d, d ≠ c → (s.chan d).SameLine (t.chan d)) ∧ (∀ k, ¬ s.Waits k → t.entry k = s.entry k) ∧ s.SameTables t ∧
        t.response = s.response)

/-- R65, R67: a HEARD station whose heard age has gone over its enter limit becomes UNHEARD with confirm count 0;
REACH_CHANGED is set. R64, R66: a good frame from a station sets its heard age to 0; an UNHEARD one has its confirm
count at 1 after a first frame or one whose gap is over the leave limit, and is HEARD, its count 2, at the second frame
within it. Table 3-5: the limits. (That a good frame meets the leave limit of I and s as stored, also where SET STATION wrote
them since the last one-second advance, is the model's choice: note 24.) -/
def Obligations.ReachabilityMonitored : Prop :=
  (∀ (s : State) (i : Index) (st : Station), s.station i = some st → st.overLimitDue = true → st.reach = .heard →
      0 < st.interval →
      ∃ t, exec (.heardAgeOverLimit i) s = .next t ∧ t.reachChanged = true ∧
        t.station i = some { st with overLimitDue := false, reach := .unheard, confirmCount := 0 } ∧
        (∀ j, j ≠ i → t.station j = s.station j) ∧ (∀ c, (s.chan c).SameLine (t.chan c)) ∧
        (∀ k, ¬ s.Waits k → t.entry k = s.entry k) ∧ t.own = s.own ∧ t.response = s.response) ∧
  (∀ st : Station,
      let r := st.refreshed
      r.heardAge = 0 ∧ (st.reach = .heard → r = { st with heardAge := 0 }) ∧
      (st.reach = .unheard → st.confirmCount = 0 → r.reach = .unheard ∧ r.confirmCount = 1) ∧
      (st.reach = .unheard → st.confirmCount = 1 → st.heardAge ≤ st.leaveLimit → r.reach = .heard ∧
        r.confirmCount = 2) ∧
      (st.reach = .unheard → st.confirmCount = 1 → st.leaveLimit < st.heardAge → r.reach = .unheard ∧ r.confirmCount = 1)) ∧
  (∀ st : Station,
      st.enterLimit = max 1 (st.interval * #v[5, 6, 8, 10, 12, 16, 24, 32][st.sensitivity] / 4) ∧
      st.leaveLimit = max 1 (st.interval * #v[4, 5, 6, 8, 9, 12, 16, 24][st.sensitivity] / 4))

/-! ## Steps, commands, invariants -/

/-- A step takes the command at the front of the queue and runs it with the queue's rest; with no command waiting the part
stands as it is (the model's choice: note 1). -/
def Obligations.StepRunsFrontCommand : Prop :=
  ∀ (s : State) (c : Instr) (q : List Instr),
    step (s.withPending (c :: q)) = exec c (s.withPending q) ∧ step (s.withPending []) = .next (s.withPending [])

/-- Every command answers a next state, and none touches the queue of commands (the model's own: note 1). -/
def Obligations.EveryCommandCompletes : Prop :=
  ∀ (i : Instr) (s : State), ∃ t, exec i s = .next t ∧ t.pending = s.pending

/-- R175, R176, Table 11-3: every request that a frame can carry is read back from its request frame, with every parameter
at every value. -/
def Obligations.RequestFramesReadBack : Prop :=
  ∀ i : Instr, i.isRequest = true → i.wellFormed = true → decodeSelection { bytes := encodeRequest i } = some i

/-- R86, R129: every step keeps the rules of the control frames. A channel never holds more than one own HOLD or own
release at once, counting both the queue and the mark, and its queue never more than four frames. -/
def Obligations.ControlFramesKept : Prop :=
  ∀ s t : State, s.ControlKept → step s = .next t → t.ControlKept

/-- R107, R99, R100, R101, R102, R103: every step keeps a disabled channel quiet and an enabled one listening as it must:
busy as its carrier source and keying say, its counters 0 where they must be, JAMMED only while busy, and the receive side
shut while the radio is keyed. -/
def Obligations.ListeningKept : Prop :=
  ∀ s t : State, s.Listening → step s = .next t → t.Listening

/-- R82, R158, R168, R169: every step keeps the thresholds in order, the class rows and the counts of the Time Base in
their ranges. R52, R53, R55, R57, R60, Tables 3-1, 3-2: every step keeps the directory consistent: the calls of occupied
records valid, distinct and not the own call; the relay of a VIA record an occupied DIRECT record; a fallback another occupied
index; the default route an occupied index; the counts of the records in their ranges. R62: so every next hop that a
resolution gives is a DIRECT record. -/
def Obligations.TablesKept : Prop :=
  (∀ s t : State, s.TablesKept → step s = .next t → t.TablesKept) ∧
  (∀ s t : State, s.DirectoryKept → step s = .next t → t.DirectoryKept) ∧
  (∀ (s : State) (d : Call) (i : Index), s.DirectoryKept → s.resolve d = some i →
      ∃ st, s.station i = some st ∧ st.kind = .direct)

/-- R5, R6, R8: every step keeps the fields of every entry as its state has them, with the attempt count at most 15. R11, R14:
the accessions and the keys of entries that are not FREE stay distinct, and the accession counter rests on a value that none of
them holds. R16, R19: the free counts and what the entries hold add up to 256 entries and 2,048 blocks. R68, R69: every READY
entry stands in the one collection of its next hop, no other entry in any, each collection in its order. R116, R140: an entry is
ENGAGED exactly when an engine holds it, and RECEIVING exactly when a receive record holds it, then one alone, past the header
of a TRAFFIC frame to the own call. R17, R122: an entry in use holds exactly the characters of its text length, at most 960;
while it is RECEIVING those it holds and those its receiver still awaits add up to it, and in TAIL none is awaited. The step is one from a part whose channels and tables are kept as well. -/
def Obligations.TrafficKept : Prop :=
  ∀ s t : State, s.TrafficKept → s.Listening → s.TablesKept → step s = .next t → t.TrafficKept

/-- The state after reset meets every invariant that steps keep. -/
def Obligations.ResetMeetsInvariants : Prop :=
  State.reset.ControlKept ∧ State.reset.Listening ∧ State.reset.TablesKept ∧ State.reset.DirectoryKept ∧
    State.reset.TrafficKept ∧ State.reset.Arbitrated

/-- Section 11.3, R188: the readout records have the lengths that their tables give, whatever the state, and Tables 11-4 to
11-7 say what stands at each offset of them: a field that is absent reads FFh, FFFFh, eight spaces or 0. R188, R187, Table
11-2: the codes of states, roles, outcomes, verdicts, reach and congestion states, claimants and results, and how a call, an
index that may be absent and a number are carried. R187, Table 11-3: the settings block and the own-station
record as SET OWN answers it, field by field. R23: the held indication, no for an entry that is not READY or has no next hop.
R162, R174: what a window is reported as. (The model's reading:
the to-call of an own HOLD's slot is all stations, and an empty slot reads FFh in the byte that verdict and cutoff share,
note 9; the outcome of a SPENT entry reads FFh, note 10.) -/
def Obligations.RecordLengths : Prop :=
  ([EntryState.free, .spent, .receiving, .ready, .engaged, .retryWait, .sent, .refused, .failed, .cancelled,
      .arrived].map (·.code) = [0, 1, 2, 3, 4, 5, 6, 7, 8, 9, 10] ∧
    [Role.originated, .localDelivery, .relay].map (·.code) = [0, 1, 2] ∧
    [LastOutcome.none, .confirmed, .confirmedDuplicate, .confirmedLate, .noroute, .full, .noReceipt, .withdrawn, .aborted,
      .oversize].map (·.code) = [0, 1, 2, 3, 4, 5, 6, 7, 8, 9] ∧
    [Verdict.accept, .duplicate, .noroute, .full].map (·.code) = [0, 1, 2, 3] ∧
    [Reach.heard, .unheard].map (·.code) = [0, 1] ∧ [Congestion.normal, .congested].map (·.code) = [0, 1] ∧
    [Claimant.control, .beacon, .traffic].map (·.code) = [1, 2, 3] ∧
    [Result.done, .full, .noEntry, .wrongState, .badValue, .inUse, .badFrame, .nothing].map (·.code) =
      [0, 1, 2, 3, 4, 5, 6, 7] ∧
    (∀ c : Call, c.length ≤ 8 → padCall c = c ++ List.replicate (8 - c.length) 0x20) ∧
    allStationsField = 0x2A :: List.replicate 7 0x20 ∧
    (∀ (n : Nat) (i : Fin n), optByte (some i) = BitVec.ofNat 8 i.val ∧ optByte (none : Option (Fin n)) = 0xFF) ∧
    ∀ q : Quad, quadBytes q = be32 q.toNat) ∧
  (∀ g : Settings, g.bytes = be16 g.divisor ++
      [match g.parity with | .none => 0 | .even => 1 | .odd => 2, if g.twoStops then 2 else 1,
        match g.source with | .cd => 0 | .activity => 1 | .either => 2,
        match g.polarity with | .activeHigh => 0 | .activeLow => 1,
        BitVec.ofNat 8 g.jamLimit, BitVec.ofNat 8 g.keyUpField, BitVec.ofNat 8 g.turnField, BitVec.ofNat 8 g.slotField,
        BitVec.ofNat 8 g.stagger, BitVec.ofNat 8 g.retryBase] ++
      be16 g.beaconInterval ++ be32 g.period ++ be32 g.offset ++ be32 g.length) ∧
  (∀ o : OwnStation, o.call.length ≤ 8 → o.bytes = o.call ++ List.replicate (8 - o.call.length) 0x20 ++
      [match o.defaultRoute with | none => 0xFF | some i => BitVec.ofNat 8 i.val, BitVec.ofNat 8 o.enterEntries] ++
      be16 o.enterBlocks ++ be16 o.leaveEntries ++ be16 o.leaveBlocks ++ be16 o.holdTime ++
      [BitVec.ofNat 8 o.holdCutoff.val, if o.reholdMode then 1 else 0, if o.releaseMode then 1 else 0,
        BitVec.ofNat 8 o.reholdLead] ++ be16 o.fullBackoff) ∧
  (∀ (g : Settings) (n m : Nat),
      let e := (n + g.period - g.offset) % g.period
      (g.period = 0 → g.window n m = .none) ∧
      (g.offset < g.period → e < g.length → g.window n m = .opened (g.length * 1000 - (e * 1000 + m))) ∧
      (g.offset < g.period → g.length ≤ e → g.window n m = .closed (g.period - e))) ∧
  (∀ (s : State) (h : Handle) (i : Index) (st : Station) (c : Chan),
    (s.entryRecord h).length = 63 ∧ (s.summary h).length = 24 ∧ (s.stationRecord i st).length = 30 ∧
      (s.channelRecord c).length = 119 ∧ s.statusRecord.length = 10 ∧ s.clockRecord.length = 10 ∧
      s.own.bytes.length = 24 ∧ (s.chan c).settings.bytes.length = 26) ∧
  (∀ (s : State) (h : Handle), (∀ c, (s.entry h).destination.length ≤ 8 ∧ (s.entry h).key.call.length ≤ 8 ∧
        ((s.entry h).lastHop = some c ∨ (s.entry h).receivedFrom = some c → c.length ≤ 8)) →
      let e := s.entry h
      let at_ := fun o n => ((s.entryRecord h).drop o).take n
      let call := fun c : Call => c ++ List.replicate (8 - c.length) 0x20
      let yes := fun b : Bool => if b then [(1 : Byte)] else [0]
      at_ 0 1 = [BitVec.ofNat 8 h.val] ∧ at_ 1 1 = [e.state.code] ∧ at_ 2 1 = [e.role.code] ∧
        at_ 3 1 = [BitVec.ofNat 8 e.precedence.val] ∧ at_ 4 8 = call e.key.call ∧ at_ 12 2 = be16 e.key.serial ∧
        at_ 14 8 = call e.destination ∧ at_ 22 4 = quadBytes e.accession ∧ at_ 26 4 = be32 e.filedTime ∧
        at_ 30 2 = be16 e.textLength ∧ at_ 32 8 = call (e.receivedFrom.getD []) ∧
        (e.nextHop = none → at_ 40 1 = [0xFF]) ∧ (∀ i, e.nextHop = some i → at_ 40 1 = [BitVec.ofNat 8 i.val]) ∧
        (e.state = .engaged → at_ 41 1 = [optByte (s.engineOf h)]) ∧
        (e.state ≠ .engaged → at_ 41 1 = [optByte (e.nextHop.bind s.hopChannel)]) ∧
        at_ 42 8 = call (e.lastHop.getD []) ∧ at_ 50 1 = [BitVec.ofNat 8 e.attemptCount] ∧
        (e.notBefore = none → at_ 51 8 = [0, 0, 0, 0, 0, 0, 0, 0]) ∧
        (∀ q, e.notBefore = some q → at_ 51 8 = quadBytes q ++ quadBytes (q - s.time.counter)) ∧
        at_ 59 1 = [if e.state = .spent then 0xFF else e.lastOutcome.code] ∧
        at_ 60 1 = yes (e.cancelPending == some true) ∧ at_ 61 1 = yes e.changed ∧
        (∀ c : Chan, (∀ d, (s.chan d).engine.entry? = some h ↔ d = c) → s.engineOf h = some c) ∧
        (∀ i st, e.nextHop = some i → s.station i = some st → e.nextHop.bind s.hopChannel = some st.channel) ∧
        (e.state ≠ .ready → at_ 62 1 = [0]) ∧ (e.nextHop = none → at_ 62 1 = [0]) ∧
        (∀ i, e.nextHop = some i → s.station i = none → at_ 62 1 = [0]) ∧
        (∀ i st, e.state = .ready → e.nextHop = some i → s.station i = some st →
          at_ 62 1 = yes (s.covered st.channel e))) ∧
  (∀ (s : State) (i : Index) (st : Station), st.call.length ≤ 8 →
      let at_ := fun o n => ((s.stationRecord i st).drop o).take n
      let yes := fun b : Bool => if b then (1 : Byte) else 0
      let limit := fun n => if st.interval = 0 then [(0xFF : Byte), 0xFF] else be16 n
      at_ 0 1 = [BitVec.ofNat 8 i.val] ∧ at_ 1 8 = st.call ++ List.replicate (8 - st.call.length) 0x20 ∧
        at_ 9 1 = [BitVec.ofNat 8 st.channel.val] ∧
        at_ 10 2 = (match st.kind with | .direct => [0, 0xFF] | .via r => [1, BitVec.ofNat 8 r.val]) ∧
        at_ 12 2 = [optByte st.fallback, yes st.netControl] ∧ at_ 14 2 = be16 st.interval ∧
        at_ 16 3 = [BitVec.ofNat 8 st.sensitivity.val, yes st.forcedUnheard,
          match st.reach with | .heard => 0 | .unheard => 1] ∧
        at_ 19 2 = be16 st.heardAge ∧ at_ 21 1 = [BitVec.ofNat 8 st.confirmCount] ∧ at_ 22 2 = be16 st.holdRemaining ∧
        at_ 24 2 = [BitVec.ofNat 8 st.holdCutoff.val, yes (s.usable st)] ∧ at_ 26 4 = limit st.enterLimit ++ limit st.leaveLimit) ∧
  (∀ (s : State) (c : Chan),
      let x := s.chan c
      let g := x.settings
      let at_ := fun o n => ((s.channelRecord c).drop o).take n
      let yes := fun b : Bool => if b then (1 : Byte) else 0
      at_ 0 26 = g.bytes ∧ at_ 26 5 = [yes x.enabled, yes (x.enabled && x.cdActive), yes x.busy,
          yes x.transmitter.keyed, yes x.jammed] ∧
        at_ 31 4 = be16 x.clearTime ++ be16 x.busyLength ∧ at_ 35 1 = [BitVec.ofNat 8 g.bitsPerChar] ∧
        at_ 36 4 = be16 g.gapLimit ++ be16 g.receiptTimeout ∧
        at_ 40 3 = be16 x.silenceRemaining ++ [BitVec.ofNat 8 x.silenceCutoff.val] ∧
        (x.rehold = none → at_ 43 2 = [0xFF, 0xFF]) ∧ (∀ n, x.rehold = some n → at_ 43 2 = be16 n) ∧
        (x.owed = some .hold → at_ 45 1 = [2]) ∧ (x.owed = some .release → at_ 45 1 = [3]) ∧
        (x.owed = none → at_ 45 1 = if ∃ f ∈ x.control, f.isOwn = true then [1] else [0]) ∧
        at_ 46 1 = [match x.receiver.phase with | .hunt => 0 | .head => 1 | .body => 2 | .tail => 3] ∧
        (x.receiver.reservation = none → at_ 47 2 = [0xFF, 0xFF]) ∧
        (∀ h, x.receiver.reservation = some h → at_ 47 2 = [0, BitVec.ofNat 8 h.val]) ∧
        at_ 49 1 = [BitVec.ofNat 8 x.control.length] ∧
        (∀ n f, n < 4 → x.control[n]? = some f → at_ (50 + 12 * n) 12 = match f with
          | .receipt to_ _ v => [1] ++ padCall to_ ++ [v.code, 0, 0]
          | .ownHold t q => [if t = 0 then 3 else 2] ++ allStationsField ++ [BitVec.ofNat 8 q.val] ++ be16 t) ∧
        (∀ n, n < 4 → x.control[n]? = none →
          at_ (50 + 12 * n) 12 = [0] ++ List.replicate 8 0x20 ++ [0xFF, 0, 0]) ∧
        at_ 98 2 = (match x.transmitter with
          | .idle => [0, 0]
          | .clearing k _ => [1, k.code]
          | .keying w _ => [2, w.claimant.code]
          | .sending w _ _ => [3, w.claimant.code]
          | .brk _ _ _ _ => [4, 0]) ∧
        (x.beacon = .off → at_ 100 5 = [0, 0, 0, 0, 0]) ∧ (x.beacon = .due → at_ 100 5 = [2, 0, 0, 0, 0]) ∧
        (∀ b, x.beacon = .counting b →
          at_ 100 5 = [1] ++ be32 (g.beaconInterval * 1000 - (s.time.counter - b).toNat)) ∧
        (x.beacon = .onAir → at_ 101 4 = [0, 0, 0, 0]) ∧
        at_ 105 8 = (match x.engine with
          | .idle => [0, 0xFF, 0xFF, 0, 0, 0xFF, 0, 0]
          | .staged h w _ => [1, 0, BitVec.ofNat 8 h.val] ++ be16 w ++ [0xFF, 0, 0]
          | .sending h r => [2, 0, BitVec.ofNat 8 h.val, 0, 0] ++ [match r with | none => 0xFF | some v => v.code] ++ [0, 0]
          | .awaiting h n => [3, 0, BitVec.ofNat 8 h.val, 0, 0, 0xFF] ++ be16 n) ∧
        at_ 113 1 = [yes x.abortPause] ∧
        at_ 114 5 = (match s.window c with
          | .none => [0, 0, 0, 0, 0] | .closed n => [1] ++ be32 n | .opened n => [2] ++ be32 n)) ∧
  (∀ s : State,
      let at_ := fun o n => (s.statusRecord.drop o).take n
      let bit := fun (b : Bool) (v : Nat) => if b then v else 0
      let bits := fun p : Chan → Bool => bit (p 0) 1 + bit (p 1) 2 + bit (p 2) 4 + bit (p 3) 8
      at_ 0 1 = [match s.congestion with | .normal => 0 | .congested => 1] ∧ at_ 1 2 = be16 s.freeEntries ∧
        at_ 3 2 = be16 s.freeBlocks ∧
        at_ 5 1 = [BitVec.ofNat 8 (bit s.congestionChanged 1 + bit s.reachChanged 2 + 4 * bits fun c => (s.chan c).jamChanged)] ∧
        at_ 6 1 = [if s.changedPending then 1 else 0] ∧ at_ 7 1 = [BitVec.ofNat 8 (bits fun c => (s.chan c).enabled)] ∧
        at_ 8 1 = [BitVec.ofNat 8 (bits fun c => (s.chan c).jammed)] ∧ at_ 9 1 = [if s.own.call = [] then 0 else 1]) ∧
  (∀ w n, w < 65536 → be16 w = [BitVec.ofNat 8 (w / 256), BitVec.ofNat 8 (w % 256)] ∧ (n < 4294967296 →
      be32 n = [BitVec.ofNat 8 (n / 16777216), BitVec.ofNat 8 (n / 65536), BitVec.ofNat 8 (n / 256), BitVec.ofNat 8 n]))
end

