-- ==== Sys2Proof/Laws/State.lean ====
section
/-! SUPPORT. One lemma for each field of the state under each update, so that no later proof unfolds a record update; and
what reading a table gives after writing it. -/

namespace Sys2Proof.Machine

variable (s : State)

/-! ## Tables: reading after writing -/

@[simp] theorem State.entry_setEntry (h k : Handle) (e : Entry) :
    (s.setEntry h e).entry k = if h = k then e else s.entry k := by
  simp [State.entry, State.setEntry, Vector.getElem_set, Fin.ext_iff]

@[simp] theorem State.entry_updEntry (h k : Handle) (f : Entry → Entry) :
    (s.updEntry h f).entry k = if h = k then f (s.entry h) else s.entry k := by
  simp [State.updEntry]

@[simp] theorem State.station_setStation (i j : Index) (r : Option Station) :
    (s.setStation i r).station j = if i = j then r else s.station j := by
  simp [State.station, State.setStation, Vector.getElem_set, Fin.ext_iff]

@[simp] theorem State.station_updStation (i j : Index) (f : Station → Station) :
    (s.updStation i f).station j = if i = j then (s.station i).map f else s.station j := by
  simp [State.updStation]

@[simp] theorem State.chan_setChan (c d : Chan) (x : Channel) :
    (s.setChan c x).chan d = if c = d then x else s.chan d := by
  simp [State.chan, State.setChan, Vector.getElem_set, Fin.ext_iff]

@[simp] theorem State.chan_updChan (c d : Chan) (f : Channel → Channel) :
    (s.updChan c f).chan d = if c = d then f (s.chan c) else s.chan d := by
  simp [State.updChan]

theorem State.chan_updChan_same (c : Chan) (f : Channel → Channel) : (s.updChan c f).chan c = f (s.chan c) := by
  simp

theorem State.chan_updChan_other {c d : Chan} (h : c ≠ d) (f : Channel → Channel) :
    (s.updChan c f).chan d = s.chan d := by
  simp [h]

/-- A vector whose elements are each changed, read at a place. -/
@[simp] theorem getElem_mapVector {α β : Type} {n : Nat} (f : α → β) (v : Vector α n) (i : Nat) (h : i < n) :
    (mapVector f v)[i] = f v[i] := by
  simp [mapVector]

/-! ## setEntry -/

@[simp] theorem State.setEntry_response (h : Handle) (e : Entry) : (s.setEntry h e).response = s.response := rfl
@[simp] theorem State.setEntry_congestionChanged (h : Handle) (e : Entry) : (s.setEntry h e).congestionChanged = s.congestionChanged := rfl
@[simp] theorem State.setEntry_reachChanged (h : Handle) (e : Entry) : (s.setEntry h e).reachChanged = s.reachChanged := rfl
@[simp] theorem State.setEntry_accessionCounter (h : Handle) (e : Entry) : (s.setEntry h e).accessionCounter = s.accessionCounter := rfl
@[simp] theorem State.setEntry_ownSerial (h : Handle) (e : Entry) : (s.setEntry h e).ownSerial = s.ownSerial := rfl
@[simp] theorem State.setEntry_freeEntries (h : Handle) (e : Entry) : (s.setEntry h e).freeEntries = s.freeEntries := rfl
@[simp] theorem State.setEntry_freeBlocks (h : Handle) (e : Entry) : (s.setEntry h e).freeBlocks = s.freeBlocks := rfl
@[simp] theorem State.setEntry_stations (h : Handle) (e : Entry) : (s.setEntry h e).stations = s.stations := rfl
@[simp] theorem State.setEntry_own (h : Handle) (e : Entry) : (s.setEntry h e).own = s.own := rfl
@[simp] theorem State.setEntry_unrouted (h : Handle) (e : Entry) : (s.setEntry h e).unrouted = s.unrouted := rfl
@[simp] theorem State.setEntry_congestion (h : Handle) (e : Entry) : (s.setEntry h e).congestion = s.congestion := rfl
@[simp] theorem State.setEntry_channels (h : Handle) (e : Entry) : (s.setEntry h e).channels = s.channels := rfl
@[simp] theorem State.setEntry_classes (h : Handle) (e : Entry) : (s.setEntry h e).classes = s.classes := rfl
@[simp] theorem State.setEntry_time (h : Handle) (e : Entry) : (s.setEntry h e).time = s.time := rfl
@[simp] theorem State.setEntry_freeCount (h : Handle) (e : Entry) : (s.setEntry h e).freeCount = s.freeCount := rfl
@[simp] theorem State.setEntry_pending (h : Handle) (e : Entry) : (s.setEntry h e).pending = s.pending := rfl
@[simp] theorem State.setEntry_station (h : Handle) (e : Entry) (k : Index) : (s.setEntry h e).station k = s.station k := rfl
@[simp] theorem State.setEntry_chan (h : Handle) (e : Entry) (k : Chan) : (s.setEntry h e).chan k = s.chan k := rfl

/-! ## updEntry -/

@[simp] theorem State.updEntry_response (h : Handle) (f : Entry → Entry) : (s.updEntry h f).response = s.response := rfl
@[simp] theorem State.updEntry_congestionChanged (h : Handle) (f : Entry → Entry) : (s.updEntry h f).congestionChanged = s.congestionChanged := rfl
@[simp] theorem State.updEntry_reachChanged (h : Handle) (f : Entry → Entry) : (s.updEntry h f).reachChanged = s.reachChanged := rfl
@[simp] theorem State.updEntry_accessionCounter (h : Handle) (f : Entry → Entry) : (s.updEntry h f).accessionCounter = s.accessionCounter := rfl
@[simp] theorem State.updEntry_ownSerial (h : Handle) (f : Entry → Entry) : (s.updEntry h f).ownSerial = s.ownSerial := rfl
@[simp] theorem State.updEntry_freeEntries (h : Handle) (f : Entry → Entry) : (s.updEntry h f).freeEntries = s.freeEntries := rfl
@[simp] theorem State.updEntry_freeBlocks (h : Handle) (f : Entry → Entry) : (s.updEntry h f).freeBlocks = s.freeBlocks := rfl
@[simp] theorem State.updEntry_stations (h : Handle) (f : Entry → Entry) : (s.updEntry h f).stations = s.stations := rfl
@[simp] theorem State.updEntry_own (h : Handle) (f : Entry → Entry) : (s.updEntry h f).own = s.own := rfl
@[simp] theorem State.updEntry_unrouted (h : Handle) (f : Entry → Entry) : (s.updEntry h f).unrouted = s.unrouted := rfl
@[simp] theorem State.updEntry_congestion (h : Handle) (f : Entry → Entry) : (s.updEntry h f).congestion = s.congestion := rfl
@[simp] theorem State.updEntry_channels (h : Handle) (f : Entry → Entry) : (s.updEntry h f).channels = s.channels := rfl
@[simp] theorem State.updEntry_classes (h : Handle) (f : Entry → Entry) : (s.updEntry h f).classes = s.classes := rfl
@[simp] theorem State.updEntry_time (h : Handle) (f : Entry → Entry) : (s.updEntry h f).time = s.time := rfl
@[simp] theorem State.updEntry_freeCount (h : Handle) (f : Entry → Entry) : (s.updEntry h f).freeCount = s.freeCount := rfl
@[simp] theorem State.updEntry_pending (h : Handle) (f : Entry → Entry) : (s.updEntry h f).pending = s.pending := rfl
@[simp] theorem State.updEntry_station (h : Handle) (f : Entry → Entry) (k : Index) : (s.updEntry h f).station k = s.station k := rfl
@[simp] theorem State.updEntry_chan (h : Handle) (f : Entry → Entry) (k : Chan) : (s.updEntry h f).chan k = s.chan k := rfl

/-! ## setStation -/

@[simp] theorem State.setStation_response (i : Index) (r : Option Station) : (s.setStation i r).response = s.response := rfl
@[simp] theorem State.setStation_congestionChanged (i : Index) (r : Option Station) : (s.setStation i r).congestionChanged = s.congestionChanged := rfl
@[simp] theorem State.setStation_reachChanged (i : Index) (r : Option Station) : (s.setStation i r).reachChanged = s.reachChanged := rfl
@[simp] theorem State.setStation_entries (i : Index) (r : Option Station) : (s.setStation i r).entries = s.entries := rfl
@[simp] theorem State.setStation_accessionCounter (i : Index) (r : Option Station) : (s.setStation i r).accessionCounter = s.accessionCounter := rfl
@[simp] theorem State.setStation_ownSerial (i : Index) (r : Option Station) : (s.setStation i r).ownSerial = s.ownSerial := rfl
@[simp] theorem State.setStation_freeEntries (i : Index) (r : Option Station) : (s.setStation i r).freeEntries = s.freeEntries := rfl
@[simp] theorem State.setStation_freeBlocks (i : Index) (r : Option Station) : (s.setStation i r).freeBlocks = s.freeBlocks := rfl
@[simp] theorem State.setStation_own (i : Index) (r : Option Station) : (s.setStation i r).own = s.own := rfl
@[simp] theorem State.setStation_unrouted (i : Index) (r : Option Station) : (s.setStation i r).unrouted = s.unrouted := rfl
@[simp] theorem State.setStation_congestion (i : Index) (r : Option Station) : (s.setStation i r).congestion = s.congestion := rfl
@[simp] theorem State.setStation_channels (i : Index) (r : Option Station) : (s.setStation i r).channels = s.channels := rfl
@[simp] theorem State.setStation_classes (i : Index) (r : Option Station) : (s.setStation i r).classes = s.classes := rfl
@[simp] theorem State.setStation_time (i : Index) (r : Option Station) : (s.setStation i r).time = s.time := rfl
@[simp] theorem State.setStation_freeCount (i : Index) (r : Option Station) : (s.setStation i r).freeCount = s.freeCount := rfl
@[simp] theorem State.setStation_pending (i : Index) (r : Option Station) : (s.setStation i r).pending = s.pending := rfl
@[simp] theorem State.setStation_entry (i : Index) (r : Option Station) (k : Handle) : (s.setStation i r).entry k = s.entry k := rfl
@[simp] theorem State.setStation_chan (i : Index) (r : Option Station) (k : Chan) : (s.setStation i r).chan k = s.chan k := rfl

/-! ## updStation -/

@[simp] theorem State.updStation_response (i : Index) (f : Station → Station) : (s.updStation i f).response = s.response := rfl
@[simp] theorem State.updStation_congestionChanged (i : Index) (f : Station → Station) : (s.updStation i f).congestionChanged = s.congestionChanged := rfl
@[simp] theorem State.updStation_reachChanged (i : Index) (f : Station → Station) : (s.updStation i f).reachChanged = s.reachChanged := rfl
@[simp] theorem State.updStation_entries (i : Index) (f : Station → Station) : (s.updStation i f).entries = s.entries := rfl
@[simp] theorem State.updStation_accessionCounter (i : Index) (f : Station → Station) : (s.updStation i f).accessionCounter = s.accessionCounter := rfl
@[simp] theorem State.updStation_ownSerial (i : Index) (f : Station → Station) : (s.updStation i f).ownSerial = s.ownSerial := rfl
@[simp] theorem State.updStation_freeEntries (i : Index) (f : Station → Station) : (s.updStation i f).freeEntries = s.freeEntries := rfl
@[simp] theorem State.updStation_freeBlocks (i : Index) (f : Station → Station) : (s.updStation i f).freeBlocks = s.freeBlocks := rfl
@[simp] theorem State.updStation_own (i : Index) (f : Station → Station) : (s.updStation i f).own = s.own := rfl
@[simp] theorem State.updStation_unrouted (i : Index) (f : Station → Station) : (s.updStation i f).unrouted = s.unrouted := rfl
@[simp] theorem State.updStation_congestion (i : Index) (f : Station → Station) : (s.updStation i f).congestion = s.congestion := rfl
@[simp] theorem State.updStation_channels (i : Index) (f : Station → Station) : (s.updStation i f).channels = s.channels := rfl
@[simp] theorem State.updStation_classes (i : Index) (f : Station → Station) : (s.updStation i f).classes = s.classes := rfl
@[simp] theorem State.updStation_time (i : Index) (f : Station → Station) : (s.updStation i f).time = s.time := rfl
@[simp] theorem State.updStation_freeCount (i : Index) (f : Station → Station) : (s.updStation i f).freeCount = s.freeCount := rfl
@[simp] theorem State.updStation_pending (i : Index) (f : Station → Station) : (s.updStation i f).pending = s.pending := rfl
@[simp] theorem State.updStation_entry (i : Index) (f : Station → Station) (k : Handle) : (s.updStation i f).entry k = s.entry k := rfl
@[simp] theorem State.updStation_chan (i : Index) (f : Station → Station) (k : Chan) : (s.updStation i f).chan k = s.chan k := rfl

/-! ## setChan -/

@[simp] theorem State.setChan_response (c : Chan) (x : Channel) : (s.setChan c x).response = s.response := rfl
@[simp] theorem State.setChan_congestionChanged (c : Chan) (x : Channel) : (s.setChan c x).congestionChanged = s.congestionChanged := rfl
@[simp] theorem State.setChan_reachChanged (c : Chan) (x : Channel) : (s.setChan c x).reachChanged = s.reachChanged := rfl
@[simp] theorem State.setChan_entries (c : Chan) (x : Channel) : (s.setChan c x).entries = s.entries := rfl
@[simp] theorem State.setChan_accessionCounter (c : Chan) (x : Channel) : (s.setChan c x).accessionCounter = s.accessionCounter := rfl
@[simp] theorem State.setChan_ownSerial (c : Chan) (x : Channel) : (s.setChan c x).ownSerial = s.ownSerial := rfl
@[simp] theorem State.setChan_freeEntries (c : Chan) (x : Channel) : (s.setChan c x).freeEntries = s.freeEntries := rfl
@[simp] theorem State.setChan_freeBlocks (c : Chan) (x : Channel) : (s.setChan c x).freeBlocks = s.freeBlocks := rfl
@[simp] theorem State.setChan_stations (c : Chan) (x : Channel) : (s.setChan c x).stations = s.stations := rfl
@[simp] theorem State.setChan_own (c : Chan) (x : Channel) : (s.setChan c x).own = s.own := rfl
@[simp] theorem State.setChan_unrouted (c : Chan) (x : Channel) : (s.setChan c x).unrouted = s.unrouted := rfl
@[simp] theorem State.setChan_congestion (c : Chan) (x : Channel) : (s.setChan c x).congestion = s.congestion := rfl
@[simp] theorem State.setChan_classes (c : Chan) (x : Channel) : (s.setChan c x).classes = s.classes := rfl
@[simp] theorem State.setChan_time (c : Chan) (x : Channel) : (s.setChan c x).time = s.time := rfl
@[simp] theorem State.setChan_freeCount (c : Chan) (x : Channel) : (s.setChan c x).freeCount = s.freeCount := rfl
@[simp] theorem State.setChan_pending (c : Chan) (x : Channel) : (s.setChan c x).pending = s.pending := rfl
@[simp] theorem State.setChan_entry (c : Chan) (x : Channel) (k : Handle) : (s.setChan c x).entry k = s.entry k := rfl
@[simp] theorem State.setChan_station (c : Chan) (x : Channel) (k : Index) : (s.setChan c x).station k = s.station k := rfl

/-! ## updChan -/

@[simp] theorem State.updChan_response (c : Chan) (f : Channel → Channel) : (s.updChan c f).response = s.response := rfl
@[simp] theorem State.updChan_congestionChanged (c : Chan) (f : Channel → Channel) : (s.updChan c f).congestionChanged = s.congestionChanged := rfl
@[simp] theorem State.updChan_reachChanged (c : Chan) (f : Channel → Channel) : (s.updChan c f).reachChanged = s.reachChanged := rfl
@[simp] theorem State.updChan_entries (c : Chan) (f : Channel → Channel) : (s.updChan c f).entries = s.entries := rfl
@[simp] theorem State.updChan_accessionCounter (c : Chan) (f : Channel → Channel) : (s.updChan c f).accessionCounter = s.accessionCounter := rfl
@[simp] theorem State.updChan_ownSerial (c : Chan) (f : Channel → Channel) : (s.updChan c f).ownSerial = s.ownSerial := rfl
@[simp] theorem State.updChan_freeEntries (c : Chan) (f : Channel → Channel) : (s.updChan c f).freeEntries = s.freeEntries := rfl
@[simp] theorem State.updChan_freeBlocks (c : Chan) (f : Channel → Channel) : (s.updChan c f).freeBlocks = s.freeBlocks := rfl
@[simp] theorem State.updChan_stations (c : Chan) (f : Channel → Channel) : (s.updChan c f).stations = s.stations := rfl
@[simp] theorem State.updChan_own (c : Chan) (f : Channel → Channel) : (s.updChan c f).own = s.own := rfl
@[simp] theorem State.updChan_unrouted (c : Chan) (f : Channel → Channel) : (s.updChan c f).unrouted = s.unrouted := rfl
@[simp] theorem State.updChan_congestion (c : Chan) (f : Channel → Channel) : (s.updChan c f).congestion = s.congestion := rfl
@[simp] theorem State.updChan_classes (c : Chan) (f : Channel → Channel) : (s.updChan c f).classes = s.classes := rfl
@[simp] theorem State.updChan_time (c : Chan) (f : Channel → Channel) : (s.updChan c f).time = s.time := rfl
@[simp] theorem State.updChan_freeCount (c : Chan) (f : Channel → Channel) : (s.updChan c f).freeCount = s.freeCount := rfl
@[simp] theorem State.updChan_pending (c : Chan) (f : Channel → Channel) : (s.updChan c f).pending = s.pending := rfl
@[simp] theorem State.updChan_entry (c : Chan) (f : Channel → Channel) (k : Handle) : (s.updChan c f).entry k = s.entry k := rfl
@[simp] theorem State.updChan_station (c : Chan) (f : Channel → Channel) (k : Index) : (s.updChan c f).station k = s.station k := rfl

/-! ## answer -/

@[simp] theorem State.answer_congestionChanged (r : Result) (d : List Byte) : (s.answer r d).congestionChanged = s.congestionChanged := rfl
@[simp] theorem State.answer_reachChanged (r : Result) (d : List Byte) : (s.answer r d).reachChanged = s.reachChanged := rfl
@[simp] theorem State.answer_entries (r : Result) (d : List Byte) : (s.answer r d).entries = s.entries := rfl
@[simp] theorem State.answer_accessionCounter (r : Result) (d : List Byte) : (s.answer r d).accessionCounter = s.accessionCounter := rfl
@[simp] theorem State.answer_ownSerial (r : Result) (d : List Byte) : (s.answer r d).ownSerial = s.ownSerial := rfl
@[simp] theorem State.answer_freeEntries (r : Result) (d : List Byte) : (s.answer r d).freeEntries = s.freeEntries := rfl
@[simp] theorem State.answer_freeBlocks (r : Result) (d : List Byte) : (s.answer r d).freeBlocks = s.freeBlocks := rfl
@[simp] theorem State.answer_stations (r : Result) (d : List Byte) : (s.answer r d).stations = s.stations := rfl
@[simp] theorem State.answer_own (r : Result) (d : List Byte) : (s.answer r d).own = s.own := rfl
@[simp] theorem State.answer_unrouted (r : Result) (d : List Byte) : (s.answer r d).unrouted = s.unrouted := rfl
@[simp] theorem State.answer_congestion (r : Result) (d : List Byte) : (s.answer r d).congestion = s.congestion := rfl
@[simp] theorem State.answer_channels (r : Result) (d : List Byte) : (s.answer r d).channels = s.channels := rfl
@[simp] theorem State.answer_classes (r : Result) (d : List Byte) : (s.answer r d).classes = s.classes := rfl
@[simp] theorem State.answer_time (r : Result) (d : List Byte) : (s.answer r d).time = s.time := rfl
@[simp] theorem State.answer_freeCount (r : Result) (d : List Byte) : (s.answer r d).freeCount = s.freeCount := rfl
@[simp] theorem State.answer_pending (r : Result) (d : List Byte) : (s.answer r d).pending = s.pending := rfl
@[simp] theorem State.answer_entry (r : Result) (d : List Byte) (k : Handle) : (s.answer r d).entry k = s.entry k := rfl
@[simp] theorem State.answer_station (r : Result) (d : List Byte) (k : Index) : (s.answer r d).station k = s.station k := rfl
@[simp] theorem State.answer_chan (r : Result) (d : List Byte) (k : Chan) : (s.answer r d).chan k = s.chan k := rfl

/-! ## withPending -/

@[simp] theorem State.withPending_response (q : List Instr) : (s.withPending q).response = s.response := rfl
@[simp] theorem State.withPending_congestionChanged (q : List Instr) : (s.withPending q).congestionChanged = s.congestionChanged := rfl
@[simp] theorem State.withPending_reachChanged (q : List Instr) : (s.withPending q).reachChanged = s.reachChanged := rfl
@[simp] theorem State.withPending_entries (q : List Instr) : (s.withPending q).entries = s.entries := rfl
@[simp] theorem State.withPending_accessionCounter (q : List Instr) : (s.withPending q).accessionCounter = s.accessionCounter := rfl
@[simp] theorem State.withPending_ownSerial (q : List Instr) : (s.withPending q).ownSerial = s.ownSerial := rfl
@[simp] theorem State.withPending_freeEntries (q : List Instr) : (s.withPending q).freeEntries = s.freeEntries := rfl
@[simp] theorem State.withPending_freeBlocks (q : List Instr) : (s.withPending q).freeBlocks = s.freeBlocks := rfl
@[simp] theorem State.withPending_stations (q : List Instr) : (s.withPending q).stations = s.stations := rfl
@[simp] theorem State.withPending_own (q : List Instr) : (s.withPending q).own = s.own := rfl
@[simp] theorem State.withPending_unrouted (q : List Instr) : (s.withPending q).unrouted = s.unrouted := rfl
@[simp] theorem State.withPending_congestion (q : List Instr) : (s.withPending q).congestion = s.congestion := rfl
@[simp] theorem State.withPending_channels (q : List Instr) : (s.withPending q).channels = s.channels := rfl
@[simp] theorem State.withPending_classes (q : List Instr) : (s.withPending q).classes = s.classes := rfl
@[simp] theorem State.withPending_time (q : List Instr) : (s.withPending q).time = s.time := rfl
@[simp] theorem State.withPending_freeCount (q : List Instr) : (s.withPending q).freeCount = s.freeCount := rfl
@[simp] theorem State.withPending_entry (q : List Instr) (k : Handle) : (s.withPending q).entry k = s.entry k := rfl
@[simp] theorem State.withPending_station (q : List Instr) (k : Index) : (s.withPending q).station k = s.station k := rfl
@[simp] theorem State.withPending_chan (q : List Instr) (k : Chan) : (s.withPending q).chan k = s.chan k := rfl

/-! ## countFreed -/

@[simp] theorem State.countFreed_response (n : Nat) : (s.countFreed n).response = s.response := rfl
@[simp] theorem State.countFreed_congestionChanged (n : Nat) : (s.countFreed n).congestionChanged = s.congestionChanged := rfl
@[simp] theorem State.countFreed_reachChanged (n : Nat) : (s.countFreed n).reachChanged = s.reachChanged := rfl
@[simp] theorem State.countFreed_entries (n : Nat) : (s.countFreed n).entries = s.entries := rfl
@[simp] theorem State.countFreed_accessionCounter (n : Nat) : (s.countFreed n).accessionCounter = s.accessionCounter := rfl
@[simp] theorem State.countFreed_ownSerial (n : Nat) : (s.countFreed n).ownSerial = s.ownSerial := rfl
@[simp] theorem State.countFreed_stations (n : Nat) : (s.countFreed n).stations = s.stations := rfl
@[simp] theorem State.countFreed_own (n : Nat) : (s.countFreed n).own = s.own := rfl
@[simp] theorem State.countFreed_unrouted (n : Nat) : (s.countFreed n).unrouted = s.unrouted := rfl
@[simp] theorem State.countFreed_congestion (n : Nat) : (s.countFreed n).congestion = s.congestion := rfl
@[simp] theorem State.countFreed_channels (n : Nat) : (s.countFreed n).channels = s.channels := rfl
@[simp] theorem State.countFreed_classes (n : Nat) : (s.countFreed n).classes = s.classes := rfl
@[simp] theorem State.countFreed_time (n : Nat) : (s.countFreed n).time = s.time := rfl
@[simp] theorem State.countFreed_freeCount (n : Nat) : (s.countFreed n).freeCount = s.freeCount := rfl
@[simp] theorem State.countFreed_pending (n : Nat) : (s.countFreed n).pending = s.pending := rfl
@[simp] theorem State.countFreed_entry (n : Nat) (k : Handle) : (s.countFreed n).entry k = s.entry k := rfl
@[simp] theorem State.countFreed_station (n : Nat) (k : Index) : (s.countFreed n).station k = s.station k := rfl
@[simp] theorem State.countFreed_chan (n : Nat) (k : Chan) : (s.countFreed n).chan k = s.chan k := rfl

@[simp] theorem State.answer_response (r : Result) (d : List Byte) : (s.answer r d).response = ⟨r, d⟩ := rfl
@[simp] theorem State.withPending_pending (q : List Instr) : (s.withPending q).pending = q := rfl
@[simp] theorem State.countFreed_freeEntries (n : Nat) : (s.countFreed n).freeEntries = s.freeEntries + 1 := rfl
@[simp] theorem State.countFreed_freeBlocks (n : Nat) : (s.countFreed n).freeBlocks = s.freeBlocks + n := rfl

end Sys2Proof.Machine
end

