-- ==== Sys2Proof/Laws/Moved.lean ====
section
/-! SUPPORT. What routing, withdrawal, considerations and sweeps can do, said once: each of them is a `State.Moved`; what
the end of a command can do is a `State.Turned`. -/

namespace Sys2Proof.Machine

/-! ## The relations compose -/

theorem Entry.SameMessage.rfl' (e : Entry) : e.SameMessage e := by simp [Entry.SameMessage]

theorem Entry.SameMessage.trans {e f g : Entry} (h : e.SameMessage f) (k : f.SameMessage g) : e.SameMessage g := by
  obtain ⟨⟩ := e; obtain ⟨⟩ := f; obtain ⟨⟩ := g
  simp_all [Entry.SameMessage]

theorem Channel.SameButExchange.rfl' (x : Channel) : x.SameButExchange x := by simp [Channel.SameButExchange]

theorem Channel.SameButExchange.trans {x y z : Channel} (h : x.SameButExchange y) (k : y.SameButExchange z) :
    x.SameButExchange z := by
  obtain ⟨⟩ := x; obtain ⟨⟩ := y; obtain ⟨⟩ := z
  simp_all [Channel.SameButExchange]

theorem Channel.SameButExchange.enabled {x y : Channel} (h : x.SameButExchange y) : y.enabled = x.enabled := by
  rw [← h]

theorem State.Moved.refl (s : State) : s.Moved s :=
  ⟨rfl, fun _ => Entry.SameMessage.rfl' _, fun _ => Channel.SameButExchange.rfl' _, fun _ _ h => h⟩

theorem State.Moved.trans {s t u : State} (h : s.Moved t) (k : t.Moved u) : s.Moved u where
  rest := by
    have h1 := h.rest; have k1 := k.rest
    obtain ⟨⟩ := s; obtain ⟨⟩ := t; obtain ⟨⟩ := u
    simp_all
  entry := fun x => (h.entry x).trans (k.entry x)
  chan := fun c => (h.chan c).trans (k.chan c)
  idle := fun c e i => k.idle c (by rw [(h.chan c).enabled]; exact e) (h.idle c e i)

/-! ## One entry, one channel -/

theorem State.Moved.of_updEntry (s : State) (h : Handle) (f : Entry → Entry)
    (hf : (s.entry h).SameMessage (f (s.entry h))) : s.Moved (s.updEntry h f) where
  rest := rfl
  entry := fun k => by
    by_cases e : h = k
    · subst e; simpa using hf
    · simpa [e] using Entry.SameMessage.rfl' _
  chan := fun _ => Channel.SameButExchange.rfl' _
  idle := fun _ _ i => i

theorem State.Moved.of_updChan (s : State) (c : Chan) (f : Channel → Channel)
    (hf : (s.chan c).SameButExchange (f (s.chan c)))
    (hi : (s.chan c).enabled = false → (s.chan c).engine = .idle → (f (s.chan c)).engine = .idle) :
    s.Moved (s.updChan c f) where
  rest := rfl
  entry := fun _ => Entry.SameMessage.rfl' _
  chan := fun d => by
    by_cases e : c = d
    · subst e; simpa using hf
    · simpa [e] using Channel.SameButExchange.rfl' _
  idle := fun d en id => by
    by_cases e : c = d
    · subst e; simpa using hi en id
    · simpa [e] using id

theorem State.Moved.of_queue (s : State) (c : Chan) (f : Channel → List Handle) :
    s.Moved (s.updChan c fun x => { x with queue := f x }) :=
  .of_updChan s c _ (by simp [Channel.SameButExchange]) (fun _ h => h)

theorem State.Moved.of_unrouted (s : State) (q : List Handle) : s.Moved { s with unrouted := q } :=
  ⟨rfl, fun _ => Entry.SameMessage.rfl' _, fun _ => Channel.SameButExchange.rfl' _, fun _ _ h => h⟩

theorem State.Moved.forChans {f : Chan → State → State} (hf : ∀ (c : Chan) (s : State), s.Moved (f c s)) (s : State) :
    s.Moved (forChans f s) :=
  (((hf 0 s).trans (hf 1 _)).trans (hf 2 _)).trans (hf 3 _)

/-! ## Collections and placing (R27, R69) -/

theorem State.Moved.setCollection (s : State) (k : Collection) (q : List Handle) : s.Moved (s.setCollection k q) := by
  cases k with
  | queue c => exact .of_queue s c fun _ => q
  | unrouted => exact .of_unrouted s q

theorem State.Moved.join (s : State) (h : Handle) (k : Collection) : s.Moved (s.join h k) := .setCollection s k _

theorem State.Moved.leave (s : State) (h : Handle) : s.Moved (s.leave h) :=
  (State.Moved.of_unrouted s _).trans (.forChans (fun c s => .of_queue s c fun x => without h x.queue) _)

theorem State.Moved.place (s : State) (h : Handle) : s.Moved (s.place h) :=
  (State.Moved.of_updEntry s h _ (by simp [Entry.SameMessage])).trans (.join _ _ _)

/-! ## Endings and withdrawal (R35 to R41) -/

theorem State.Moved.closeEntry (s : State) (h : Handle) (st : EntryState) (o : LastOutcome) :
    s.Moved (s.closeEntry h st o) :=
  .of_updEntry s h _ (by simp [Entry.SameMessage])

theorem State.Moved.returnEntry (s : State) (h : Handle) (o : LastOutcome) : s.Moved (s.returnEntry h o) :=
  (State.Moved.of_updEntry s h _ (by simp [Entry.SameMessage])).trans (.place _ _)

theorem State.Moved.endReturned (s : State) (h : Handle) (o : LastOutcome) : s.Moved (s.endReturned h o) := by
  unfold State.endReturned
  split
  · exact .closeEntry ..
  · exact .returnEntry ..

theorem State.Moved.endRefused (s : State) (h : Handle) : s.Moved (s.endRefused h) := .closeEntry ..

theorem State.Moved.endRecorded (s : State) (h : Handle) (v : Verdict) : s.Moved (s.endRecorded h v) := by
  cases v
  · exact .closeEntry ..
  · exact .closeEntry ..
  · exact .endRefused ..
  · exact .endReturned ..

theorem State.Moved.idleEngine (c : Chan) (s : State) : s.Moved (idleEngine c s) :=
  .of_updChan s c _ (by simp [Channel.SameButExchange]) (fun _ _ => rfl)

theorem State.Moved.withdraw (c : Chan) (s : State) : s.Moved (withdraw c s) := by
  unfold Machine.withdraw
  split
  · exact (State.Moved.idleEngine c s).trans (.returnEntry ..)
  · exact .refl s

theorem State.Moved.withdrawIf (test : State → Entry → Bool) (c : Chan) (s : State) :
    s.Moved (withdrawIf test c s) := by
  unfold Machine.withdrawIf
  split
  · split
    · exact .withdraw c s
    · exact .refl s
  · exact .refl s

theorem State.Moved.endExchange (c : Chan) (s : State) : s.Moved (endExchange c s) := by
  unfold Machine.endExchange
  split
  · exact .refl s
  · exact .withdraw c s
  · exact (State.Moved.idleEngine c s).trans (.endRecorded ..)
  · exact (State.Moved.idleEngine c s).trans (.endReturned ..)
  · exact (State.Moved.idleEngine c s).trans (.endReturned ..)

/-! ## Considerations and sweeps (R71 to R73, R142, R143) -/

theorem State.Moved.engage (c : Chan) (h : Handle) (s : State) (en : (s.chan c).enabled = true) :
    s.Moved (engage c h s) := by
  have h1 := (State.Moved.leave s h).trans (State.Moved.of_updEntry (s.leave h) h
    (fun e => { e with state := .engaged, lastHop := s.hopCall e.nextHop, cancelPending := some false })
    (by simp [Entry.SameMessage]))
  have h2 := State.Moved.of_updChan _ c (fun k =>
    { k with engine := .staged h (s.waitOf c (s.entry h)) (s.needOf c (s.entry h)) })
    (by simp [Channel.SameButExchange]) (fun off => by rw [(h1.chan c).enabled, en] at off; cases off)
  exact h1.trans h2

theorem State.Moved.failOversize (h : Handle) (s : State) : s.Moved (failOversize h s) :=
  (State.Moved.leave s h).trans (.closeEntry ..)

theorem State.Moved.walk (c : Chan) (q : List Handle) :
    ∀ s : State, (s.chan c).enabled = true → s.Moved (walk c q s) := by
  induction q with
  | nil => exact fun s _ => .refl s
  | cons h q ih =>
    intro s en
    simp only [Machine.walk]
    split
    · exact ih s en
    · split
      · exact (State.Moved.failOversize h s).trans
          (ih _ (by rw [((State.Moved.failOversize h s).chan c).enabled]; exact en))
      · split
        · exact .engage c h s en
        · exact ih s en

theorem State.Moved.consider (c : Chan) (s : State) : s.Moved (consider c s) := by
  unfold Machine.consider
  split
  · rename_i h
    exact .walk c _ s (by simp [Channel.considers] at h; exact h.1.1.2)
  · exact .refl s

theorem State.Moved.considerAll (s : State) : s.Moved (considerAll s) := .forChans State.Moved.consider s

theorem State.Moved.sweepEntry (p : Collection × Handle) (s : State) : s.Moved (sweepEntry p s) := by
  unfold Machine.sweepEntry
  have h1 := State.Moved.of_updEntry s p.2 (fun e => { e with nextHop := s.route (s.entry p.2) })
    (by simp [Entry.SameMessage])
  simp only
  split
  · exact h1
  · exact (h1.trans (.leave ..)).trans (.join ..)

theorem State.Moved.sweepEntries (s : State) : s.Moved (sweepEntries s) := by
  unfold Machine.sweepEntries
  generalize s.waiting = q
  induction q generalizing s with
  | nil => exact .refl s
  | cons p q ih => exact (State.Moved.sweepEntry p s).trans (ih _)

theorem State.Moved.sweep (s : State) : s.Moved (sweep s) :=
  (State.Moved.sweepEntries s).trans (.forChans (fun c s => .withdrawIf _ c s) _)

end Sys2Proof.Machine
end

