-- ==== Sys2Proof/Laws/Ops.lean ====
section
/-! SUPPORT. Searches, joining and leaving a collection, allocation, and the writing of a serial, each said once. -/

namespace Sys2Proof.Machine

/-! ## Searches -/

/-- A search of a vector finds the lowest place that satisfies the test. -/
theorem findPlace_some {α : Type} {n : Nat} {p : α → Bool} {v : Vector α n} {i : Fin n} (h : findPlace p v = some i) :
    p v[i.val] = true ∧ ∀ j : Fin n, j < i → p v[j.val] = false := by
  simp only [findPlace, Option.bind_eq_some_iff] at h
  obtain ⟨k, hk, h⟩ := h
  split at h
  · cases h
    obtain ⟨h1, h2, h3⟩ := List.findIdx?_eq_some_iff_getElem.1 hk
    refine ⟨by simpa using h2, fun j hj => ?_⟩
    simpa using h3 j.val hj
  · cases h

/-- A search of a vector finds nothing exactly when no element satisfies the test. -/
theorem findPlace_none {α : Type} {n : Nat} {p : α → Bool} {v : Vector α n} :
    findPlace p v = none ↔ ∀ i : Fin n, p v[i.val] = false := by
  simp only [findPlace, Option.bind_eq_none_iff]
  constructor
  · intro h i
    by_contra hp
    have : (v.toList.findIdx? p).isSome := by
      rw [List.findIdx?_isSome]
      exact List.any_eq_true.2 ⟨v[i.val], by simp, by simpa using hp⟩
    obtain ⟨k, hk⟩ := Option.isSome_iff_exists.1 this
    have hlt := (List.findIdx?_eq_some_iff_getElem.1 hk).1
    simp at hlt
    have := h k hk
    simp [hlt] at this
  · intro h k hk
    obtain ⟨h1, h2, -⟩ := List.findIdx?_eq_some_iff_getElem.1 hk
    simp at h1
    have := h ⟨k, h1⟩
    simp at h2 this
    simp [this] at h2

theorem State.findEntry_some {s : State} {p : Entry → Bool} {h : Handle} (e : s.findEntry p = some h) :
    p (s.entry h) = true ∧ ∀ k : Handle, k < h → p (s.entry k) = false := findPlace_some e

theorem State.findEntry_none {s : State} {p : Entry → Bool} :
    s.findEntry p = none ↔ ∀ h : Handle, p (s.entry h) = false := findPlace_none

/-- The four channels. -/
theorem chan_cases (c : Chan) : c = 0 ∨ c = 1 ∨ c = 2 ∨ c = 3 := by revert c; decide

/-- The lowest channel that satisfies a test. -/
theorem findChan_some {p : Chan → Bool} {c : Chan} (h : findChan p = some c) :
    p c = true ∧ ∀ d : Chan, d < c → p d = false := by
  unfold findChan at h
  split at h
  · cases h; exact ⟨by assumption, fun d hd => by rcases chan_cases d with rfl | rfl | rfl | rfl <;> cases hd⟩
  · split at h
    · cases h
      refine ⟨by assumption, fun d hd => ?_⟩
      rcases chan_cases d with rfl | rfl | rfl | rfl <;> simp_all
    · split at h
      · cases h
        refine ⟨by assumption, fun d hd => ?_⟩
        rcases chan_cases d with rfl | rfl | rfl | rfl <;> simp_all
      · split at h
        · cases h
          refine ⟨by assumption, fun d hd => ?_⟩
          rcases chan_cases d with rfl | rfl | rfl | rfl <;> simp_all
        · cases h

theorem findChan_none {p : Chan → Bool} : findChan p = none ↔ ∀ c, p c = false := by
  unfold findChan
  constructor
  · intro h c
    split at h <;> [cases h; skip]
    split at h <;> [cases h; skip]
    split at h <;> [cases h; skip]
    split at h <;> [cases h; skip]
    rcases chan_cases c with rfl | rfl | rfl | rfl <;> simp_all
  · intro h; simp [h]

/-! ## Collections (R69) -/

theorem insertInOrder_perm (b : Handle → Handle → Bool) (h : Handle) (q : List Handle) :
    (insertInOrder b h q).Perm (h :: q) := by
  induction q with
  | nil => exact .refl _
  | cons x q ih =>
    simp only [insertInOrder]
    split
    · exact .refl _
    · exact (List.Perm.cons x ih).trans (.swap h x q)

/-- A handle put into a list is in it, and the others stand as they did. -/
theorem without_insertInOrder (b : Handle → Handle → Bool) (h : Handle) {q : List Handle} (n : h ∉ q) :
    without h (insertInOrder b h q) = q := by
  induction q with
  | nil => simp [insertInOrder, without]
  | cons x q ih =>
    have hx : x ≠ h := fun e => n (by simp [e])
    have hq : h ∉ q := fun e => n (by simp [e])
    have hw : without h q = q := by
      simp only [without, List.filter_eq_self]
      exact fun a ha => by simpa using fun e : a = h => hq (e ▸ ha)
    simp only [insertInOrder]
    split
    · simp [without] at hw ⊢; simp [hx]; exact hw
    · simp only [without, List.filter_cons] at ih ⊢
      simp [hx]; simpa using ih hq

/-! ## Allocation (R9, R10) -/

/-- The entry that allocation hands over is FREE or SPENT (R9). -/
theorem chooseEntry_state {s : State} {h : Handle} (e : s.chooseEntry = some h) :
    (s.entry h).state = .free ∨ (s.entry h).state = .spent := by
  unfold State.chooseEntry at e
  split at e
  · rename_i k hk
    cases e
    exact .inl (by simpa using (State.findEntry_some hk).1)
  · simp only [Option.bind_eq_some_iff] at e
    obtain ⟨a, -, e⟩ := e
    have := (State.findEntry_some e).1
    exact .inr (by simp at this; exact this.1)

/-- What allocation can do, said once: it needs a FREE or SPENT entry and enough blocks, hands the entry over as the
caller gave it with its accession and its block count, takes the blocks, and moves the accession counter (R9 to R11). -/
theorem allocate_spec {s t : State} {e : Entry} {h : Handle} (a : s.allocate e = some (h, t)) :
    s.chooseEntry = some h ∧ blocksFor e.textLength ≤ s.freeBlocks ∧
    t.entries = s.entries.set h.val { e with accession := s.accessionCounter, blockCount := blocksFor e.textLength } ∧
    { t with entries := s.entries, accessionCounter := s.accessionCounter } =
      { s with freeEntries := s.freeEntries - 1, freeBlocks := s.freeBlocks - blocksFor e.textLength } := by
  unfold State.allocate at a
  simp only at a
  split at a
  · cases a
  · rename_i k hk
    split at a
    · rename_i hb
      cases a
      exact ⟨hk, hb, rfl, rfl⟩
    · cases a

theorem allocate_entry {s t : State} {e : Entry} {h : Handle} (a : s.allocate e = some (h, t)) (k : Handle) :
    t.entry k = if h = k then { e with accession := s.accessionCounter, blockCount := blocksFor e.textLength }
      else s.entry k := by
  rw [State.entry]
  simp only [(allocate_spec a).2.2.1]
  simp [State.entry, Vector.getElem_set, Fin.ext_iff]

/-- The key of a filed message is written, and the serial counter moves on; nothing else changes (R13). -/
theorem giveSerial_spec (h : Handle) (s : State) :
    { giveSerial h s with entries := s.entries, ownSerial := s.ownSerial } = s ∧
    ∀ k, (giveSerial h s).entry k = if h = k then
      { s.entry h with key := ⟨s.own.call, freeSerial s s.own.call 256 s.ownSerial⟩ } else s.entry k := by
  refine ⟨rfl, fun k => ?_⟩
  have := State.entry_updEntry s h k fun e => { e with key := ⟨s.own.call, freeSerial s s.own.call 256 s.ownSerial⟩ }
  exact this

end Sys2Proof.Machine
end

