-- ==== Sys2Proof/Laws/Others.lean ====
section
/-! SUPPORT. Withdrawals, considerations and sweeps leave every entry alone that neither waits in a collection nor stands
in an exchange (`State.LeavesOthers`). -/

namespace Sys2Proof.Machine

theorem State.LeavesOthers.refl (s : State) : s.LeavesOthers s := fun _ h => ⟨rfl, h⟩

theorem State.LeavesOthers.trans {s t u : State} (h : s.LeavesOthers t) (k : t.LeavesOthers u) : s.LeavesOthers u :=
  fun x n => by
    obtain ⟨e1, n1⟩ := h x n
    obtain ⟨e2, n2⟩ := k x n1
    exact ⟨e2.trans e1, n2⟩

theorem State.LeavesOthers.forChans {f : Chan → State → State}
    (hf : ∀ (c : Chan) (s : State), s.LeavesOthers (f c s)) (s : State) : s.LeavesOthers (forChans f s) :=
  (((hf 0 s).trans (hf 1 _)).trans (hf 2 _)).trans (hf 3 _)

/-- An operation on one entry: every other entry is left as it is and is not brought to wait. -/
def State.Only (h : Handle) (s t : State) : Prop := ∀ x, x ≠ h → t.entry x = s.entry x ∧ (t.Waits x → s.Waits x)

theorem State.Only.refl (h : Handle) (s : State) : s.Only h s := fun _ _ => ⟨rfl, id⟩

theorem State.Only.trans {h : Handle} {s t u : State} (a : s.Only h t) (b : t.Only h u) : s.Only h u := fun x n =>
  ⟨(b x n).1.trans (a x n).1, fun w => (a x n).2 ((b x n).2 w)⟩

/-- An operation on an entry that waits leaves the others alone. -/
theorem State.Only.leavesOthers {h : Handle} {s t : State} (a : s.Only h t) (w : s.Waits h) : s.LeavesOthers t :=
  fun x n => by
    have e : x ≠ h := fun e => n (e ▸ w)
    exact ⟨(a x e).1, fun k => n ((a x e).2 k)⟩

/-- What waits is what the collections and the engines say. -/
theorem State.Waits.congr {s t : State} (hc : ∀ k, t.collection k = s.collection k)
    (he : ∀ c, (t.chan c).engine = (s.chan c).engine) (h : Handle) : t.Waits h ↔ s.Waits h := by
  simp [State.Waits, hc, he]

theorem State.collection_updEntry (s : State) (h : Handle) (f : Entry → Entry) (k : Collection) :
    (s.updEntry h f).collection k = s.collection k := by
  cases k <;> rfl

theorem State.Only.updEntry (h : Handle) (s : State) (f : Entry → Entry) : s.Only h (s.updEntry h f) := fun x n =>
  ⟨by simp [Ne.symm n], (State.Waits.congr (s.collection_updEntry h f) (fun _ => rfl) x).1⟩

theorem State.collection_setCollection (s : State) (k l : Collection) (q : List Handle) :
    (s.setCollection k q).collection l = if k = l then q else s.collection l := by
  cases k with
  | unrouted => cases l <;> simp [State.setCollection, State.collection, State.chan]
  | queue c =>
    cases l with
    | unrouted => simp [State.setCollection, State.collection]
    | queue d => by_cases e : c = d <;> simp [State.setCollection, State.collection, e]

theorem State.setCollection_engine (s : State) (k : Collection) (q : List Handle) (c : Chan) :
    ((s.setCollection k q).chan c).engine = (s.chan c).engine := by
  cases k with
  | unrouted => rfl
  | queue d => by_cases e : d = c <;> simp [State.setCollection, e]

theorem State.setCollection_entry (s : State) (k : Collection) (q : List Handle) (x : Handle) :
    (s.setCollection k q).entry x = s.entry x := by
  cases k <;> rfl

theorem State.Only.join (h : Handle) (s : State) (k : Collection) : s.Only h (s.join h k) := fun x n => by
  refine ⟨s.setCollection_entry _ _ x, fun w => ?_⟩
  rcases w with ⟨l, w⟩ | ⟨c, w⟩
  · rw [State.join, State.collection_setCollection] at w
    split at w
    · rename_i e
      subst e
      have := (insertInOrder_perm _ h _).mem_iff.1 w
      exact .inl ⟨k, by simpa [n] using this⟩
    · exact .inl ⟨l, w⟩
  · exact .inr ⟨c, by rw [← w, State.join, State.setCollection_engine]⟩

/-- Leaving a collection: the handles of each are those that were there, the one that leaves taken out. -/
theorem State.collection_leave (s : State) (h : Handle) (k : Collection) :
    (s.leave h).collection k = without h (s.collection k) := by
  cases k with
  | unrouted => rfl
  | queue c =>
    rcases chan_cases c with rfl | rfl | rfl | rfl <;> simp [State.leave, State.collection, Machine.forChans] <;> rfl

theorem State.leave_engine (s : State) (h : Handle) (c : Chan) :
    ((s.leave h).chan c).engine = (s.chan c).engine := by
  rcases chan_cases c with rfl | rfl | rfl | rfl <;> simp [State.leave, Machine.forChans] <;> rfl

theorem State.LeavesOthers.leave (s : State) (h : Handle) : s.LeavesOthers (s.leave h) := fun x n => by
  refine ⟨rfl, fun w => n ?_⟩
  rcases w with ⟨k, w⟩ | ⟨c, w⟩
  · rw [State.collection_leave] at w
    exact .inl ⟨k, (List.mem_filter.1 w).1⟩
  · exact .inr ⟨c, by rw [← w, State.leave_engine]⟩

theorem State.Only.leave (h : Handle) (s : State) : s.Only h (s.leave h) := fun x _ => by
  refine ⟨rfl, fun w => ?_⟩
  rcases w with ⟨k, w⟩ | ⟨c, w⟩
  · rw [State.collection_leave] at w
    exact .inl ⟨k, (List.mem_filter.1 w).1⟩
  · exact .inr ⟨c, by rw [← w, State.leave_engine]⟩

theorem State.Only.place (h : Handle) (s : State) : s.Only h (s.place h) :=
  (State.Only.updEntry h s _).trans (.join h _ _)

theorem State.Only.closeEntry (h : Handle) (s : State) (st : EntryState) (o : LastOutcome) :
    s.Only h (s.closeEntry h st o) := .updEntry h s _

theorem State.Only.returnEntry (h : Handle) (s : State) (o : LastOutcome) : s.Only h (s.returnEntry h o) :=
  (State.Only.updEntry h s _).trans (.place h _)

theorem State.Only.endReturned (h : Handle) (s : State) (o : LastOutcome) : s.Only h (s.endReturned h o) := by
  unfold State.endReturned
  split
  · exact .closeEntry h s _ _
  · exact .returnEntry h s _

theorem State.Only.endRecorded (h : Handle) (s : State) (v : Verdict) : s.Only h (s.endRecorded h v) := by
  cases v
  · exact .closeEntry h s _ _
  · exact .closeEntry h s _ _
  · exact .closeEntry h s _ _
  · exact .endReturned h s _

/-- An engine written: every entry but the one that it then holds is left as it is and is not brought to wait. -/
theorem State.Only.setEngine (h : Handle) (c : Chan) (e : Engine) (s : State) (he : ∀ x, e.entry? = some x → x = h) :
    s.Only h (s.updChan c fun x => { x with engine := e }) := fun x n => by
  refine ⟨rfl, fun w => ?_⟩
  rcases w with ⟨k, w⟩ | ⟨d, w⟩
  · refine .inl ⟨k, ?_⟩
    cases k with
    | unrouted => exact w
    | queue d => by_cases hd : c = d <;> simp [State.collection, hd] at w ⊢ <;> exact w
  · by_cases hd : c = d
    · subst hd
      simp at w
      exact absurd (he x w) n
    · simp [hd] at w
      exact .inr ⟨d, w⟩

theorem State.Only.idleEngine (h : Handle) (c : Chan) (s : State) : s.Only h (idleEngine c s) :=
  .setEngine h c .idle s (by simp [Engine.entry?])

theorem State.waits_of_engine {s : State} {c : Chan} {h : Handle} (e : (s.chan c).engine.entry? = some h) : s.Waits h :=
  .inr ⟨c, e⟩

theorem State.waits_of_collection {s : State} {k : Collection} {h : Handle} (m : h ∈ s.collection k) : s.Waits h :=
  .inl ⟨k, m⟩

theorem State.LeavesOthers.withdraw (c : Chan) (s : State) : s.LeavesOthers (withdraw c s) := by
  unfold Machine.withdraw
  split
  · rename_i h _ _ e
    exact ((State.Only.idleEngine h c s).trans (.returnEntry h _ _)).leavesOthers
      (State.waits_of_engine (c := c) (by rw [e]; rfl))
  · exact .refl s

theorem State.LeavesOthers.withdrawIf (test : State → Entry → Bool) (c : Chan) (s : State) :
    s.LeavesOthers (withdrawIf test c s) := by
  unfold Machine.withdrawIf
  split
  · split
    · exact .withdraw c s
    · exact .refl s
  · exact .refl s

theorem State.LeavesOthers.endExchange (c : Chan) (s : State) : s.LeavesOthers (endExchange c s) := by
  unfold Machine.endExchange
  split
  · exact .refl s
  · exact .withdraw c s
  · rename_i h v e
    exact ((State.Only.idleEngine h c s).trans (.endRecorded h _ v)).leavesOthers
      (State.waits_of_engine (c := c) (by rw [e]; rfl))
  · rename_i h e
    exact ((State.Only.idleEngine h c s).trans (.endReturned h _ _)).leavesOthers
      (State.waits_of_engine (c := c) (by rw [e]; rfl))
  · rename_i h n e
    exact ((State.Only.idleEngine h c s).trans (.endReturned h _ _)).leavesOthers
      (State.waits_of_engine (c := c) (by rw [e]; rfl))

/-- One more operation on an entry that waited at first. -/
theorem State.LeavesOthers.step {h : Handle} {s t u : State} (a : s.LeavesOthers t) (w : s.Waits h) (b : t.Only h u) :
    s.LeavesOthers u := fun x n => by
  have e : x ≠ h := fun e => n (e ▸ w)
  obtain ⟨e1, n1⟩ := a x n
  exact ⟨(b x e).1.trans e1, fun k => n1 ((b x e).2 k)⟩

theorem State.Only.engage (c : Chan) (h : Handle) (s : State) : s.Only h (engage c h s) :=
  ((State.Only.leave h s).trans (.updEntry h _ _)).trans
    (.setEngine h c (.staged h (s.waitOf c (s.entry h)) (s.needOf c (s.entry h))) _ (by simp [Engine.entry?, eq_comm]))

theorem State.Only.failOversize (h : Handle) (s : State) : s.Only h (failOversize h s) :=
  (State.Only.leave h s).trans (.closeEntry h _ _ _)

/-- A walk along handles that waited at first. -/
theorem State.LeavesOthers.walk {c : Chan} {q : List Handle} {s : State} :
    ∀ {t : State}, s.LeavesOthers t → (∀ h ∈ q, s.Waits h) → s.LeavesOthers (walk c q t) := by
  induction q with
  | nil => exact fun a _ => a
  | cons h q ih =>
    intro t a w
    have wh := w h (by simp)
    have wq : ∀ x ∈ q, s.Waits x := fun x m => w x (by simp [m])
    simp only [Machine.walk]
    split
    · exact ih a wq
    · split
      · exact ih (a.step wh (.failOversize h t)) wq
      · split
        · exact a.step wh (.engage c h t)
        · exact ih a wq

theorem State.LeavesOthers.consider (c : Chan) (s : State) : s.LeavesOthers (consider c s) := by
  unfold Machine.consider
  split
  · exact .walk (.refl s) fun h m => State.waits_of_collection (k := .queue c) m
  · exact .refl s

theorem State.LeavesOthers.considerAll (s : State) : s.LeavesOthers (considerAll s) :=
  .forChans State.LeavesOthers.consider s

theorem State.Only.sweepEntry (p : Collection × Handle) (s : State) : s.Only p.2 (sweepEntry p s) := by
  unfold Machine.sweepEntry
  simp only
  split
  · exact .updEntry p.2 s _
  · exact ((State.Only.updEntry p.2 s _).trans (.leave p.2 _)).trans (.join p.2 _ _)

theorem State.waits_of_waiting {s : State} {p : Collection × Handle} (m : p ∈ s.waiting) : s.Waits p.2 := by
  simp only [State.waiting, List.mem_append, List.mem_map] at m
  rcases m with (((⟨x, hx, rfl⟩ | ⟨x, hx, rfl⟩) | ⟨x, hx, rfl⟩) | ⟨x, hx, rfl⟩) | ⟨x, hx, rfl⟩ <;>
    exact State.waits_of_collection hx

theorem State.LeavesOthers.sweepEntries (s : State) : s.LeavesOthers (sweepEntries s) := by
  have key : ∀ (q : List (Collection × Handle)) (t : State), s.LeavesOthers t → (∀ p ∈ q, s.Waits p.2) →
      s.LeavesOthers (q.foldl (fun s p => sweepEntry p s) t) := by
    intro q
    induction q with
    | nil => exact fun t a _ => a
    | cons p q ih =>
      exact fun t a w => ih _ (a.step (w p (by simp)) (.sweepEntry p t)) fun x m => w x (by simp [m])
  exact key _ s (.refl s) fun p m => State.waits_of_waiting m

theorem State.LeavesOthers.sweep (s : State) : s.LeavesOthers (sweep s) :=
  (State.LeavesOthers.sweepEntries s).trans (.forChans (fun c s => .withdrawIf _ c s) _)

/-- An update of a channel that keeps its queue and its engine. -/
theorem State.LeavesOthers.of_updChan (s : State) (c : Chan) (f : Channel → Channel)
    (h : (f (s.chan c)).queue = (s.chan c).queue ∧ (f (s.chan c)).engine = (s.chan c).engine) :
    s.LeavesOthers (s.updChan c f) := fun x n => by
  refine ⟨rfl, fun w => n ((State.Waits.congr (fun k => ?_) (fun d => ?_) x).1 w)⟩
  · cases k with
    | unrouted => rfl
    | queue d => by_cases e : c = d <;> simp [State.collection, e]; subst e; exact h.1
  · by_cases e : c = d <;> simp [e]; subst e; exact h.2

end Sys2Proof.Machine
end

