-- ==== Sys2Proof/Laws/Turned.lean ====
section
/-! SUPPORT. What the end of a command can do: the considerations, the end of abort pauses and the arbiters are a
`State.Turned`; on a part at rest the end of a request changes nothing more. -/

namespace Sys2Proof.Machine

theorem Transmitter.SameOnAir.trans {a b c : Transmitter} (h : a.SameOnAir b) (k : b.SameOnAir c) : a.SameOnAir c := by
  rcases h with rfl | ⟨h1, h2⟩
  · exact k
  · rcases k with rfl | ⟨_, k2⟩
    · exact .inr ⟨h1, h2⟩
    · exact .inr ⟨h1, k2⟩

theorem Transmitter.SameOnAir.keyed {a b : Transmitter} (h : a.SameOnAir b) : b.keyed = a.keyed := by
  rcases h with rfl | ⟨h1, h2⟩
  · rfl
  · rw [h1, h2]

theorem Channel.SameLine.rfl' (x : Channel) : x.SameLine x := ⟨rfl, .inl rfl, fun h => h⟩

theorem Channel.SameLine.trans {x y z : Channel} (h : x.SameLine y) (k : y.SameLine z) : x.SameLine z where
  rest := by
    have h1 := h.rest; have k1 := k.rest
    clear h k
    obtain ⟨⟩ := x; obtain ⟨⟩ := y; obtain ⟨⟩ := z
    simp_all
  onAir := h.onAir.trans k.onAir
  pause := fun p => h.pause (k.pause p)

theorem Channel.SameLine.enabled {x y : Channel} (h : x.SameLine y) : y.enabled = x.enabled := by
  rw [← h.rest]

theorem Channel.SameButExchange.sameLine {x y : Channel} (h : x.SameButExchange y) : x.SameLine y where
  rest := by
    have h1 := h
    clear h
    obtain ⟨⟩ := x; obtain ⟨⟩ := y
    simp_all [Channel.SameButExchange]
  onAir := .inl (by rw [← h])
  pause := fun p => by rw [← h]; exact p

theorem State.Moved.turned {s t : State} (h : s.Moved t) (k : s.LeavesOthers t) : s.Turned t :=
  ⟨h.rest, h.entry, k, fun c => (h.chan c).sameLine, h.idle⟩

theorem State.Turned.refl (s : State) : s.Turned s := (State.Moved.refl s).turned (.refl s)

theorem State.Turned.considerAll (s : State) : s.Turned (considerAll s) :=
  (State.Moved.considerAll s).turned (.considerAll s)

theorem State.Turned.consider (c : Chan) (s : State) : s.Turned (consider c s) :=
  (State.Moved.consider c s).turned (.consider c s)

theorem State.Turned.sweep (s : State) : s.Turned (sweep s) := (State.Moved.sweep s).turned (.sweep s)

theorem State.Turned.withdraw (c : Chan) (s : State) : s.Turned (withdraw c s) :=
  (State.Moved.withdraw c s).turned (.withdraw c s)

theorem State.Turned.endExchange (c : Chan) (s : State) : s.Turned (endExchange c s) :=
  (State.Moved.endExchange c s).turned (.endExchange c s)

theorem State.Turned.trans {s t u : State} (h : s.Turned t) (k : t.Turned u) : s.Turned u where
  rest := by
    have h1 := h.rest; have k1 := k.rest
    obtain ⟨⟩ := s; obtain ⟨⟩ := t; obtain ⟨⟩ := u
    simp_all
  entry := fun x => (h.entry x).trans (k.entry x)
  others := h.others.trans k.others
  chan := fun c => (h.chan c).trans (k.chan c)
  idle := fun c e i => k.idle c (by rw [(h.chan c).enabled]; exact e) (h.idle c e i)

theorem State.Turned.of_updChan (s : State) (c : Chan) (f : Channel → Channel) (hf : (s.chan c).SameLine (f (s.chan c)))
    (hq : (f (s.chan c)).queue = (s.chan c).queue ∧ (f (s.chan c)).engine = (s.chan c).engine) :
    s.Turned (s.updChan c f) where
  rest := rfl
  entry := fun _ => Entry.SameMessage.rfl' _
  others := .of_updChan s c f hq
  chan := fun d => by
    by_cases e : c = d
    · subst e; simpa using hf
    · simpa [e] using Channel.SameLine.rfl' _
  idle := fun d en id => by
    by_cases e : c = d
    · subst e; simpa [hq.2] using id
    · simpa [e] using id

theorem State.Turned.forChans {f : Chan → State → State} (hf : ∀ (c : Chan) (s : State), s.Turned (f c s)) (s : State) :
    s.Turned (forChans f s) :=
  (((hf 0 s).trans (hf 1 _)).trans (hf 2 _)).trans (hf 3 _)

/-- The arbiter writes the transmitter alone, and only one that has not keyed (R133 to R135). -/
theorem Channel.arbitrated_sameLine (x : Channel) : x.SameLine x.arbitrated := by
  unfold Channel.arbitrated
  split
  · rename_i h
    split
    · exact ⟨rfl, .inr ⟨by rw [h]; rfl, rfl⟩, fun p => p⟩
    · exact ⟨rfl, .inr ⟨by rw [h]; rfl, rfl⟩, fun p => p⟩
  · rename_i h
    split
    · exact ⟨rfl, .inr ⟨by rw [h]; rfl, rfl⟩, fun p => p⟩
    · exact ⟨rfl, .inr ⟨by rw [h]; rfl, rfl⟩, fun p => p⟩
  · exact .rfl' x

theorem Channel.arbitrated_exchange (x : Channel) : x.arbitrated.queue = x.queue ∧ x.arbitrated.engine = x.engine := by
  unfold Channel.arbitrated
  split <;> first | exact ⟨rfl, rfl⟩ | (split <;> exact ⟨rfl, rfl⟩)

theorem State.Turned.arbitrate (c : Chan) (s : State) : s.Turned (arbitrate c s) :=
  .of_updChan s c _ (Channel.arbitrated_sameLine _) (Channel.arbitrated_exchange _)

theorem State.Turned.arbitrateAll (s : State) : s.Turned (arbitrateAll s) := .forChans State.Turned.arbitrate s

/-- The end of an event: considerations, then arbiters. -/
theorem State.Turned.conclude (s : State) : s.Turned (conclude s) :=
  (State.Turned.considerAll s).trans (.arbitrateAll _)

theorem State.Turned.endPause (was : Chan → Bool) (c : Chan) (s : State) : s.Turned (endPause was c s) := by
  unfold Machine.endPause
  split
  · rename_i h
    simp at h
    exact (State.Turned.of_updChan s c _ ⟨rfl, .inl rfl, fun _ => h.2⟩ ⟨rfl, rfl⟩).trans
      (.consider c _)
  · exact .refl s

/-- A request is its own effect, and then no more than the end of a command can do (R149, R175). -/
theorem takeRequest_turned (effect : State → State) (s : State) : (effect s).Turned (takeRequest effect s) :=
  (State.Turned.forChans (fun c t => .endPause _ c t) _).trans (.arbitrateAll _)

/-- An answer given on both sides keeps the relation. -/
theorem State.Turned.answer {s t : State} (h : s.Turned t) (r : Result) (d : List Byte) :
    (s.answer r d).Turned (t.answer r d) where
  rest := by
    have h1 := h.rest
    clear h
    obtain ⟨⟩ := s; obtain ⟨⟩ := t
    simp_all [State.answer]
  entry := h.entry
  others := h.others
  chan := h.chan
  idle := h.idle

/-! ## A part at rest -/

/-- Two states in which every read gives the same are the same state. -/
theorem State.setChan_self (s : State) (c : Chan) : s.setChan c (s.chan c) = s := by
  simp [State.setChan, State.chan]

theorem State.updChan_self (s : State) (c : Chan) (f : Channel → Channel) (h : f (s.chan c) = s.chan c) :
    s.updChan c f = s := by
  rw [State.updChan, h, State.setChan_self]

theorem forChans_self {f : Chan → State → State} {s : State} (h : ∀ c, f c s = s) : forChans f s = s := by
  simp [forChans, h]

theorem arbitrateAll_self {s : State} (h : ∀ c, (s.chan c).arbitrated = s.chan c) : arbitrateAll s = s :=
  forChans_self fun c => s.updChan_self c _ (h c)

/-- A request whose effect leaves the channels of a part at rest alone has no further effect. -/
theorem takeRequest_atRest {effect : State → State} {s : State} (h : s.AtRest)
    (hc : ∀ c, (effect s).chan c = s.chan c) : takeRequest effect s = effect s := by
  have h1 : forChans (endPause fun c => (s.chan c).abortPause) (effect s) = effect s :=
    forChans_self fun c => by simp [endPause, (h c).1]
  rw [takeRequest, h1]
  exact arbitrateAll_self fun c => by rw [hc c]; exact (h c).2

/-- How a request whose effect leaves the channels alone ends (R149, R175). -/
theorem takeRequest_ends {effect : State → State} {s : State} (hc : ∀ c, (effect s).chan c = s.chan c) :
    s.Ends (effect s) (takeRequest effect s) :=
  ⟨takeRequest_turned effect s, fun h => takeRequest_atRest h hc⟩

end Sys2Proof.Machine
end

