-- ==== Sys2Proof/Laws/Congestion.lean ====
section
/-! SUPPORT. What the test of congestion and the release of entries can do (R18, R32, R51, R83 to R90), said once. -/

namespace Sys2Proof.Machine

/-! ## What own frames may touch -/

/-- Two records of a channel differ in its control frames, its owed mark and its re-hold timer at most. -/
def Channel.SameButOwn (x y : Channel) : Prop :=
  { y with control := x.control, owed := x.owed, rehold := x.rehold } = x

/-- A disabled channel with no control frame, no owed mark and no re-hold keeps none. -/
def Channel.StaysBare (x y : Channel) : Prop :=
  x.enabled = false → x.control = [] → x.owed = none → x.rehold = none →
    y.control = [] ∧ y.owed = none ∧ y.rehold = none

/-- What a test of congestion may touch: the congestion state, its flag, and the own frames of channels; every channel
keeps the rules of its control frames. -/
structure State.Tested (s t : State) : Prop where
  rest : { t with congestion := s.congestion, congestionChanged := s.congestionChanged, channels := s.channels } = s
  chan : ∀ c, (s.chan c).SameButOwn (t.chan c)
  bare : ∀ c, (s.chan c).StaysBare (t.chan c)
  kept : ∀ c, (s.chan c).ControlKept → (t.chan c).ControlKept

theorem Channel.SameButOwn.rfl' (x : Channel) : x.SameButOwn x := by simp [Channel.SameButOwn]

theorem Channel.SameButOwn.trans {x y z : Channel} (h : x.SameButOwn y) (k : y.SameButOwn z) : x.SameButOwn z := by
  obtain ⟨⟩ := x; obtain ⟨⟩ := y; obtain ⟨⟩ := z
  simp_all [Channel.SameButOwn]

theorem Channel.SameButOwn.enabled {x y : Channel} (h : x.SameButOwn y) : y.enabled = x.enabled := by rw [← h]

theorem State.Tested.refl (s : State) : s.Tested s :=
  ⟨rfl, fun _ => .rfl' _, fun _ _ h1 h2 h3 => ⟨h1, h2, h3⟩, fun _ h => h⟩

theorem State.Tested.trans {s t u : State} (h : s.Tested t) (k : t.Tested u) : s.Tested u where
  rest := by
    have h1 := h.rest; have k1 := k.rest
    obtain ⟨⟩ := s; obtain ⟨⟩ := t; obtain ⟨⟩ := u
    simp_all
  chan := fun c => (h.chan c).trans (k.chan c)
  bare := fun c e h1 h2 h3 => by
    obtain ⟨a, b, d⟩ := h.bare c e h1 h2 h3
    exact k.bare c (by rw [(h.chan c).enabled]; exact e) a b d
  kept := fun c p => k.kept c (h.kept c p)

theorem State.Tested.forChans {f : Chan → State → State} (hf : ∀ (c : Chan) (s : State), s.Tested (f c s)) (s : State) :
    s.Tested (forChans f s) :=
  (((hf 0 s).trans (hf 1 _)).trans (hf 2 _)).trans (hf 3 _)

theorem State.Tested.of_updChan (s : State) (c : Chan) (f : Channel → Channel)
    (h1 : (s.chan c).SameButOwn (f (s.chan c))) (h2 : (s.chan c).StaysBare (f (s.chan c)))
    (h3 : (s.chan c).ControlKept → (f (s.chan c)).ControlKept) : s.Tested (s.updChan c f) where
  rest := rfl
  chan := fun d => by
    by_cases e : c = d
    · subst e; simpa using h1
    · simpa [e] using Channel.SameButOwn.rfl' _
  bare := fun d => by
    by_cases e : c = d
    · subst e; simpa using h2
    · simpa [e, Channel.StaysBare] using fun _ a b c => ⟨a, b, c⟩
  kept := fun d => by
    by_cases e : c = d
    · subst e; simpa using h3
    · simp [e]

/-! ## The own frames of one channel (R86, R89) -/

theorem ownCount_append (p q : List ControlFrame) : ownCount (p ++ q) = ownCount p + ownCount q := by simp [ownCount]

theorem ownCount_eq_zero {q : List ControlFrame} : ownCount q = 0 ↔ q.any (·.isOwn) = false := by
  simp [ownCount]

/-- Replacing every own frame by another leaves their number. -/
theorem ownCount_replace (t : Nat) (k : Fin 8) (q : List ControlFrame) :
    ownCount (q.map fun f => if f.isOwn then .ownHold t k else f) = ownCount q := by
  induction q with
  | nil => rfl
  | cons f q ih =>
    simp only [ownCount, List.map_cons, List.filter_cons] at ih ⊢
    cases h : f.isOwn <;> simp_all [ControlFrame.isOwn]

theorem Channel.queueOwn_sameButOwn (t : Nat) (k : Fin 8) (x : Channel) : x.SameButOwn (x.queueOwn t k) := by
  unfold Channel.queueOwn Channel.SameButOwn
  split
  · rfl
  · split <;> rfl

/-- Queuing an own frame keeps the rules of the control frames (R86). -/
theorem Channel.queueOwn_controlKept (t : Nat) (k : Fin 8) (x : Channel) (h : x.ControlKept) :
    (x.queueOwn t k).ControlKept := by
  obtain ⟨h1, h2, h3⟩ := h
  unfold Channel.queueOwn
  split
  · exact ⟨by simpa using h1, by rw [ownCount_replace]; exact h2, fun o => by
      rw [ownCount_replace]; simpa using h3 o⟩
  · rename_i h4
    have h5 : ownCount x.control = 0 := ownCount_eq_zero.2 (by simpa using h4)
    split
    · rename_i h6
      refine ⟨by simp; omega, by simp [ownCount_append, h5]; simp [ownCount, ControlFrame.isOwn], fun o => ?_⟩
      have := (h3 o).1
      omega
    · exact ⟨h1, h2, fun _ => ⟨by simp only; omega, h5⟩⟩

theorem State.Tested.queueOwnHold {c : Chan} {s : State} (en : (s.chan c).enabled = true) :
    s.Tested (queueOwnHold c s) :=
  .of_updChan s c _ (Channel.queueOwn_sameButOwn ..) (fun e => by rw [en] at e; cases e)
    (Channel.queueOwn_controlKept _ _ _)

theorem State.Tested.queueOwnRelease {c : Chan} {s : State} (en : (s.chan c).enabled = true) :
    s.Tested (queueOwnRelease c s) :=
  .of_updChan s c _ (Channel.queueOwn_sameButOwn ..) (fun e => by rw [en] at e; cases e)
    (Channel.queueOwn_controlKept _ _ _)

theorem State.Tested.ifEnabled {f : Chan → State → State}
    (hf : ∀ (c : Chan) (s : State), (s.chan c).enabled = true → s.Tested (f c s)) (c : Chan) (s : State) :
    s.Tested (ifEnabled f c s) := by
  unfold Machine.ifEnabled
  split
  · rename_i en; exact hf c s en
  · exact .refl s

theorem State.Tested.stopRehold (c : Chan) (s : State) : s.Tested (stopRehold c s) :=
  .of_updChan s c _ rfl (fun _ h1 h2 _ => ⟨h1, h2, rfl⟩) fun h => h

theorem State.Tested.dropOwn (c : Chan) (s : State) : s.Tested (dropOwn c s) :=
  .of_updChan s c _ rfl (fun _ h1 _ h3 => ⟨by simp [h1], rfl, h3⟩) fun ⟨h1, _, _⟩ =>
    ⟨(List.length_filter_le _ _).trans h1, by simp [ownCount], fun o => absurd rfl o⟩

/-! ## The test of congestion, and the release of entries -/

theorem State.Tested.markCongestion (s : State) : s.Tested s.markCongestion := by
  unfold State.markCongestion
  split
  · exact .refl s
  · exact ⟨rfl, fun _ => .rfl' _, fun _ _ h1 h2 h3 => ⟨h1, h2, h3⟩, fun _ h => h⟩

theorem State.Tested.enterCongested (s : State) : s.Tested (enterCongested s) :=
  .forChans (State.Tested.ifEnabled fun _ _ en => .queueOwnHold en) s

theorem State.Tested.leaveCongested (s : State) : s.Tested (leaveCongested s) := by
  unfold Machine.leaveCongested
  have h := State.Tested.forChans State.Tested.stopRehold s
  simp only
  split
  · exact h.trans (.forChans (State.Tested.ifEnabled fun _ _ en => .queueOwnRelease en) _)
  · exact h.trans (.forChans State.Tested.dropOwn _)

theorem State.Tested.testCongestion (s : State) : s.Tested (testCongestion s) := by
  unfold Machine.testCongestion
  split
  · exact .refl s
  · split
    · exact (State.Tested.markCongestion s).trans (.enterCongested _)
    · exact (State.Tested.markCongestion s).trans (.leaveCongested _)

/-- What each of four turns leaves alone, all four leave alone. -/
theorem forChans_field {α : Type} (g : State → α) {f : Chan → State → State}
    (h : ∀ (c : Chan) (s : State), g (f c s) = g s) (s : State) : g (forChans f s) = g s := by
  simp [forChans, h]

/-- What an operation leaves alone, it leaves alone when it is carried out on an enabled channel. -/
theorem ifEnabled_field {α : Type} (g : State → α) {f : Chan → State → State}
    (h : ∀ (c : Chan) (s : State), g (f c s) = g s) (c : Chan) (s : State) : g (ifEnabled f c s) = g s := by
  unfold ifEnabled
  split
  · exact h c s
  · rfl

theorem enterCongested_congestion (s : State) : (enterCongested s).congestion = s.congestion :=
  forChans_field (·.congestion) (f := ifEnabled queueOwnHold)
    (ifEnabled_field (·.congestion) (f := queueOwnHold) fun _ _ => rfl) s

theorem leaveCongested_congestion (s : State) : (leaveCongested s).congestion = s.congestion := by
  have h1 : ∀ u : State, (forChans (ifEnabled queueOwnRelease) u).congestion = u.congestion :=
    forChans_field (·.congestion) (ifEnabled_field (·.congestion) (f := queueOwnRelease) fun _ _ => rfl)
  have h2 : ∀ u : State, (forChans dropOwn u).congestion = u.congestion :=
    forChans_field (·.congestion) (f := dropOwn) fun _ _ => rfl
  have h3 : ∀ u : State, (forChans stopRehold u).congestion = u.congestion :=
    forChans_field (·.congestion) (f := stopRehold) fun _ _ => rfl
  unfold leaveCongested
  simp only
  split
  · rw [h1, h3]
  · rw [h2, h3]

/-- After a test of congestion the state is what the counts and thresholds gave (R83). -/
theorem testCongestion_congestion (s : State) : (testCongestion s).congestion = s.congestionNow := by
  unfold testCongestion
  split
  · rename_i h; exact h.symm
  · rename_i h
    have m : s.markCongestion.congestion = s.congestionNow := by simp [State.markCongestion, h]
    split
    · rw [enterCongested_congestion]; exact m
    · rw [leaveCongested_congestion]; exact m

/-- Releasing an entry: it is FREE, its blocks are back, and the congestion test has followed (R18, R32). -/
theorem releaseEntry_tested (h : Handle) (s : State) : (freeEntry h s).Tested (releaseEntry h s) := .testCongestion _

/-- Retiring an entry: it is SPENT, its blocks are back, and the congestion test has followed (R51). -/
theorem retireEntry_tested (h : Handle) (s : State) :
    ((s.setEntry h (s.entry h).spent).countFreed (s.entry h).blockCount).Tested (retireEntry h s) := .testCongestion _

end Sys2Proof.Machine
end

