-- ==== Sys2Proof/Laws/Line.lean ====
section
/-! SUPPORT. What the carrier gate, the damage of a frame, the keying and the release of a transmitter can do (R99 to
R103, R116, R124, R136, R137), said once. -/

namespace Sys2Proof.Machine

/-- A channel's record after its gate has been evaluated (R100 to R103). -/
def Channel.gated (x : Channel) : Channel :=
  if x.busyNow = x.busy then x else if x.busyNow then x.beginBusy else x.endBusy

/-- The gate writes its channel's record, and the end of JAMMED may move entries (R103). -/
theorem gate_moved (c : Chan) (s : State) : (s.updChan c Channel.gated).Moved (gate c s) := by
  unfold gate
  simp only
  split
  · rename_i h1
    rw [State.updChan_self s c _ (by rw [Channel.gated, if_pos h1])]
    exact .refl s
  · rename_i h1
    split
    · rename_i h2
      rw [State.updChan, Channel.gated, if_neg h1, if_pos h2]
      exact .refl _
    · rename_i h2
      rw [State.updChan, Channel.gated, if_neg h1, if_neg h2]
      split
      · exact .sweep _
      · exact .refl _

/-- Evaluating the gate leaves busy as the inputs have it, whatever it was (R100). -/
theorem Channel.gated_busy (x : Channel) : x.gated.busy = x.busyNow := by
  unfold Channel.gated
  split
  · rename_i h; exact h.symm
  · split
    · rename_i h; simp [Channel.beginBusy, h]
    · rename_i h; simp [Channel.endBusy, h]

theorem Channel.gated_busyNow (x : Channel) : x.gated.busyNow = x.busyNow := by
  unfold Channel.gated
  split
  · rfl
  · split <;> rfl

/-- What damage leaves before its congestion test: the receiver in HUNT, the reservation's entry FREE (R116, R124). -/
def damaged (c : Chan) (s : State) : State :=
  match (s.chan c).receiver.reservation with
  | some h => freeEntry h (setReceiver .hunt c s)
  | none => setReceiver .hunt c s

theorem damage_tested (c : Chan) (s : State) : (damaged c s).Tested (damage c s) := by
  unfold damaged damage
  cases (s.chan c).receiver.reservation with
  | some h => exact .testCongestion _
  | none => exact .refl _

theorem damaged_chan (c d : Chan) (s : State) :
    (damaged c s).chan d = if c = d then { s.chan c with receiver := .hunt } else s.chan d := by
  unfold damaged
  split <;> simp [freeEntry, setReceiver]

/-- Damage leaves the receiver of its channel in HUNT (R116). -/
theorem damage_receiver (c : Chan) (s : State) : ((damage c s).chan c).receiver = .hunt := by
  have h := (damage_tested c s).chan c
  have k : ∀ {x y : Channel}, x.SameButOwn y → y.receiver = x.receiver := fun h => by rw [← h]
  rw [k h, damaged_chan, if_pos rfl]

end Sys2Proof.Machine
end

