-- ==== Sys2Proof/Laws/Time.lean ====
section
/-! SUPPORT. The millisecond advance: with no event waiting it is a tick, and what every waiting event keeps the advance
keeps before its tick (note 2). Later proofs cite these and never unfold `settle`. -/

namespace Sys2Proof.Machine

/-- With no event waiting, settling changes nothing. -/
theorem settle_of_none {s : State} (h : settleOnce s = none) : settle s = s := by
  unfold settle settleFor
  rw [h]

/-- What each event that waits keeps, settling keeps. -/
theorem settle_keeps {P : State → Prop} (step : ∀ s t : State, P s → settleOnce s = some t → P t) {s : State} (h : P s) :
    P (settle s) := by
  have key : ∀ n : Nat, ∀ s : State, P s → P (settleFor n s) := by
    intro n
    induction n with
    | zero => exact fun _ h => h
    | succ n ih =>
      intro s h
      unfold settleFor
      split
      · exact ih _ (step s _ h ‹_›)
      · exact h
  unfold settle
  exact key _ s h

/-- The millisecond advance is the tick of the settled part. -/
theorem exec_millisecondAdvance (s : State) : exec .millisecondAdvance s = .next (tick (settle s)) := rfl

/-- The millisecond advance with no event waiting is a tick (R166). -/
theorem exec_millisecondAdvance_of_none {s : State} (h : settleOnce s = none) :
    exec .millisecondAdvance s = .next (tick s) := by
  rw [exec_millisecondAdvance, settle_of_none h]

/-- An alternative that is some came from one side. -/
theorem orElse_some {α : Type} {P : α → Prop} {a b : Option α} (h1 : ∀ t, a = some t → P t) (h2 : ∀ t, b = some t → P t) :
    ∀ t, (a <|> b) = some t → P t := by
  intro t h
  cases a with
  | none => exact h2 t (by simpa using h)
  | some x => exact h1 t (by simpa using h)

theorem onFirst_keeps {P : State → Prop} {due : Chan → Bool} {take : Chan → State → State} {s : State}
    (h : ∀ c, P (take c s)) : ∀ t, onFirst due take s = some t → P t := by
  intro t e
  simp only [onFirst, Option.map_eq_some_iff] at e
  obtain ⟨c, -, rfl⟩ := e
  exact h c

theorem onFirstStation_keeps {P : State → Prop} {due : Station → Bool} {take : Index → State → State} {s : State}
    (h : ∀ i, P (take i s)) : ∀ t, onFirstStation due take s = some t → P t := by
  intro t e
  simp only [onFirstStation, Option.map_eq_some_iff] at e
  obtain ⟨i, -, rfl⟩ := e
  exact h i

/-- What taking each sort of event keeps, one event that waits keeps. -/
theorem settleOnce_keeps {P : State → Prop} {s : State} (clock : P (takeClockSecond s)) (quantum : P (takeQuantum s))
    (second : P (takeSecond s)) (window : ∀ c, P (settleWindow c s)) (hold : ∀ i, P (takeHoldEnd i s))
    (silence : ∀ c, P (takeSilenceEnd c s)) (rehold : ∀ c, P (takeRehold c s)) (lost : ∀ i, P (takeOverLimit i s))
    (retry : ∀ h, P (takeRetry h s)) (beacon : ∀ c, P (takeBeacon c s)) (gap : ∀ c, P (takeGap c s))
    (jam : ∀ c, P (takeJam c s)) (timeout : ∀ c, P (takeTimeout c s)) (delay : ∀ c, P (takeDelayEnd c s))
    (frame : ∀ c, P (takeFrameEnd c s)) (brk : ∀ c, P (takeBreakEnd c s)) (key : ∀ c, P (takeKeyUp c s)) :
    ∀ t, settleOnce s = some t → P t := by
  intro t e
  unfold settleOnce at e
  split at e
  · cases e; exact clock
  split at e
  · cases e; exact quantum
  split at e
  · cases e; exact second
  refine orElse_some (onFirst_keeps window) ?_ t e
  refine orElse_some (onFirstStation_keeps hold) ?_
  refine orElse_some (onFirst_keeps silence) ?_
  refine orElse_some (onFirst_keeps rehold) ?_
  refine orElse_some (onFirstStation_keeps lost) ?_
  refine orElse_some (fun t e => by
    simp only [Option.map_eq_some_iff] at e
    obtain ⟨h, -, rfl⟩ := e
    exact retry h) ?_
  refine orElse_some (onFirst_keeps beacon) ?_
  refine orElse_some (onFirst_keeps gap) ?_
  refine orElse_some (onFirst_keeps jam) ?_
  refine orElse_some (onFirst_keeps timeout) ?_
  refine orElse_some (onFirst_keeps delay) ?_
  refine orElse_some (onFirst_keeps frame) ?_
  exact orElse_some (onFirst_keeps brk) (onFirst_keeps key)

end Sys2Proof.Machine
end

