-- ==== Sys2Proof/Tests/Slice0.lean ====
section
/-! SUPPORT. Tests: what WellFormed refuses, selections written out byte by byte, the spec's worked examples, and for every
statement with hypotheses a state and operands that meet them. -/

namespace Sys2Proof.Tests

set_option Elab.async false

open Sys2Proof Sys2Proof.Machine

/-! ## Helpers -/

/-- Whether a command answers a next state that satisfies a test. -/
def runs (i : Instr) (s : State) (p : State → Bool) : Bool :=
  match exec i s with
  | .next t => p t
  | _ => false

/-- The call KR4EOC of the spec's examples. -/
def kr4eoc : Call := [0x4B, 0x52, 0x34, 0x45, 0x4F, 0x43]

/-- The call W7HOS of the spec's examples. -/
def w7hos : Call := [0x57, 0x37, 0x48, 0x4F, 0x53]

/-- W7HOS as a call field of the port. -/
def w7hosField : CallField := #v[0x57, 0x37, 0x48, 0x4F, 0x53, 0x20, 0x20, 0x20]

/-- A field of eight spaces. -/
def blankField : CallField := #v[0x20, 0x20, 0x20, 0x20, 0x20, 0x20, 0x20, 0x20]

/-- The record of W7HOS: DIRECT on channel 1, HEARD. -/
def w7hosRecord : Station where
  call := w7hos
  channel := 1
  kind := .direct
  fallback := none
  netControl := false
  interval := 0
  sensitivity := 0
  forcedUnheard := false
  reach := .heard
  heardAge := 0
  confirmCount := 0
  holdRemaining := 0
  holdCutoff := 0
  overLimitDue := false
  holdEndDue := false

/-- Channel 1 of section 2.13: enabled and clear, stagger 4, no beacon. -/
def net1 : Channel :=
  { Channel.reset with
    enabled := true, sampler := .lineIdle false, clearTime := 40000
    settings := { Settings.reset with stagger := 4, beaconInterval := 0 } }

/-- A small part: the own call KR4EOC, W7HOS at index 3, channel 1 at work. -/
def small : State :=
  ((({ State.reset with own := { OwnStation.reset with call := kr4eoc } } : State).setStation 3 (some w7hosRecord)).setChan 1
    net1)

/-- An entry for W7HOS as FILE of section 2.13 leaves it. -/
def entry5 : Entry :=
  { Entry.free with
    state := .ready, key := ⟨kr4eoc, 37⟩, accession := 412, precedence := 2, destination := w7hos, nextHop := some 3
    textLength := 150, blockCount := 5, text := List.replicate 150 0x41 }

/-- Entry 5 in a state. -/
def with5 (st : EntryState) : State := small.setEntry 5 { entry5 with state := st }

/-- Entry 5 ENGAGED, on channel 1 with an engine. -/
def engaged (e : Engine) : State :=
  (small.setEntry 5 { entry5 with state := .engaged, lastHop := some w7hos, cancelPending := some false }).setChan 1
    { net1 with engine := e }

/-! ## What WellFormed refuses -/

theorem test_wellFormed_longest_body : (Instr.file 0 w7hosField (List.replicate 1031 0x41)).wellFormed = true := by
  decide +kernel

theorem test_wellFormed_refuses_body_past_frame :
    (Instr.file 0 w7hosField (List.replicate 1032 0x41)).wellFormed = false := by decide +kernel

/-! ## Selections, byte by byte (R175, R176, Table 11-3) -/

theorem test_decode_file : decodeSelection
    { bytes := [0x10, 0x00, 0x0B, 0x02, 0x57, 0x37, 0x48, 0x4F, 0x53, 0x20, 0x20, 0x20, 0x48, 0x49] } =
      some (.file 2 w7hosField [0x48, 0x49]) := by decide +kernel

theorem test_decode_readText : decodeSelection { bytes := [0x12, 0x00, 0x05, 0x05, 0x01, 0x02, 0x00, 0x10] } =
    some (.readText 5 0x0102 0x0010) := by decide +kernel

theorem test_decode_retire : decodeSelection { bytes := [0x19, 0x00, 0x01, 0x05] } = some (.retire 5) := by decide +kernel

theorem test_decode_setStation : decodeSelection
    { bytes := [0x20, 0x00, 0x11, 0x03, 0x57, 0x37, 0x48, 0x4F, 0x53, 0x20, 0x20, 0x20, 0x01, 0x00, 0xFF, 0x02, 0x01,
        0x01, 0x2C, 0x03] } =
      some (.setStation ⟨3, w7hosField, 1, 0, 0xFF, 2, 1, 300, 3⟩) := by decide +kernel

theorem test_decode_setChannel : decodeSelection
    { bytes := [0x30, 0x00, 0x1B, 0x02, 0x01, 0xFF, 0x02, 0x01, 0x00, 0x01, 0x1E, 0x1F, 0x14, 0x0A, 0x07, 0x0B, 0x02,
        0x58, 0x00, 0x00, 0x02, 0x58, 0x00, 0x00, 0x00, 0x05, 0x00, 0x00, 0x00, 0x78] } =
      some (.setChannel 2 ⟨511, 2, 1, 0, 1, 30, 31, 20, 10, 7, 11, 600, 600, 5, 120⟩) := by decide +kernel

theorem test_decode_setOwn : decodeSelection
    { bytes := [0x40, 0x00, 0x1A, 0x0F, 0xFF, 0x57, 0x37, 0x48, 0x4F, 0x53, 0x20, 0x20, 0x20, 0xFF, 0x10, 0x00, 0x80,
        0x00, 0x20, 0x01, 0x00, 0x02, 0x58, 0x04, 0x01, 0x00, 0x32, 0x01, 0x2C] } =
      some (.setOwn ⟨0x0FFF, w7hosField, 0xFF, 16, 128, 32, 256, 600, 4, 1, 0, 50, 300⟩) := by decide +kernel

theorem test_decode_setClock : decodeSelection { bytes := [0x51, 0x00, 0x04, 0x00, 0x00, 0x0E, 0xC4] } =
    some (.setClock 3780) := by decide +kernel

theorem test_decode_readFrame : decodeSelection { bytes := [0xA5, 0x00, 0x00], extraBits := 3 } = some .readFrame := by
  decide +kernel

/-- Section 10.6, step 6: length field 3 and two parameter bytes. -/
theorem test_decode_wrong_length : decodeSelection { bytes := [0x19, 0x00, 0x03, 0x05, 0x00] } = some .badFrame := by
  decide +kernel

theorem test_decode_unknown_code : decodeSelection { bytes := [0x60, 0x00, 0x00] } = some .badFrame := by decide +kernel

theorem test_decode_partial_byte : decodeSelection { bytes := [0x50, 0x00, 0x00], extraBits := 1 } = some .badFrame := by
  decide +kernel

theorem test_decode_empty_selection : decodeSelection { bytes := [] } = none := by decide +kernel

theorem test_decode_reset_in_selection : decodeSelection { bytes := [0x50, 0, 0], resetAsserted := true } = none := by
  decide +kernel

/-! ## The spec's worked figures -/

/-- R114's example: the beacon of KR4EOC has the check 0334. -/
theorem test_beacon_frame : frameOf 0x42 allStationsField kr4eoc [] =
    [0x01, 0x42, 0x2A, 0x20, 0x20, 0x20, 0x20, 0x20, 0x20, 0x20, 0x4B, 0x52, 0x34, 0x45, 0x4F, 0x43, 0x20, 0x20,
     0x30, 0x33, 0x33, 0x34, 0x04] := by decide +kernel

/-- Section 2.13: A(197) = 1,642 ms, W = 500 ms, T_ack = 900 ms. -/
theorem test_section_2_13_times : net1.settings.airTime 197 = 1642 ∧ net1.settings.signalFreeWait 1 0 = 500 ∧
    net1.settings.receiptTimeout = 900 := by decide +kernel

/-- Section 8.11: X = 3,759 ms, gap limit 134 ms; and 8.12: A(1,007) = 80,560 ms at the slowest setting. -/
theorem test_section_8_11_figures :
    let g := { Settings.reset with stagger := 2 }
    g.signalFreeWait 2 1 + g.keyUpNeed 200 = 3759 ∧ g.gapLimit = 134 ∧
    ({ g with divisor := 511, parity := .even, twoStops := true } : Settings).airTime 1007 = 80560 := by decide +kernel

/-- Table 8-5. -/
theorem test_retry_delays : Settings.reset.retryDelay 1 = 10 ∧ Settings.reset.retryDelay 9 = 2560 ∧
    Settings.reset.retryDelay 10 = 3600 := by decide +kernel

/-- Section 9.8: a window of length 1,500 s in a period of 5,000 s at the midnight wrap, with offset 0 and 300. -/
theorem test_window_at_midnight :
    let g := { Settings.reset with period := 5000, length := 1500 }
    let o := { g with offset := 300 }
    g.window 86399 0 = .opened 101000 ∧ windowEvent (g.window 86399 999) (g.window 0 0) = some .opened ∧
    o.window 86399 0 = .opened 401000 ∧ windowEvent (o.window 86399 999) (o.window 0 0) = some .closed := by
  decide +kernel

/-! ## Commands on a small part -/

/-- Section 2.13, 1,000,000: FILE answers DONE with the handle, the serial and channel 1, and the entry is taken at
once: STAGED with W = 500 ms. -/
theorem test_file_is_taken : runs (.file 2 w7hosField (List.replicate 150 0x41)) small (fun t =>
    t.response = ⟨.done, [0, 0, 1, 1]⟩ && (t.entry 0).state = .engaged && (t.entry 0).lastHop = some w7hos &&
      (t.chan 1).engine = .staged 0 500 (500 + 300 + 1642 + 900) && t.freeBlocks = 2043) = true := by decide +kernel

/-- A precedence of 8 is refused. -/
theorem test_file_bad_value : runs (.file 8 w7hosField []) small (fun t => t.response = ⟨.badValue, []⟩ &&
    t.freeEntries = 256) = true := by decide +kernel

/-- Section 2.13: the receipt timeout leaves entry 5 in RETRY_WAIT for 10 s. -/
theorem test_receipt_timeout : runs (.receiptTimeout 1) (engaged (.awaiting 5 0)) (fun t =>
    (t.entry 5).state = .retryWait && (t.entry 5).attemptCount = 1 && (t.entry 5).notBefore = some 10000 &&
      (t.entry 5).nextHop = none && (t.entry 5).lastHop = some w7hos) = true := by decide +kernel

/-- Section 2.13: a late ACCEPT makes it SENT with CONFIRMED_LATE. -/
theorem test_late_receipt :
    let s := small.setEntry 5 { entry5 with state := .retryWait, lastHop := some w7hos, notBefore := some 10000 }
    let t := applyReceipt ⟨kr4eoc, 37⟩ .accept w7hos s
    (t.entry 5).state = .sent ∧ (t.entry 5).lastOutcome = .confirmedLate ∧ (t.entry 5).notBefore = none ∧
      t.attn = true := by decide +kernel

/-- Section 2.13, the same life with a cancel. -/
theorem test_cancel_awaiting : runs (.cancel 5) (engaged (.awaiting 5 300)) (fun t => t.response = ⟨.done, [4]⟩ &&
    (t.entry 5).cancelPending = some true && (t.entry 5).state = .engaged) = true := by decide +kernel

/-- Section 2.13: RETIRE keeps role, key and accession, and returns five blocks. -/
theorem test_retire : runs (.retire 5) (with5 .sent) (fun t => (t.entry 5).state = .spent &&
    (t.entry 5).key = ⟨kr4eoc, 37⟩ && (t.entry 5).accession = 412 && t.freeBlocks = 2053) = true := by decide +kernel

/-- Section 10.6: ABORT CHANNEL answers handle 5 and READY and leaves the pause set. -/
theorem test_abort_channel : runs (.abortChannel 1) (engaged (.awaiting 5 300)) (fun t =>
    t.response = ⟨.done, [5, 3]⟩ && (t.chan 1).abortPause && (t.chan 1).engine = .idle) = true := by decide +kernel

/-- Section 5.11: DISABLE CHANNEL 836 ms into a frame at D = 63 starts a break at the end of the bit on the line, which stands
256/384 ms away, and aborts the entry; the break has not ended 13 ms after the cut and has 14 ms after it. -/
theorem test_disable_during_frame : runs (.disableChannel 1)
    ((engaged (.sending 5 none)).updChan 1 fun x => { x with transmitter := .sending .traffic (List.replicate 197 0x41) 836 })
    (fun t => (t.chan 1).transmitter = .brk 320 256 0 false && (t.chan 1).transmitter.breakRemaining = some 15 &&
      !(t.chan 1).txd && (t.chan 1).lineBits.length = 16 &&
      (t.entry 5).lastOutcome = .aborted && (t.entry 5).state = .ready) = true ∧
    breakOver 320 256 12 = false ∧ breakOver 320 256 13 = true := by decide +kernel

/-- Section 5.10: the jam threshold at 5 s. -/
theorem test_jammed : runs (.jammed 1)
    (small.setChan 1 { net1 with busy := true, cdPin := true, clearTime := 0, busyLength := 5000
                                 settings := { net1.settings with jamLimit := 5 } }) (fun t =>
    (t.chan 1).jammed && (t.chan 1).jamChanged && t.attn) = true := by decide +kernel

/-- Section 9.7: the clock of a channel with a window set from 3,660 to 3,780 withdraws the STAGED exchange, and from
3,780 to 4,200 takes it again. -/
theorem test_set_clock_across_window :
    let g := { net1.settings with period := 600, length := 120 }
    let s := (engaged (.staged 5 500 3342)).updChan 1 fun x => { x with settings := g }
    runs (.setClock 3780) { s with time := { s.time with clockSecond := 3660, clockMs := 200 } } (fun t =>
      (t.entry 5).state = .ready && (t.entry 5).lastOutcome = .withdrawn && (t.chan 1).queue = [5] &&
        runs (.setClock 4200) t (fun u => (u.chan 1).engine = .staged 5 500 3342)) = true := by decide +kernel

/-- R170: a second above 86,399 is refused. -/
theorem test_set_clock_bad : runs (.setClock 86400) small (fun t => t.response = ⟨.badValue, []⟩) = true := by
  decide +kernel

/-- R158: SET CLASS clamps. -/
theorem test_set_class : runs (.setClass 7 0 16) small (fun t => t.classRow 7 = ⟨1, 15⟩ &&
    t.response = ⟨.done, [7, 1, 15]⟩) = true := by decide +kernel

/-- R166, R168: the counter wraps, and the hundredth advance yields a quantum. -/
theorem test_millisecond_wraps :
    runs .millisecondAdvance { small with time := { small.time with counter := 0xFFFFFFFF, quantumDivider := 99 } }
      (fun t => t.time.counter = 0 && t.time.quantumDivider = 0 && t.time.quantumDue &&
        (t.chan 1).clearTime = 40001) = true := by decide +kernel

/-- R95: a start bit begins a character. -/
theorem test_start_bit : runs (.startBit 1 true) small (fun t => (t.chan 1).sampler = .character) = true := by
  decide +kernel

/-- R94: what parity makes of A: even parity has its bit at 0, odd at 1. -/
theorem test_parity : handover .even ⟨0x41, false, true⟩ = .good 0x41 ∧ handover .odd ⟨0x41, true, true⟩ = .good 0x41 ∧
    handover .even ⟨0x41, true, true⟩ = .error ∧ handover .even ⟨0, false, false⟩ = .brk ∧
    handover .even ⟨0, true, false⟩ = .error := by decide +kernel

/-- R95: of samples 7, 8 and 9 two decide each bit. -/
theorem test_votes : voted ⟨⟨0x41, false, true⟩, ⟨0x43, true, false⟩, ⟨0x51, true, true⟩⟩ = ⟨0x41, true, true⟩ := by
  decide +kernel

/-- R103, R102: the jam threshold reached at a millisecond, then the fall of CD before JAMMED is taken: the mark came and
went, and JAM_CHANGED tells of it. -/
theorem test_jam_reached_then_clear : runs (.cdInputChange 1 false)
    (small.setChan 1 { net1 with busy := true, cdPin := true, clearTime := 0, busyLength := 30000 }) (fun t =>
    !(t.chan 1).jammed && (t.chan 1).jamChanged && !(t.chan 1).busy) = true := by decide +kernel

/-- R125: a gap of 135 ms over a limit of 134 ms, then an SOH: the old frame is damaged, and the SOH starts a new one. -/
theorem test_gap_before_character : runs (.goodCharacter 1 ⟨⟨1, false, true⟩, ⟨1, false, true⟩, ⟨1, false, true⟩⟩)
    (small.setChan 1 { net1 with sampler := .character
                                 receiver := { Receiver.hunt with phase := .head, header := [0x42], gap := 135 } }) (fun t =>
    (t.chan 1).receiver = Receiver.start) = true := by decide +kernel

/-- Section 11.2: the status record of a small part. -/
theorem test_read_status : runs .readStatus { small with reachChanged := true } (fun t => t.reachChanged = false &&
    t.response.data.length = 10) = true := by decide +kernel

/-! ## Witnesses: for each statement with hypotheses, a state and operands that meet them -/

/-- The small part is at rest, so the second half of `State.Ends` has a use. -/
theorem witness_Ends_at_rest : small.AtRest := by unfold State.AtRest; decide +kernel

theorem witness_FileStoresMessage : (∃ (h : Handle) (s1 : State), (2 : Byte).toNat = (2 : Fin 8).val ∧
    parseCall w7hosField.toList = some w7hos ∧ w7hos ≠ small.own.call ∧ [(0x48 : Byte)].length ≤ 960 ∧
    (∀ x ∈ [(0x48 : Byte)], isBodyChar x = true) ∧ small.own.call ≠ [] ∧
    small.allocate (small.filedEntry 2 w7hos [0x48]) = some (h, s1)) ∧
    (∀ c, (small.chan c).abortPause = false) ∧ 1 ≤ small.ownSerial := by
  have found : (small.allocate (small.filedEntry 2 w7hos [0x48])).isSome = true := by decide +kernel
  obtain ⟨⟨h, s1⟩, e⟩ := Option.isSome_iff_exists.mp found
  exact ⟨⟨h, s1, by decide +kernel, by decide +kernel, by decide +kernel, by decide +kernel, by decide +kernel,
    by decide +kernel, e⟩, by decide +kernel, by decide +kernel⟩

/-- FILE refused: a precedence of 8, a blank destination, a body of 961 characters, a tab; an empty own call; no blocks. -/
theorem witness_FileRefused : 8 ≤ (8 : Byte).toNat ∧ parseCall blankField.toList = none ∧
    960 < (List.replicate 961 (0x41 : Byte)).length ∧ isBodyChar 0x09 = false ∧ State.reset.own.call = [] ∧
    parseCall w7hosField.toList = some w7hos ∧ w7hos ≠ State.reset.own.call ∧
    ({ small with freeBlocks := 0 }).own.call ≠ [] ∧
    ({ small with freeBlocks := 0 } : State).allocate (small.filedEntry 2 w7hos [0x48]) = none := by decide +kernel

theorem witness_ReadEntryAndText : ((with5 .ready).entry 5).state ≠ .free ∧ ((with5 .ready).entry 5).state ≠ .spent ∧
    ((with5 .ready).entry 5).state ≠ .receiving ∧ ((with5 .spent).entry 5).state = .spent ∧
    ((with5 .receiving).entry 5).state = .receiving ∧ (small.entry 5).state = .free := by decide +kernel

/-- A key that is held; serials 1 and 9999 that are not; serials 0 and 10000; the selectors 3, 4 and 5 and the starts 255
and 256. -/
theorem witness_LookupsAnswer : parseCall w7hosField.toList = some w7hos ∧
    (let s := small.setEntry 5 { entry5 with key := ⟨w7hos, 9999⟩ };
      (s.entry 5).state ≠ .free ∧ (s.entry 5).key = ⟨w7hos, (9999 : Half).toNat⟩ ∧
        (∀ k, k < 5 → (s.entry k).state = .free ∨ (s.entry k).key ≠ ⟨w7hos, 9999⟩)) ∧
    (∀ k, (small.entry k).state = .free ∨ (small.entry k).key ≠ ⟨w7hos, 1⟩) ∧
    (0 : Half).toNat = 0 ∧ 9999 < (10000 : Half).toNat ∧ (3 : Byte).toNat = (3 : Chan).val ∧ (255 : Half).toNat ≤ 255 ∧
    (4 : Byte).toNat = 4 ∧ 4 < (5 : Byte).toNat ∧ 255 < (256 : Half).toNat := by decide +kernel

theorem witness_NextChangedCollects :
    (let s := small.setEntry 5 { entry5 with changed := true };
      (s.entry 5).changed = true ∧ ∀ k, k < 5 → (s.entry k).changed = false) ∧
    ∀ h, (small.entry h).changed = false := by decide +kernel

/-- Precedence 7 and "unchanged", a destination given and unchanged; an entry in every state; precedence 8 and the own
call refused. -/
theorem witness_AmendByState : (7 : Byte).toNat = (7 : Fin 8).val ∧ (0xFF : Byte) = 0xFF ∧
    ((with5 .ready).entry 5).precedence = 2 ∧ (∀ x ∈ blankField.toList, x = 0x20) ∧
    ((with5 .ready).entry 5).destination = w7hos ∧ parseCall w7hosField.toList = some w7hos ∧ w7hos ≠ small.own.call ∧
    (∀ x, ((with5 x).entry 5).state = x) ∧ (8 : Byte) ≠ 0xFF ∧ 8 ≤ (8 : Byte).toNat ∧ (small.entry 5).state = .free :=
  ⟨by decide +kernel, by decide +kernel, by decide +kernel, by decide +kernel, by decide +kernel, by decide +kernel,
    by decide +kernel, fun x => by cases x <;> decide +kernel, by decide +kernel, by decide +kernel, by decide +kernel⟩

theorem witness_CancelByState : (∀ x, ((with5 x).entry 5).state = x) ∧
    (((engaged (.staged 5 500 3342)).entry 5).state = .engaged ∧ (engaged (.staged 5 500 3342)).engineOf 5 = some 1 ∧
      ((engaged (.staged 5 500 3342)).chan 1).engine = .staged 5 500 3342) ∧
    (((engaged (.sending 5 none)).entry 5).state = .engaged ∧ (engaged (.sending 5 none)).engineOf 5 = some 1 ∧
      ((engaged (.sending 5 none)).chan 1).engine = .sending 5 none) ∧
    (((engaged (.awaiting 5 9)).entry 5).state = .engaged ∧ (engaged (.awaiting 5 9)).engineOf 5 = some 1 ∧
      ((engaged (.awaiting 5 9)).chan 1).engine = .awaiting 5 9) :=
  ⟨fun x => by cases x <;> decide +kernel, by decide +kernel, by decide +kernel, by decide +kernel⟩

/-- RENEW and RETIRE: an entry may be in every state. -/
theorem witness_RenewPutsBack_RetireSpendsEntry : ∀ x, ((with5 x).entry 5).state = x := fun x => by
  cases x <;> decide +kernel

/-- The thresholds at their boundaries: 15 and 16 free entries, 31 and 32; an own frame that waits, room, and no room. -/
theorem witness_CongestionTested :
    (let s := { small with freeEntries := 15 };
      s.congestion = .normal ∧ s.freeEntries < s.own.enterEntries) ∧
    (let s := { small with freeEntries := 16, freeBlocks := 128 };
      s.congestion = .normal ∧ ¬ (s.freeEntries < s.own.enterEntries ∨ s.freeBlocks < s.own.enterBlocks)) ∧
    (let s := { small with congestion := .congested, freeEntries := 32, freeBlocks := 256 };
      s.congestion = .congested ∧ s.own.leaveEntries ≤ s.freeEntries ∧ s.own.leaveBlocks ≤ s.freeBlocks ∧
        s.own.releaseMode = true ∧ ({ s.own with releaseMode := false } : OwnStation).releaseMode = false) ∧
    (let s := { small with congestion := .congested, freeEntries := 31 };
      s.congestion = .congested ∧ ¬ (s.own.leaveEntries ≤ s.freeEntries ∧ s.own.leaveBlocks ≤ s.freeBlocks)) ∧
    (let r := ControlFrame.receipt w7hos ⟨w7hos, 1⟩ .accept;
      (∀ f ∈ [r, r, r], f.isOwn = false) ∧ [r, r, r].length < 4 ∧ (∀ f ∈ [r, r, r, r], f.isOwn = false) ∧
        4 ≤ [r, r, r, r].length ∧ [r, .ownHold 600 4, r] = [r] ++ [.ownHold 600 4] ++ [r] ∧
        ∀ f ∈ [r] ++ [r], f.isOwn = false) := by decide +kernel

/-- SET STATION of W7HOS at index 63, anew and over the record of the same call. -/
theorem witness_SetStationWritesRecord :
    small.parseStation ⟨3, w7hosField, 1, 0, 0xFF, 0xFF, 0, 300, 3⟩ =
      some (3, { w7hosRecord with interval := 300, sensitivity := 3 }) ∧
    State.reset.parseStation ⟨63, w7hosField, 1, 0, 0xFF, 0xFF, 0, 300, 3⟩ =
      some (63, { w7hosRecord with interval := 300, sensitivity := 3 }) ∧
    (small.isRelay 3 = true → w7hosRecord.kind = .direct) ∧
    ((State.reset.station 63).any (·.call = w7hos) = false) ∧ w7hosRecord.call = w7hosRecord.call ∧
    (w7hosRecord.interval = 0 ∧ ({ w7hosRecord with reach := .unheard } : Station).reach = .unheard) ∧
    ¬ (w7hosRecord.interval = 0 ∧ w7hosRecord.reach = .unheard) := by decide +kernel

/-- Index 64, the call of another index, channel 4, a VIA record over index 3, which is a relay. -/
theorem witness_SetStationRefused : 64 ≤ (64 : Byte).toNat ∧ 4 ≤ (4 : Byte).toNat ∧
    (parseCall w7hosField.toList = some w7hos ∧ small.station 3 = some w7hosRecord ∧ w7hosRecord.call = w7hos ∧
      (3 : Index).val ≠ (5 : Byte).toNat) ∧
    (let s := small.setStation 9 (some { w7hosRecord with call := [0x42], kind := .via 3 });
      let t := s.setStation 5 (some { w7hosRecord with call := [0x43] });
      t.parseStation ⟨3, w7hosField, 1, 1, 5, 0xFF, 0, 0, 0⟩ = some (3, { w7hosRecord with kind := .via 5 }) ∧
        t.station 9 = some { w7hosRecord with call := [0x42], kind := .via 3 }) := by decide +kernel

/-- Index 3 free to be dropped; named as a relay; index 63 empty; index 64. -/
theorem witness_ReadAndDropStation_ForceStationMarks : (3 : Byte).toNat = (3 : Index).val ∧
    small.station 3 = some w7hosRecord ∧
    (∀ j, small.station j ≠ none → j = 3) ∧ w7hosRecord.kind ≠ .via 3 ∧ w7hosRecord.fallback ≠ some 3 ∧
    small.own.defaultRoute ≠ some 3 ∧
    (small.setStation 9 (some { w7hosRecord with kind := .via 3 })).station 9 = some { w7hosRecord with kind := .via 3 } ∧
    (63 : Byte).toNat = (63 : Index).val ∧ small.station 63 = none ∧ 64 ≤ (64 : Byte).toNat ∧
    (1 : Byte).toNat = true.toNat ∧ (0 : Byte).toNat = false.toNat ∧ w7hosRecord.forcedUnheard = false ∧
    2 ≤ (2 : Byte).toNat := by decide +kernel

/-- A usable DIRECT station, and a VIA one behind it; a candidate, and an unusable one with a usable fallback. -/
theorem witness_RouteResolved : small.candidate w7hos = some 3 ∧ w7hos ≠ small.own.call ∧
    small.station 3 = some w7hosRecord ∧ small.usable w7hosRecord = true ∧
    (let v := { w7hosRecord with call := [0x42], kind := .via 3 };
      let s := small.setStation 9 (some v);
      v.kind = .via 3 ∧ s.station 3 = some w7hosRecord ∧ s.usable v = true ∧ s.candidate [0x42] = some 9) ∧
    (let f := { w7hosRecord with call := [0x42], forcedUnheard := true, fallback := some 3 };
      let s := small.setStation 9 (some f);
      s.candidate [0x42] = some 9 ∧ s.station 9 = some f ∧ s.usable f = false ∧ f.fallback = some 3 ∧
        s.station 3 = some w7hosRecord ∧ s.usable w7hosRecord = true) ∧
    small.candidate [0x42] = none ∧ [0x42] ≠ small.own.call := by decide +kernel

/-- A RELAY entry handed over by its own next hop, and one handed over by another station. -/
theorem witness_RouteResolved_loop : small.resolve w7hos = some 3 ∧ small.station 3 = some w7hosRecord ∧
    (∀ f : Option Call, f = some w7hosRecord.call ∨ f = some [0x42] →
      let e := { entry5 with role := .relay, receivedFrom := f }
      e.role = .relay ∧ small.resolve e.destination = some 3) ∧
    some [0x42] ≠ some w7hosRecord.call ∧ entry5.role ≠ .relay ∧ small.resolve [0x42] = none := by
  refine ⟨by decide +kernel, by decide +kernel, ?_, by decide +kernel, by decide +kernel, by decide +kernel⟩
  rintro f (rfl | rfl) <;> decide +kernel

/-- A settings block whose every field is in range; channel 3 disabled, channel 1 enabled, channel 4; parity 3. -/
def block : SettingsBlock := ⟨511, 2, 2, 2, 1, 255, 255, 255, 255, 7, 255, 3600, 86400, 86399, 86400⟩

theorem witness_SetChannelWritesSettings : (storedSettings block).isSome = true ∧
    (storedSettings { block with period := 0 }).isSome = true ∧ (storedSettings { block with period := 60 }).isSome = true ∧
    (3 : Byte).toNat = (3 : Chan).val ∧ (small.chan 3).enabled = false ∧ (1 : Byte).toNat = (1 : Chan).val ∧
    (small.chan 1).enabled = true ∧ 4 ≤ (4 : Byte).toNat ∧ 3 ≤ (3 : Byte).toNat := by decide +kernel

theorem witness_ReadChannelAnswers : (1 : Byte).toNat = (1 : Chan).val ∧ (small.chan 1).beacon ≠ .onAir ∧
    ((small.setChan 1 { net1 with beacon := .onAir }).chan 1).beacon = .onAir ∧ 4 ≤ (4 : Byte).toNat := by decide +kernel

theorem witness_EnableStartsChannel : (3 : Byte).toNat = (3 : Chan).val ∧ small.own.call ≠ [] ∧
    (small.chan 3).enabled = false ∧ State.reset.own.call = [] ∧ (small.chan 1).enabled = true ∧ 4 ≤ (4 : Byte).toNat := by
  decide +kernel

/-- Every phase of an exchange, alone, with no JAMMED reached; and a frame in reception that holds a reservation. -/
theorem witness_DisableStopsChannel : (1 : Byte).toNat = (1 : Chan).val ∧ (small.chan 1).enabled = true ∧
    (∀ c, (small.chan c).abortPause = false) ∧
    (∀ e, e = Engine.staged 5 500 3342 ∨ e = .sending 5 none ∨ e = .sending 5 (some .noroute) ∨ e = .awaiting 5 9 →
      ((engaged e).chan 1).engine.entry? = some 5 ∧ (∀ c, 5 ∉ ((engaged e).chan c).queue) ∧ 5 ∉ (engaged e).unrouted ∧
        (∀ d, d ≠ 1 → ((engaged e).chan d).engine.entry? ≠ some 5) ∧
        ((engaged e).chan 1).receiver.reservation = none ∧ ((engaged e).chan 1).jamReached = false) ∧
    (let s := (engaged (.awaiting 5 9)).updEntry 5 fun e => { e with cancelPending := some true };
      (s.chan 1).enabled = true ∧ (s.chan 1).engine = .awaiting 5 9 ∧ (s.entry 5).cancelPending = some true) ∧
    (let s := (small.setChan 1 { net1 with receiver := { Receiver.hunt with phase := .body, reservation := some 5 } });
      (s.chan 1).receiver.reservation = some 5 ∧ (∀ c, 5 ∉ (s.chan c).queue) ∧ 5 ∉ s.unrouted ∧
        ∀ c, (s.chan c).engine.entry? ≠ some 5) := by
  refine ⟨by decide +kernel, by decide +kernel, by decide +kernel, ?_, by decide +kernel, by decide +kernel⟩
  rintro e (rfl | rfl | rfl | rfl) <;> decide +kernel

/-- R94, R98: the letter A cut 1 ms after its start bit began, in its data bit 0, which is mark, and 0 ms after, in the start
bit; TXDn in the rest of the cut bit, at its end, at the end of the 13 bit times of space. -/
theorem test_cut_bit_level :
    Transmitter.cut net1.settings (.sending .beacon [0x41] 1) = .brk 320 256 0 true ∧
    Transmitter.cut net1.settings (.sending .beacon [0x41] 0) = .brk 320 320 0 false ∧
    (∀ k, k < 14 → ({ net1 with transmitter := .brk 320 256 k true } : Channel).txd =
      (k = 0 || 256 + 13 * 320 ≤ k * 384 : Bool)) := by decide +kernel

/-- A frame of two characters cut inside a bit, at the end of one, and at its end; a break that has run the rest of a bit and
its 15 bit times, and one that has not, on an enabled and on a disabled channel. -/
theorem witness_CutAndBreak :
    (let g := net1.settings;
      5 * 384 < [1, 2].length * g.bitsPerChar * ((g.divisor + 1) * 5) ∧ 5 * 384 % ((g.divisor + 1) * 5) = 0 ∧
        7 * 384 % ((g.divisor + 1) * 5) ≠ 0 ∧ [1, 2].length * g.bitsPerChar * ((g.divisor + 1) * 5) ≤ 17 * 384) ∧
    ((small.setChan 1 { net1 with transmitter := .brk 320 64 12 false }).chan 1).transmitter = .brk 320 64 12 false ∧
    64 + 15 * 320 < (12 + 1) * 384 ∧ (11 + 1) * 384 ≤ 64 + 15 * 320 ∧
    (0 * 384 < 384 ∧ 384 ≤ 1 * 384 ∧ 1 * 384 < 384 + 13 * 320 ∧ 384 + 13 * 320 ≤ 12 * 384) ∧
    ((small.setChan 1 { net1 with transmitter := .brk 320 64 12 false }).chan 1).enabled = true ∧
    ((small.setChan 2 { Channel.reset with transmitter := .brk 320 64 12 false }).chan 2).enabled = false := by decide +kernel

theorem witness_AbortEndsExchange :
    (∀ e, e = Engine.staged 5 500 3342 ∨ e = .sending 5 none ∨ e = .sending 5 (some .full) ∨ e = .awaiting 5 9 →
      ((engaged e).chan 1).engine = e ∧ e.entry? = some 5 ∧ ((engaged e).chan 1).abortPause = false ∧
        ∀ d, d ≠ 1 → ((engaged e).chan d).engine.entry? ≠ some 5) ∧
    (small.chan 1).engine = .idle ∧ (1 : Byte).toNat = (1 : Chan).val ∧ 4 ≤ (4 : Byte).toNat := by
  refine ⟨?_, by decide +kernel⟩
  rintro e (rfl | rfl | rfl | rfl) <;> decide +kernel

/-- A pause that stands beside an exchange, which waits in no collection and is in no other engine. -/
theorem witness_AbortEndsExchange_paused :
    let s := (engaged (.awaiting 5 9)).updChan 1 fun x => { x with abortPause := true }
    (s.chan 1).engine.entry? = some 5 ∧ (s.chan 1).abortPause = true ∧ (∀ c, 5 ∉ (s.chan c).queue) ∧ 5 ∉ s.unrouted ∧
      ∀ d, d ≠ 1 → (s.chan d).engine.entry? ≠ some 5 := by decide +kernel

theorem witness_SetClassWritesRow : (7 : Byte).toNat = (7 : Fin 8).val ∧ 8 ≤ (8 : Byte).toNat := by decide

/-- SET OWN with every field given and accepted, the call being the present one; with no field given; a call that a record
holds; index 64; a call that differs while channel 1 is enabled. -/
def ownParameters : OwnBlock :=
  ⟨0x0FFF, #v[0x4B, 0x52, 0x34, 0x45, 0x4F, 0x43, 0x20, 0x20], 3, 255, 2047, 256, 2048, 600, 7, 1, 0, 50, 300⟩

theorem witness_SetOwnByMask :
    ((small.givenOwn ownParameters).isSome = true ∧ (small.givenOwn ownParameters).map (·.call) = some small.own.call) ∧
    small.givenOwn { ownParameters with mask := 0 } = some small.own ∧
    (parseCall w7hosField.toList = some w7hosRecord.call ∧ small.station 3 = some w7hosRecord) ∧
    (ownParameters.mask.getLsbD 1 = true ∧ (64 : Byte) ≠ 0xFF ∧ 64 ≤ (64 : Byte).toNat) ∧
    (small.givenOwn { ownParameters with call := #v[0x42, 0x20, 0x20, 0x20, 0x20, 0x20, 0x20, 0x20] }).map (·.call) =
      some [0x42] ∧ [0x42] ≠ small.own.call ∧ (small.chan 1).enabled = true := by decide +kernel

/-- The seconds at the end of the day; and section 9.7: at 3,780 the window of channel 1 closes over a STAGED exchange. -/
theorem witness_ClockSetAndRead : (86399 : Quad).toNat ≤ 86399 ∧ 86399 < (86400 : Quad).toNat ∧
    (let s0 := (engaged (.staged 5 500 3342)).updChan 1 fun x =>
      { x with settings := { net1.settings with period := 600, length := 120 } };
      let s := { s0 with time := { s0.time with clockSecond := 3660, clockMs := 200 } };
      (∀ c, (s.chan c).windowDue = none) ∧ (∀ c, (s.chan c).abortPause = false) ∧ (s.chan 1).enabled = true ∧
        windowEvent (s.window 1) ((s.chan 1).settings.window 3780 0) = some .closed ∧
        (s.chan 1).engine = .staged 5 500 3342 ∧ (∀ c, 5 ∉ (s.chan c).queue) ∧ 5 ∉ s.unrouted ∧
        (∀ d, d ≠ 1 → (s.chan d).engine.entry? ≠ some 5) ∧
        windowEvent (s.window 0) ((s.chan 0).settings.window 3780 0) = none) := by decide +kernel

/-- A request frame to the byte, one whose length field is 1 too high, a short one, a read frame, and none. -/
theorem witness_ReadFrameAndBadFrame :
    ([0x19, 0x00, 0x01, 0x05] = encodeRequest (.retire 5) ∧ (Instr.retire 5).isRequest = true ∧
      (Instr.retire 5).wellFormed = true ∧ (0x19 : Byte) ≠ 0xA5) ∧
    [(0x00 : Byte), 0x02, 0x05].length ≠ (halfAt [0x00, 0x02, 0x05] 0).toNat + 2 ∧ [(0x00 : Byte)].length < 2 ∧
    1040 < (halfAt [0x04, 0x11] 0).toNat ∧
    (∃ x : Selection, x.bytes = 0xA5 :: [0] ∧ x.resetAsserted = false) ∧ (∃ x : Selection, x.bytes = 0xA5 :: [0] ∧ x.resetAsserted = true) := by
  refine ⟨by decide +kernel, by decide +kernel, by decide +kernel, by decide +kernel, ⟨⟨[0xA5, 0], 0, false⟩, rfl, rfl⟩,
    ⟨⟨[0xA5, 0], 0, true⟩, rfl, rfl⟩⟩

/-- Section 9.8's window at each clause's boundary; and a clock second due at the end of its second. -/
theorem witness_ClockSecondAndWindows :
    (let g := { Settings.reset with period := 5000, length := 1500 };
      g.period ≠ 0 ∧ g.offset < g.period ∧ g.length ≤ g.period ∧
        (g.length ≤ (84999 + g.period - g.offset) % g.period ∧ (85000 + g.period - g.offset) % g.period < g.length) ∧
        ((1499 + g.period - g.offset) % g.period < g.length ∧ g.length ≤ (1500 + g.period - g.offset) % g.period) ∧
        ((0 + g.period - g.offset) % g.period * 1000 + 0 < (86399 + g.period - g.offset) % g.period * 1000 + 999) ∧
        ((0 + g.period - g.offset) % g.period * 1000 + 999 ≤ (1 + g.period - g.offset) % g.period * 1000 + 0) ∧
        (g.length ≤ (1500 + g.period - g.offset) % g.period ∧ g.length ≤ (1501 + g.period - g.offset) % g.period)) ∧
    (let s := { small with time := { small.time with clockDue := true, clockMs := 999, clockSecond := 86399 } };
      s.time.clockDue = true ∧ s.time.clockMs = 999 ∧ s.time.clockSecond ≤ 86399 ∧ (s.chan 1).windowDue = none) ∧
    net1.settings.period = 0 ∧ small.time.clockDue = false ∧
    (let s := { small with time := { small.time with clockDue := true } };
      s.time.clockDue = true ∧ s.time.clockMs ≠ 999) := by decide +kernel

/-- CLEAR CHANNELS: one channel enabled, one not; an exchange alone; a reservation whose release ends congestion, and one whose
release does not. -/
theorem witness_ClearChannelsClears : (small.chan 1).enabled = true ∧ (small.chan 0).enabled = false ∧
    (∀ c, (small.chan c).enabled = false → (small.chan c).abortPause = false) ∧ (∀ c, (small.chan c).jamReached = false) ∧
    (let s := engaged (.awaiting 5 9);
      (s.chan 1).enabled = true ∧ (s.chan 1).engine.entry? = some 5 ∧ (∀ c, 5 ∉ (s.chan c).queue) ∧ 5 ∉ s.unrouted ∧
        (∀ d, d ≠ 1 → (s.chan d).engine.entry? ≠ some 5) ∧ ∀ c, (s.chan c).receiver.reservation = none) ∧
    (∀ n : Fin 2, let s := { small.setChan 1 { net1 with receiver := { Receiver.hunt with phase := .body, reservation := some 5 } }
                            with congestion := .congested, freeEntries := 30 + n.val };
      (s.chan 1).enabled = true ∧ (s.chan 1).receiver.reservation = some 5 ∧ (∀ c, 5 ∉ (s.chan c).queue) ∧ 5 ∉ s.unrouted ∧
        (∀ c, (s.chan c).engine.entry? ≠ some 5) ∧ s.own.enterEntries ≤ s.own.leaveEntries ∧
        (s.own.leaveEntries ≤ s.freeEntries + 1 ↔ n = 1) ∧ s.own.leaveBlocks ≤ s.freeBlocks) ∧
    ∀ c, (State.reset.chan c).enabled = false := by decide +kernel

/-- Channel 1 with a sampler state. -/
def sampling (x : Sampler) : State := small.setChan 1 { net1 with sampler := x }

theorem witness_SamplerMoves :
    (∀ x, ((sampling x).chan 1).enabled = true ∧ ((sampling x).chan 1).sampler = x ∧
      ((sampling x).chan 1).transmitter.keyed = false) ∧
    (((small.setChan 1 { net1 with transmitter := .brk 320 0 0 true }).chan 1).enabled = true ∧
      ((small.setChan 1 { net1 with transmitter := .brk 320 0 0 true }).chan 1).transmitter.keyed = true) :=
  ⟨fun x => by rcases x with _ | _ | (_ | _) | _ <;> decide +kernel, by decide +kernel⟩

/-- A character whose three samples agree. -/
def heard (b : Byte) (stop : Bool) : Sampled := ⟨⟨b, false, stop⟩, ⟨b, false, stop⟩, ⟨b, false, stop⟩⟩

/-- An SOH and another good character taken in HUNT, with nothing waiting; and in a frame whose gap limit has passed. -/
theorem witness_SohStartsFrame : ((sampling .character).chan 1).enabled = true ∧
    ((sampling .character).chan 1).sampler = .character ∧ ((sampling .character).chan 1).receiver = .hunt ∧
    ((sampling .character).chan 1).gapOver = false ∧ ((sampling .character).chan 1).jamReached = false ∧
    handover net1.settings.parity (voted (heard 0x01 true)) = .good (voted (heard 0x01 true)).data ∧
    handover net1.settings.parity (voted (heard 0x02 true)) = .good (voted (heard 0x02 true)).data ∧
    (voted (heard 0x01 true)).data = 0x01 ∧ (voted (heard 0x02 true)).data ≠ 0x01 ∧
    (let s := small.setChan 1 { net1 with
        sampler := .character, receiver := { Receiver.hunt with phase := .body, reservation := some 5, gap := 135 } };
      (s.chan 1).receiver.phase ≠ .hunt ∧ max 1 ((s.chan 1).settings.airTime 16) < (s.chan 1).receiver.gap ∧
        (s.chan 1).receiver.reservation = some 5 ∧ (∀ c, 5 ∉ (s.chan c).queue) ∧ 5 ∉ s.unrouted ∧
        ∀ c, (s.chan c).engine.entry? ≠ some 5) := by decide +kernel

/-- Channel 1 with a frame in reception. -/
def receiving (r : Receiver) : State := small.setChan 1 { net1 with sampler := .character, receiver := r }

/-- A header's first character, its second, and its last; the last and last but one characters of a body, reserved and not; an
SOH in each. -/
theorem witness_HeaderAndBodyCollected :
    (let r := { Receiver.hunt with phase := .head, position := 1 };
      ((receiving r).chan 1).receiver.phase = .head ∧ r.header = [] ∧ r.position + 1 ≠ 18 ∧ (0x42 : Byte) ≠ 0x01 ∧
        ((0x42 : Byte), FrameKind.beacon) ∈
          [((0x54 : Byte), FrameKind.traffic), (0x41, .receipt), (0x48, .hold), (0x42, .beacon)]) ∧
    (∀ n : Fin 2, let r := { Receiver.hunt with phase := .head, header := [0x42], kind := some .beacon, position := 16 + n.val };
      ((receiving r).chan 1).receiver.phase = .head ∧ r.header ≠ [] ∧ r.kind = some .beacon ∧
        (r.position + 1 = 18 ↔ n = 1)) ∧
    (∀ n : Fin 3, ∀ h : Option Handle, h = none ∨ h = some 5 →
      let r := { Receiver.hunt with phase := .body, bodyRemaining := n.val, reservation := h }
      ((receiving r).chan 1).receiver.phase = .body ∧ ((receiving r).chan 1).receiver.reservation = h) ∧
    isBodyChar 0x0A = true ∧ isBodyChar 0x7F = false := by
  refine ⟨by decide +kernel, by decide +kernel, ?_, by decide +kernel, by decide +kernel⟩
  rintro n h (rfl | rfl) <;> revert n <;> decide +kernel

/-- From the own call; a held key; congestion at the own cutoff; no block to be had; an entry reserved. -/
theorem witness_TrafficDecided :
    kr4eoc = small.own.call ∧ w7hos ≠ small.own.call ∧
    (((with5 .ready).entry 5).state ≠ .free ∧ ((with5 .ready).entry 5).key = ⟨kr4eoc, 37⟩) ∧
    (∀ h, ¬ ((small.entry h).state ≠ .free ∧ (small.entry h).key = ⟨w7hos, 1⟩)) ∧
    (({ small with congestion := .congested }).congestion = .congested ∧ small.own.holdCutoff ≤ 4) ∧
    ¬ (small.congestion = .congested ∧ small.own.holdCutoff ≤ 4) ∧
    ({ small with freeBlocks := 4 } : State).allocate (small.arrivingEntry 4 ⟨w7hos, 1⟩ kr4eoc 150 w7hos) = none ∧
    (small.allocate (small.arrivingEntry 4 ⟨w7hos, 1⟩ kr4eoc 150 w7hos)).isSome = true := by decide +kernel

/-- The header characters of a frame, its SOH left out. -/
def headerOf (k : FrameKind) (f : List Byte) : Receiver :=
  { Receiver.hunt with phase := .head, kind := some k, header := (f.drop 1).take (k.headerLength - 1) }

/-- A TRAFFIC header to KR4EOC, one to W7HOS, one with an origin serial of 0000, a HOLD to all stations; section 11.1's calls. -/
theorem witness_TrafficDecided_header :
    let traffic := fun (to_ : Call) (n : Nat) => headerOf .traffic (frameOf 0x54 (padCall to_) w7hos
      (digitField 1 2 ++ padCall w7hos ++ digitField 4 n ++ padCall kr4eoc ++ digitField 3 150))
    (traffic kr4eoc 37).parsed = some ⟨.station kr4eoc, w7hos, .traffic 2 ⟨w7hos, 37⟩ kr4eoc 150⟩ ∧
      (traffic w7hos 37).parsed = some ⟨.station w7hos, w7hos, .traffic 2 ⟨w7hos, 37⟩ kr4eoc 150⟩ ∧
      (traffic kr4eoc 0).parsed = none ∧ Address.station kr4eoc = .station small.own.call ∧
      Address.station w7hos ≠ .station small.own.call ∧
      (headerOf .hold (frameOf 0x48 allStationsField w7hos (digitField 5 600 ++ digitField 1 4))).parsed =
        some ⟨.all, w7hos, .hold 600 4⟩ := by decide +kernel

/-- A LOCAL entry; a RELAY entry with a route, and one without. -/
theorem witness_ArrivalByRole : ({ Receiver.hunt with reservation := some 5 } : Receiver).reservation = some 5 ∧
    (small.chan 1).control.length < 4 ∧
    (let s := small.setEntry 5 { entry5 with state := .receiving, role := .localDelivery };
      (s.entry 5).role = .localDelivery) ∧
    (let s := small.setEntry 5 { entry5 with state := .receiving, role := .relay, receivedFrom := some [0x42] };
      (s.entry 5).role = .relay ∧ s.route (s.entry 5) = some 3) ∧
    (let s := small.setEntry 5 { entry5 with state := .receiving, role := .relay, receivedFrom := some w7hos };
      (s.entry 5).role = .relay ∧ s.route (s.entry 5) = none) ∧
    (let r := { Receiver.hunt with owed := some .full };
      (r : Receiver).reservation = none ∧ r.owed = some .full ∧ 4 ≤ (List.replicate 4 (ControlFrame.ownHold 0 0)).length) := by
  decide +kernel

/-- The last check character, an EOT with the check right and with it wrong; a beacon of W7HOS that completes, handed on, and
one from the own call. -/
theorem witness_ArrivalByRole_completion :
    (∀ n : Fin 2, let r := { Receiver.hunt with phase := .tail, check := List.replicate (3 + n.val) 0x30 };
      ((receiving r).chan 1).receiver.phase = .tail ∧ (r.check.length < 4 ↔ n = 0) ∧ checkValue r.check = r.sum.toNat) ∧
    isCheckChar 0x46 = true ∧ isCheckChar 0x47 = false ∧ checkValue [0x30, 0x30, 0x30, 0x31] ≠ (0 : Half).toNat ∧
    (∀ own : Bool, let from_ := if own then kr4eoc else w7hos
      (headerOf .beacon (frameOf 0x42 allStationsField from_ [])).parsed = some ⟨.all, from_, .beacon⟩) ∧
    small.findStation w7hos = some 3 ∧ small.station 3 = some w7hosRecord ∧ w7hosRecord.overLimitDue = false ∧
    w7hosRecord.refreshed.reach = w7hosRecord.reach ∧ small.findStation kr4eoc = none := by decide +kernel

theorem witness_ErrorDamagesFrame :
    let s := (receiving { Receiver.hunt with phase := .body, reservation := some 5 }).setEntry 5
      { entry5 with state := .receiving }
    (s.chan 1).enabled = true ∧ (s.chan 1).sampler = .character ∧ (s.chan 1).receiver.phase ≠ .hunt ∧
      (s.chan 1).receiver.reservation = some 5 ∧ (∀ c, 5 ∉ (s.chan c).queue) ∧ 5 ∉ s.unrouted ∧
      (∀ c, (s.chan c).engine.entry? ≠ some 5) ∧
      handover (s.chan 1).settings.parity (voted (heard 0x41 false)) = .error := by decide +kernel

/-- A character error and a break taken in HUNT. -/
theorem witness_ErrorDamagesFrame_in_hunt :
    ((receiving .hunt).chan 1).enabled = true ∧ ((receiving .hunt).chan 1).sampler = .character ∧
      ((receiving .hunt).chan 1).receiver.phase = .hunt ∧ ((receiving .hunt).chan 1).jamReached = false ∧
      handover ((receiving .hunt).chan 1).settings.parity (voted (heard 0x41 false)) = .error := by decide +kernel

/-- Busy begins with the pin's rise on a clear channel, and ends with its fall on one that is busy by CD alone. -/
theorem witness_CdBeginsAndEndsBusy : (small.chan 1).enabled = true ∧ (small.chan 1).busy = false ∧
    ({ small.chan 1 with cdPin := true } : Channel).busyNow = true ∧
    (let s := small.setChan 1 { net1 with busy := true, cdPin := true, clearTime := 0 };
      (s.chan 1).busy = true ∧ ({ s.chan 1 with cdPin := false } : Channel).busyNow = false ∧
        ({ s.chan 1 with cdPin := true } : Channel).busyNow = true) := by decide +kernel

/-- A control frame granted, a beacon granted, and clear for as long as the wait. -/
theorem witness_KeyUpOfControlAndBeacon :
    (let s := small.setChan 1 { net1 with clearTime := 100, transmitter := .clearing .control 100, control := [.ownHold 600 4] };
      (s.chan 1).enabled = true ∧ (s.chan 1).busy = false ∧ (s.chan 1).receiver.reservation = none ∧
        100 ≤ (s.chan 1).clearTime ∧ (s.chan 1).transmitter = .clearing .control 100 ∧
        (s.chan 1).control = .ownHold 600 4 :: [] ∧ (s.chan 1).owed = none) ∧
    (let s := small.setChan 1 { net1 with clearTime := 100, transmitter := .clearing .beacon 100, beacon := .due };
      (s.chan 1).enabled = true ∧ (s.chan 1).busy = false ∧ (s.chan 1).receiver.reservation = none ∧
        100 ≤ (s.chan 1).clearTime ∧ (s.chan 1).transmitter = .clearing .beacon 100) ∧
    (let s := small.setChan 1 { net1 with clearTime := 100, transmitter := .clearing .beacon 100, beacon := .due
                                          receiver := { Receiver.hunt with phase := .body, reservation := some 5 }
                                          settings := { net1.settings with source := .cd } };
      (s.chan 1).busy = false ∧ (s.chan 1).busyNow = false ∧ (s.chan 1).receiver.reservation = some 5 ∧
        (∀ c, 5 ∉ (s.chan c).queue) ∧ 5 ∉ s.unrouted ∧ ∀ c, (s.chan c).engine.entry? ≠ some 5) := by decide +kernel

/-- Table 8-6: at 741 ms the need fits, at 742 ms it does not. -/
theorem witness_KeyUpOfTraffic : ∀ late : Bool,
    let g := { net1.settings with period := 600, length := 120 }
    let s0 := (engaged (.staged 5 500 3759)).updChan 1 fun x =>
      { x with settings := g, clearTime := 500, transmitter := .clearing .traffic 500 }
    let s := { s0 with time := { s0.time with clockSecond := 116, clockMs := if late then 742 else 741 } }
    (s.chan 1).enabled = true ∧ (s.chan 1).busy = false ∧ (s.chan 1).receiver.reservation ≠ some 5 ∧
      500 ≤ (s.chan 1).clearTime ∧ (s.chan 1).transmitter = .clearing .traffic 500 ∧
      (s.chan 1).engine = .staged 5 500 3759 ∧ (s.window 1).fits (3759 - 500) = !late := by decide +kernel

theorem witness_FramesComposed :
    ((small.setChan 1 { net1 with transmitter := .keying .beacon 0 }).chan 1).transmitter = .keying .beacon 0 ∧
      ((engaged (.sending 5 none)).chan 1).engine.entry? = some 5 ∧
      ((engaged (.sending 5 none)).entry 5).lastHop = some w7hos ∧ entry5.textLength = entry5.text.length ∧
      entry5.text.length ≤ 960 ∧ 1 ≤ entry5.key.serial ∧ entry5.key.serial ≤ 9999 ∧
      (∀ x, x = kr4eoc ∨ x = w7hos → 1 ≤ x.length ∧ x.length ≤ 8 ∧
        ∀ b ∈ x, 0x41 ≤ b ∧ b ≤ 0x5A ∨ 0x30 ≤ b ∧ b ≤ 0x39 ∨ b = 0x2F) := by
  refine ⟨by decide +kernel, by decide +kernel, by decide +kernel, by decide +kernel, by decide +kernel, by decide +kernel,
    by decide +kernel, ?_⟩
  rintro x (rfl | rfl) <;> decide +kernel

/-- R94: the letter A with even parity and one stop bit, and with odd parity and two. -/
theorem test_character_bits :
    ({ Settings.reset with parity := .even } : Settings).characterBits 0x41 =
      [false, true, false, false, false, false, false, true, false, false, true] ∧
    ({ Settings.reset with parity := .odd, twoStops := true } : Settings).characterBits 0x41 =
      [false, true, false, false, false, false, false, true, false, true, true, true] := by decide +kernel

/-- The last millisecond of a frame of 23 characters at 1,200 baud. -/
theorem witness_FrameEndHandedOn :
    let f := frameOf 0x42 allStationsField kr4eoc []
    let x := { net1 with transmitter := .sending .traffic f 191 }
    (let s := (engaged (.sending 5 none)).updChan 1 fun y => { y with transmitter := .sending .traffic f 191 };
      (s.chan 1).enabled = true ∧ (s.chan 1).transmitter = .sending .traffic f 191 ∧ (s.chan 1).engine = .sending 5 none) ∧
    (let s := (engaged (.sending 5 (some .accept))).updChan 1 fun y => { y with transmitter := .sending .traffic f 191 };
      (s.chan 1).engine = .sending 5 (some .accept) ∧ (∀ c, 5 ∉ (s.chan c).queue) ∧ 5 ∉ s.unrouted ∧
        ∀ d, d ≠ 1 → (s.chan d).engine.entry? ≠ some 5) ∧
    (let s := (engaged (.sending 5 (some .noroute))).updChan 1 fun y => { y with transmitter := .sending .traffic f 191 };
      (s.chan 1).engine = .sending 5 (some .noroute) ∧ (s.chan 1).engine.entry? = some 5 ∧ (∀ c, 5 ∉ (s.chan c).queue) ∧
        5 ∉ s.unrouted ∧ ∀ d, d ≠ 1 → (s.chan d).engine.entry? ≠ some 5) ∧
    f.length * x.settings.bitsPerChar * ((x.settings.divisor + 1) * 5) < (191 + 1) * 384 := by decide +kernel

theorem witness_ArbiterGrants : (net1.transmitter.keyed = false ∧ net1.enabled = true ∧ net1.control = [] ∧
      net1.beacon ≠ .due ∧ ({ net1 with engine := .staged 5 500 3342 } : Channel).engine = .staged 5 500 3342) ∧
    ({ net1 with transmitter := .brk 320 0 0 true } : Channel).transmitter.keyed = true ∧
    (Channel.reset.transmitter.keyed = false ∧ Channel.reset.enabled = false) ∧
    (∀ c, (small.chan c).arbitrated = small.chan c) ∧ step (small.withPending [.readFrame]) = .next small := by
  refine ⟨by decide +kernel, by decide +kernel, by decide +kernel, by decide +kernel, rfl⟩

/-- Entry 6 is covered by a hold of W7HOS, entry 5 is not. -/
theorem witness_ConsiderationTakesFirstEligible :
    let s := (((small.setStation 3 (some { w7hosRecord with holdRemaining := 10, holdCutoff := 4 })).setEntry 5
      entry5).setEntry 6 { entry5 with precedence := 4 }).setChan 1 { net1 with queue := [6, 5] }
    (s.chan 1).considers = true ∧ (s.chan 1).queue = [6] ++ 5 :: [] ∧ s.covered 1 (s.entry 6) = true ∧
      s.covered 1 (s.entry 5) = false ∧ (s.chan 1).settings.oversize (s.needOf 1 (s.entry 5)) = false ∧
      (s.window 1).fits (s.needOf 1 (s.entry 5)) = true := by decide +kernel

/-- Entry 6 is OVERSIZE for a window of 3 s, entry 5, whose text is shorter, is not; and a queue with no entry to take. -/
theorem witness_ConsiderationTakesFirstEligible_oversize : ∀ fits : Bool,
    let s := ((small.setEntry 5 { entry5 with textLength := 1 }).setEntry 6 entry5).setChan 1
      { net1 with queue := if fits then [6, 5] else [6], settings := { net1.settings with period := 60, length := 3 } }
    (s.chan 1).considers = true ∧ (s.chan 1).queue = [6] ++ (if fits then [5] else []) ∧ (s.chan 1).queue.Nodup ∧
      s.covered 1 (s.entry 6) = false ∧ (s.chan 1).settings.oversize (s.needOf 1 (s.entry 6)) = true ∧
      s.covered 1 (s.entry 5) = false ∧ (s.chan 1).settings.oversize (s.needOf 1 (s.entry 5)) = false ∧
      (s.window 1).fits (s.needOf 1 (s.entry 5)) = true := by decide +kernel

theorem witness_ReceiptEndsExchange :
    let s := engaged (.awaiting 5 300)
    s.findKey ⟨kr4eoc, 37⟩ = some 5 ∧ (s.entry 5).lastHop = some w7hos ∧ (s.entry 5).state = .engaged ∧
      s.engineOf 5 = some 1 ∧ (s.chan 1).engine = .awaiting 5 300 ∧ (∀ d, d ≠ 1 → (s.chan d).engine.entry? ≠ some 5) ∧
      s.findStation w7hos = some 3 ∧ s.station 3 = some w7hosRecord ∧ 0 < s.own.fullBackoff := by decide +kernel

/-- A receipt that finds its exchange STAGED or SENDING, its entry outside an exchange, or no entry at all. -/
theorem witness_ReceiptEndsExchange_elsewhere :
    (∀ e, e = Engine.staged 5 500 3342 ∨ e = .sending 5 none ∨ e = .sending 5 (some .accept) →
      (engaged e).findKey ⟨kr4eoc, 37⟩ = some 5 ∧ ((engaged e).entry 5).lastHop = some w7hos ∧
        ((engaged e).entry 5).state = .engaged ∧ (engaged e).engineOf 5 = some 1 ∧ ((engaged e).chan 1).engine = e) ∧
    (∀ x, x = EntryState.ready ∨ x = .retryWait ∨ x = .failed ∨ x = .cancelled ∨ x = .sent →
      let s := small.setEntry 5 { entry5 with state := x, lastHop := some w7hos }
      s.findKey ⟨kr4eoc, 37⟩ = some 5 ∧ (s.entry 5).lastHop = some w7hos ∧ (s.entry 5).state = x) ∧
    small.findKey ⟨kr4eoc, 37⟩ = none ∧ some w7hos ≠ some kr4eoc := by
  refine ⟨?_, ?_, by decide +kernel, by decide +kernel⟩
  · rintro e (rfl | rfl | rfl) <;> decide +kernel
  · rintro x (rfl | rfl | rfl | rfl | rfl) <;> decide +kernel

/-- The receipt timer at 0 below the limit, with a cancel pending, and at the limit; a retry whose moment has come. -/
theorem witness_RetryAndReceiptTimers : (∀ b : Bool, ∀ k : Fin 2,
      let s := (engaged (.awaiting 5 0)).updEntry 5 fun e => { e with cancelPending := some b, attemptCount := 8 + k.val }
      (s.chan 1).engine = .awaiting 5 0 ∧ (∀ c, 5 ∉ (s.chan c).queue) ∧ 5 ∉ s.unrouted ∧
        (∀ d, d ≠ 1 → (s.chan d).engine.entry? ≠ some 5) ∧ (s.entry 5).cancelPending = some b ∧
        ((s.entry 5).attemptCount + 1 < (s.classRow (s.entry 5).precedence).retryLimit ↔ k = 0)) ∧
    (let s := small.setEntry 5 { entry5 with state := .retryWait, notBefore := some 0 };
      (s.entry 5).state = .retryWait ∧ (s.entry 5).notBefore = some s.time.counter) := by decide +kernel

theorem witness_MillisecondAndWindowEvents : settleOnce small = none ∧ small.time.quantumDivider ≤ 99 ∧
    small.time.secondDivider ≤ 999 ∧ small.time.clockSecond ≤ 86399 ∧ small.time.clockMs ≤ 999 ∧
    (small.chan 1).windowDue ≠ some .closed ∧ (small.chan 1).windowDue ≠ some .opened ∧
    (∀ e : WindowEvent,
      let s := (engaged (.staged 5 500 3342)).updChan 1 fun x => { x with windowDue := some e }
      let t := small.setChan 1 { net1 with windowDue := some e }
      (s.chan 1).windowDue = some e ∧ (s.chan 1).enabled = true ∧ (s.chan 1).engine = .staged 5 500 3342 ∧
        (t.chan 1).windowDue = some e ∧ (t.chan 1).engine = .idle) := by
  refine ⟨by decide +kernel, by decide +kernel, by decide +kernel, by decide +kernel, by decide +kernel, by decide +kernel,
    by decide +kernel, fun e => by cases e <;> decide +kernel⟩

/-- Quantum and second due together. -/
theorem witness_QuantumCountsDown_SecondAdvancesAges :
    let s := { small with time := { small.time with quantumDue := true, secondDue := true } }
    s.time.quantumDue = true ∧ s.time.secondDue = true ∧ s.station 3 = some w7hosRecord ∧ s.station 4 = none ∧
      (s.chan 1).rehold = none ∧ ¬ (∃ c : Chan, (s.chan c).abortPause = true) := by decide +kernel

/-- An interval of 600 s, passed at 600,000 ms, with and without a silence. -/
theorem witness_BeaconFallsDue : ∀ q : Fin 2,
    let s0 := small.setChan 1 { net1 with beacon := .counting 0, silenceRemaining := q.val
                                          settings := { net1.settings with beaconInterval := 600 } }
    let s := { s0 with time := { s0.time with counter := 600000 } }
    (s.chan 1).enabled = true ∧ (s.chan 1).beacon = .counting 0 ∧ 0 < (s.chan 1).settings.beaconInterval ∧
      (s.time.counter - 0).toNat = (s.chan 1).settings.beaconInterval * 1000 ∧ (s.chan 1).silenceRemaining = q.val := by
  decide +kernel

theorem witness_HoldSilenceAndReholdEnd :
    (let r := { w7hosRecord with holdEndDue := true };
      (small.setStation 3 (some r)).station 3 = some r ∧ r.holdEndDue = true) ∧
    ((small.setChan 1 { net1 with silenceEndDue := true }).chan 1).silenceEndDue = true ∧
    ((small.setChan 1 { net1 with rehold := some 0 }).chan 1).rehold = some 0 ∧ small.congestion = .normal ∧
    ({ small with congestion := .congested } : State).congestion = .congested := by decide +kernel

/-- A HOLD from W7HOS, net control and not, with a STAGED exchange of precedence 2 that it covers (cutoff 2) and one that it
does not (cutoff 3). -/
theorem witness_HoldSilenceAndReholdEnd_received : ∀ net : Bool,
    let s := (engaged (.staged 5 500 3342)).setStation 3 (some { w7hosRecord with netControl := net })
    s.findStation w7hos = some 3 ∧ s.station 3 = some { w7hosRecord with netControl := net } ∧
      (s.chan 1).engine = .staged 5 500 3342 ∧ (s.entry 5).nextHop = some 3 ∧ 2 ≤ (s.entry 5).precedence ∧
      (s.entry 5).precedence < 3 ∧ (s.chan 1).engine.entry? = some 5 ∧ (∀ c, 5 ∉ (s.chan c).queue) ∧ 5 ∉ s.unrouted ∧
      (∀ d, d ≠ 1 → (s.chan d).engine.entry? ≠ some 5) ∧ s.findStation [0x42] = none := by decide +kernel

/-- A gap of one over the limit of 134 ms; a busy length at the jam threshold. -/
theorem witness_GapAndJam :
    (let s := receiving { Receiver.hunt with phase := .head, gap := 135 };
      (s.chan 1).receiver.phase ≠ .hunt ∧ max 1 ((s.chan 1).settings.airTime 16) < (s.chan 1).receiver.gap) ∧
    (let s := receiving { Receiver.hunt with phase := .body, gap := 135, reservation := some 7 };
      (s.chan 1).receiver.phase ≠ .hunt ∧ max 1 ((s.chan 1).settings.airTime 16) < (s.chan 1).receiver.gap ∧
        (s.chan 1).receiver.reservation = some 7) ∧
    (let s := (engaged (.staged 5 500 3342)).updChan 1 fun x => { x with busy := true, busyLength := 30000 };
      (s.chan 1).enabled = true ∧ (s.chan 1).busy = true ∧ (s.chan 1).jammed = false ∧
        (s.chan 1).settings.jamLimit ≠ 0 ∧ min 65535 ((s.chan 1).settings.jamLimit * 1000) ≤ (s.chan 1).busyLength ∧
        (s.chan 1).engine = .staged 5 500 3342 ∧ 5 ∉ s.unrouted ∧ (∀ c, 5 ∉ (s.chan c).queue) ∧
        ∀ d, d ≠ 1 → (s.chan d).engine.entry? ≠ some 5) := by
  decide +kernel

/-- A station over its limit; a second frame at the leave limit, and one second past it. -/
theorem witness_ReachabilityMonitored :
    (let r := { w7hosRecord with interval := 300, overLimitDue := true };
      (small.setStation 3 (some r)).station 3 = some r ∧ r.overLimitDue = true ∧ r.reach = .heard ∧ 0 < r.interval) ∧
    (let r := { w7hosRecord with interval := 300, reach := .unheard, confirmCount := 1 };
      r.reach = .unheard ∧ r.confirmCount = 1 ∧
        ({ r with heardAge := r.leaveLimit } : Station).heardAge ≤ ({ r with heardAge := r.leaveLimit } : Station).leaveLimit ∧
        ({ r with heardAge := r.leaveLimit } : Station).leaveLimit < ({ r with heardAge := r.leaveLimit + 1 } : Station).heardAge) := by
  decide +kernel

theorem witness_RequestFramesReadBack :
    (Instr.file 2 w7hosField [0x48]).isRequest = true ∧ (Instr.file 2 w7hosField [0x48]).wellFormed = true := by
  decide +kernel

/-- The invariants hold of the small part, and it steps. -/
theorem witness_ControlFramesKept_TablesKept : small.ControlKept ∧ small.TablesKept ∧
    step (small.withPending [.readFrame]) = .next small := by
  refine ⟨?_, ?_, rfl⟩
  · unfold State.ControlKept Channel.ControlKept; decide +kernel
  · unfold State.TablesKept State.ClassesKept TimeBase.Kept OwnStation.Ordered; decide +kernel

/-- A directory with a VIA record and a fallback, and a default route, that its rules hold of; the VIA record's call resolves to
its relay. -/
theorem witness_TablesKept_directory :
    let s : State := { small.setStation 4 (some { w7hosRecord with call := [0x42], kind := .via 3, fallback := some 3 }) with
      own := { small.own with defaultRoute := some 3 } }
    s.DirectoryKept ∧ step (s.withPending [.readFrame]) = .next s ∧ s.resolve [0x42] = some 3 := by
  intro s
  have at_ : ∀ i, s.station i = if i = 3 then some w7hosRecord
      else if i = 4 then some { w7hosRecord with call := [0x42], kind := .via 3, fallback := some 3 } else none := by
    decide +kernel
  have only : ∀ i st, s.station i = some st → i = 3 ∧ st = w7hosRecord ∨
      i = 4 ∧ st = { w7hosRecord with call := [0x42], kind := .via 3, fallback := some 3 } := by
    intro i st h
    rw [at_ i] at h
    split at h
    · exact .inl ⟨‹_›, (Option.some.inj h).symm⟩
    · split at h
      · exact .inr ⟨‹_›, (Option.some.inj h).symm⟩
      · cases h
  refine ⟨⟨?_, ?_, ?_, ?_, ?_, .inr (by decide +kernel), ?_, by decide +kernel⟩, rfl, by decide +kernel⟩
  · intro i st h
    obtain ⟨-, rfl⟩ | ⟨-, rfl⟩ := only i st h <;> decide +kernel
  · intro i j st r h k e
    obtain ⟨rfl, rfl⟩ | ⟨rfl, rfl⟩ := only i st h <;> obtain ⟨rfl, rfl⟩ | ⟨rfl, rfl⟩ := only j r k <;>
      first | rfl | exact absurd e (by decide +kernel)
  · intro i st r h k
    obtain ⟨-, rfl⟩ | ⟨-, rfl⟩ := only i st h
    · cases k
    · cases k; exact ⟨w7hosRecord, by decide +kernel⟩
  · intro i st j h k
    obtain ⟨-, rfl⟩ | ⟨rfl, rfl⟩ := only i st h
    · cases k
    · cases k; exact ⟨by decide +kernel, w7hosRecord, by decide +kernel⟩
  · intro i h; cases h; exact ⟨w7hosRecord, by decide +kernel⟩
  · intro i st h
    obtain ⟨-, rfl⟩ | ⟨-, rfl⟩ := only i st h <;> decide +kernel

theorem witness_ListeningKept : small.Listening := by
  unfold State.Listening Channel.Quiet Channel.Listening; decide +kernel

/-- Entry 5 awaiting its receipt on channel 1, the counts and the accession counter as its filing left them. -/
def awaiting5 : State :=
  { engaged (.awaiting 5 300) with freeEntries := 255, freeBlocks := 2043, accessionCounter := 413 }

/-- Every other entry is FREE. -/
theorem awaiting5_free : ∀ h, h ≠ 5 → awaiting5.entry h = Entry.free := by decide +kernel

/-- The invariants of the Traffic Table, of the channels and of the tables hold of a part with an exchange at work. -/
theorem witness_TrafficKept : awaiting5.TrafficKept ∧ awaiting5.Listening ∧ awaiting5.TablesKept ∧
    step (awaiting5.withPending [.readFrame]) = .next awaiting5 := by
  have same : ∀ h k, (awaiting5.entry h).state ≠ .free → (awaiting5.entry k).state ≠ .free → h = k := by
    intro h k hh hk
    have only : ∀ h, (awaiting5.entry h).state ≠ .free → h = 5 := fun h n => by
      by_contra c; exact n (by rw [awaiting5_free h c]; rfl)
    rw [only h hh, only k hk]
  have q : ∀ k, awaiting5.collection k = [] := by
    rintro (c | _)
    · revert c; decide +kernel
    · rfl
  refine ⟨⟨?_, fun h k hh hk _ => same h k hh hk, ?_, fun h k hh hk _ => same h k hh hk, by decide +kernel,
    by decide +kernel, ?_, ?_, ?_, ?_, ?_, ?_, ?_, ?_⟩, ?_, ?_, rfl⟩
  · intro h
    by_cases c : h = 5
    · subst c; constructor <;> decide +kernel
    · rw [awaiting5_free h c]; constructor <;> decide
  · decide +kernel
  · intro h k
    rw [q k]
    simp only [List.not_mem_nil, false_iff]
    rintro ⟨r, -⟩
    revert r; revert h; decide +kernel
  · intro k; rw [q k]; exact List.Pairwise.nil
  · decide +kernel
  · decide +kernel
  · decide +kernel
  · decide +kernel
  · intro c h r
    have n : ∀ c, (awaiting5.chan c).receiver.reservation = none := by decide +kernel
    rw [n c] at r; cases r
  · intro c h r
    have n : ∀ c, (awaiting5.chan c).receiver.reservation = none := by decide +kernel
    rw [n c] at r; cases r
  · unfold State.Listening Channel.Quiet Channel.Listening; decide +kernel
  · unfold State.TablesKept State.ClassesKept TimeBase.Kept OwnStation.Ordered; decide +kernel

/-- What the Traffic Table, the collections, the exchanges and the reservations keep rests on nothing else of the directory
and of the channels than this. -/
theorem awaiting5_variant (t : State) (entries : t.entries = awaiting5.entries) (unrouted : t.unrouted = awaiting5.unrouted)
    (counts : t.freeEntries = awaiting5.freeEntries ∧ t.freeBlocks = awaiting5.freeBlocks ∧
      t.accessionCounter = awaiting5.accessionCounter)
    (chans : ∀ c, (t.chan c).queue = (awaiting5.chan c).queue ∧ (t.chan c).engine = (awaiting5.chan c).engine ∧
      (t.chan c).receiver.reservation = none) : t.TrafficKept := by
  have w := witness_TrafficKept.1
  have e : ∀ h, t.entry h = awaiting5.entry h := fun h => by unfold State.entry; rw [entries]
  have q : ∀ k, t.collection k = awaiting5.collection k := by
    rintro (c | _)
    · exact (chans c).1
    · exact unrouted
  have none_ready : ∀ h, (awaiting5.entry h).state ≠ .ready := by decide +kernel
  have empty : ∀ k, awaiting5.collection k = [] := by
    rintro (c | _)
    · revert c; decide +kernel
    · rfl
  have idle : ∀ c, (awaiting5.chan c).receiver.reservation = none := by decide +kernel
  refine ⟨fun h => e h ▸ w.fields h, ?_, ?_, ?_, ?_, ?_, ?_, ?_, ?_, ?_, ?_, ?_, ?_, ?_⟩
  · intro h k; rw [e h, e k]; exact w.accessions h k
  · intro h; rw [e h, counts.2.2]; exact w.counter h
  · intro h k; rw [e h, e k]; exact w.keys h k
  · rw [counts.1, entries]; exact w.entriesCounted
  · rw [counts.2.1, entries]; exact w.blocksCounted
  · intro h k
    rw [q k, empty k, e h]
    exact ⟨fun m => absurd m (List.not_mem_nil), fun r => absurd r.1 (none_ready h)⟩
  · intro k; rw [q k, empty k]; exact List.Pairwise.nil
  · intro h; rw [e h, w.engaged h]; simp only [(chans _).2.1]
  · intro c d h; rw [(chans c).2.1, (chans d).2.1]; exact w.oneEngine c d h
  · intro h; rw [e h, w.receiving h]; simp only [(chans _).2.2, idle]
  · intro c d h r; rw [(chans c).2.2] at r; cases r
  · intro c h r; rw [(chans c).2.2] at r; cases r
  · intro c h r; rw [(chans c).2.2] at r; cases r

/-- The commands that bring a sweep, each in a state that the invariants hold of. -/
theorem witness_RouteResolved_sweeps :
    awaiting5.TrafficKept ∧ awaiting5.BringsSweep (.disableChannel 1) ∧ awaiting5.BringsSweep .clearChannels ∧
    awaiting5.BringsSweep (.enableChannel 0) ∧ awaiting5.BringsSweep (.forceStation 3 1) ∧
    awaiting5.BringsSweep (.dropStation 3) ∧
    awaiting5.BringsSweep (.setOwn ⟨2, blankField, 3, 0, 0, 0, 0, 0, 0, 0, 0, 0, 0⟩) ∧
    awaiting5.BringsSweep (.setStation ⟨3, w7hosField, 1, 0, 0, 0xFF, 0, 0, 3⟩) ∧
    (let s := awaiting5.setStation 3 (some { w7hosRecord with overLimitDue := true, interval := 60 });
      s.TrafficKept ∧ s.BringsSweep (.heardAgeOverLimit 3)) ∧
    (let s := awaiting5.updChan 1 fun x => { x with busy := true, cdPin := true, busyLength := 30000 };
      s.TrafficKept ∧ s.BringsSweep (.jammed 1) ∧ s.BringsSweep (.cdInputChange 1 false)) ∧
    (let r := { w7hosRecord with reach := .unheard, confirmCount := 1 };
      let s := awaiting5.setStation 3 (some r);
      s.TrafficKept ∧ s.station 3 = some r ∧ r.overLimitDue = false ∧ r.refreshed.reach ≠ r.reach) := by
  have unheld : ∀ c, (awaiting5.chan c).receiver.reservation = none := by decide +kernel
  have base : ∀ r, (awaiting5.setStation 3 r).TrafficKept := fun r =>
    awaiting5_variant _ rfl rfl ⟨rfl, rfl, rfl⟩ fun c => ⟨rfl, rfl, unheld c⟩
  refine ⟨witness_TrafficKept.1, ⟨1, by decide +kernel⟩, ⟨1, by decide +kernel⟩, ⟨by decide +kernel, 0, by decide +kernel⟩,
    ⟨3, w7hosRecord, true, by decide +kernel⟩, ⟨3, w7hosRecord, by decide +kernel⟩,
    ⟨{ awaiting5.own with defaultRoute := some 3 }, by decide +kernel⟩, ?_, ⟨base _, ?_⟩, ⟨?_, ?_, ?_⟩,
    base _, by decide +kernel, by decide +kernel, by decide +kernel⟩
  · exact ⟨3, newStation w7hos 1 .direct none false 0 3, by decide +kernel⟩
  · exact ⟨{ w7hosRecord with overLimitDue := true, interval := 60 }, by decide +kernel⟩
  · exact awaiting5_variant _ rfl rfl ⟨rfl, rfl, rfl⟩ (by decide +kernel)
  · show (State.chan _ 1).jamReached = true; decide +kernel
  · unfold State.BringsSweep; decide +kernel

/-- JAMMED ends as busy does: with a character or an error that damages the frame in progress, with a break, and with a gap
limit that has passed, each from a state that the invariant of the Traffic Table holds of. -/
theorem witness_RouteResolved_endsJam :
    let s := fun n : Nat => awaiting5.updChan 1 fun x => { x with
      busy := true, jammed := true, busyLength := 30000, sampler := .character
      receiver := { Receiver.hunt with phase := .head, position := 1, gap := n } }
    (∀ n, (s n).TrafficKept) ∧
    (s 0).BringsSweep (.goodCharacter 1 (heard 0x45 true)) ∧ (s 0).BringsSweep (.characterError 1 (heard 0x45 false)) ∧
    (s 0).BringsSweep (.breakReceived 1) ∧ (s 135).BringsSweep (.gapExpiry 1) := by
  intro s
  have ends : ∀ n i, ((s n).chan 1).jammed = true →
      runs i (s n) (fun t => !(t.chan 1).jammed && (t.chan 1).busyLength = 0) = true → (s n).EndsJam 1 i := by
    intro n i j r
    refine ⟨.inl j, ?_⟩
    unfold runs at r
    split at r
    · rename_i t e; exact ⟨t, e, by simpa using r⟩
    · cases r
  have unheld : ∀ c, (awaiting5.chan c).receiver.reservation = none := by decide +kernel
  refine ⟨fun n => awaiting5_variant _ rfl rfl ⟨rfl, rfl, rfl⟩ fun c => ?_, ends 0 _ ?_ ?_, ends 0 _ ?_ ?_, ends 0 _ ?_ ?_,
    ends 135 _ ?_ ?_⟩
  · match c with
    | 0 => exact ⟨rfl, rfl, unheld 0⟩
    | 1 => exact ⟨rfl, rfl, rfl⟩
    | 2 => exact ⟨rfl, rfl, unheld 2⟩
    | 3 => exact ⟨rfl, rfl, unheld 3⟩
  all_goals decide +kernel

/-- A sweep with one READY entry whose route has gone, and one STAGED exchange that its station's forced mark pulls back. -/
theorem witness_RouteResolved_sweep :
    let s : State := { ((engaged (.staged 5 500 3342)).setEntry 6 { entry5 with key := ⟨kr4eoc, 38⟩, accession := 413 }).setStation
      3 (some { w7hosRecord with forcedUnheard := true }) with unrouted := [6] }
    (∀ h k, h ∈ s.collection k → (s.entry h).state = .ready ∧ ∀ q, h ∈ s.collection q → q = k) ∧
      (∀ h, (s.entry h).state = .ready → ∃ k, h ∈ s.collection k) ∧ (∀ k, (s.collection k).Nodup) ∧
      (∀ c h, (s.chan c).engine.entry? = some h → s.HeldAlone c h) ∧
      (∀ a b, s.Waits a → s.Waits b → (s.entry a).accession = (s.entry b).accession → a = b) ∧
      (∀ k, (s.collection k).Pairwise fun a b => comesBefore s k a b = true) ∧
      (s.chan 1).engine = .staged 5 500 3342 ∧ s.collectionFor (s.route (s.entry 5)) ≠ .queue 1 ∧
      (s.entry 6).state = .ready := by
  intro s
  have queues : ∀ c, (s.chan c).queue = [] := by decide +kernel
  have waits : ∀ h, (∃ k, h ∈ s.collection k) ↔ h = 6 := fun h => by
    constructor
    · rintro ⟨c | _, m⟩
      · rw [show s.collection (.queue c) = [] from queues c] at m; cases m
      · exact List.mem_singleton.mp m
    · rintro rfl; exact ⟨.unrouted, List.mem_singleton.mpr rfl⟩
  have runs5 : ∀ c h, (s.chan c).engine.entry? = some h → c = 1 ∧ h = 5 := by decide +kernel
  have only : ∀ h, s.Waits h → h = 6 ∨ h = 5 := fun h w =>
    w.elim (fun m => .inl ((waits h).mp m)) fun ⟨c, e⟩ => .inr (runs5 c h e).2
  refine ⟨?_, ?_, ?_, ?_, ?_, ?_, by decide +kernel, by decide +kernel, by decide +kernel⟩
  · rintro h (c | _) m
    · rw [show s.collection (.queue c) = [] from queues c] at m; cases m
    · obtain rfl := List.mem_singleton.mp m
      refine ⟨by decide +kernel, ?_⟩
      rintro (c | _) n
      · rw [show s.collection (.queue c) = [] from queues c] at n; cases n
      · rfl
  · intro h r
    have : ∀ h, (s.entry h).state = .ready → h = 6 := by decide +kernel
    exact (waits h).mpr (this h r)
  · rintro (c | _)
    · rw [show s.collection (.queue c) = [] from queues c]; exact List.nodup_nil
    · exact List.nodup_singleton 6
  · intro c h e
    obtain ⟨rfl, rfl⟩ := runs5 c h e
    refine ⟨e, fun q m => ?_, fun d n x => n (runs5 d 5 x).1⟩
    exact absurd ((waits 5).mp ⟨q, m⟩) (by decide)
  · intro a b wa wb
    rcases only a wa with rfl | rfl <;> rcases only b wb with rfl | rfl <;> decide +kernel
  · rintro (c | _)
    · rw [show s.collection (.queue c) = [] from queues c]; exact List.Pairwise.nil
    · exact List.pairwise_singleton _ _

/-- A READY entry with a next hop whose record is there, and a call of each record that fits its field. -/
theorem witness_RecordLengths :
    ((with5 .ready).entry 5).destination.length ≤ 8 ∧ ((with5 .ready).entry 5).key.call.length ≤ 8 ∧
      (∀ c, ((with5 .ready).entry 5).lastHop = some c ∨ ((with5 .ready).entry 5).receivedFrom = some c → c.length ≤ 8) ∧
      ((with5 .ready).entry 5).state = .ready ∧ ((with5 .ready).entry 5).nextHop = some 3 ∧
      (with5 .ready).station 3 = some w7hosRecord ∧ w7hosRecord.call.length ≤ 8 := by
  refine ⟨by decide +kernel, by decide +kernel, fun c h => ?_, by decide +kernel, by decide +kernel, by decide +kernel,
    by decide +kernel⟩
  have a : ((with5 .ready).entry 5).lastHop.all (fun c => c.length ≤ 8) = true ∧
      ((with5 .ready).entry 5).receivedFrom.all (fun c => c.length ≤ 8) = true := by decide +kernel
  rcases h with h | h <;> simp_all

end Sys2Proof.Tests
end

/-! # The Traffic Table's reading requests (R15, R21 to R24, R70) and READ STATUS (R183)

The reading requests leave the channels alone, so each ends as `takeRequest_ends` says; what is left is the branch of its
effect that the operands and the table choose. READ STATUS writes JAM_CHANGED, which no arbiter reads, so it too leaves a
part at rest at rest. -/

section
namespace Sys2Proof.Machine

/-! ## How a request ends -/

/-- A command that is a request whose effect on this state is known and leaves the channels alone. -/
theorem exec_ends {i : Instr} {effect : State → State} {s u : State} (taken : exec i s = .next (takeRequest effect s))
    (effect_eq : effect s = u) (channels : ∀ c, u.chan c = s.chan c) : ∃ t, exec i s = .next t ∧ s.Ends u t :=
  ⟨_, taken, effect_eq ▸ takeRequest_ends (effect_eq ▸ channels)⟩

/-- A request that only answers. -/
theorem exec_answers {i : Instr} {effect : State → State} {s : State} {r : Result} {d : List Byte}
    (taken : exec i s = .next (takeRequest effect s)) (effect_eq : effect s = s.answer r d) :
    ∃ t, exec i s = .next t ∧ s.Ends (s.answer r d) t :=
  exec_ends taken effect_eq fun _ => rfl

/-- A request that finds the part at rest and leaves it at rest has no effect but its own (R149, R175). -/
theorem takeRequest_atRest_of_atRest {effect : State → State} {s : State} (before : s.AtRest)
    (after : (effect s).AtRest) : takeRequest effect s = effect s := by
  have pauses : forChans (endPause fun c => (s.chan c).abortPause) (effect s) = effect s :=
    forChans_self fun c => by simp [endPause, (before c).1]
  rw [takeRequest, pauses]
  exact arbitrateAll_self fun c => (after c).2

/-! ## What the end of a command leaves -/

theorem State.Turned.response {s t : State} (h : s.Turned t) : t.response = s.response := by rw [← h.rest]

theorem State.Turned.congestionChanged {s t : State} (h : s.Turned t) : t.congestionChanged = s.congestionChanged := by
  rw [← h.rest]

theorem State.Turned.reachChanged {s t : State} (h : s.Turned t) : t.reachChanged = s.reachChanged := by rw [← h.rest]

theorem Channel.SameLine.jamChanged {x y : Channel} (h : x.SameLine y) : y.jamChanged = x.jamChanged := by rw [← h.rest]

/-! ## Requests on an entry (R26) -/

theorem onEntry_free {b : Byte} {s : State} (f : Handle → State → State)
    (free : (s.entry (parseHandle b)).state = .free) : onEntry b f s = s.answer .noEntry [] := if_pos free

theorem onEntry_held {b : Byte} {s : State} (f : Handle → State → State)
    (held : (s.entry (parseHandle b)).state ≠ .free) : onEntry b f s = f (parseHandle b) s := if_neg held

/-- The states that READ TEXT refuses (R24). -/
theorem EntryState.textComplete_eq_false {x : EntryState} :
    x.textComplete = false ↔ x = .free ∨ x = .spent ∨ x = .receiving := by
  cases x <;> simp [EntryState.textComplete]

theorem readText_complete {s : State} {h : Handle} (offset count : Nat)
    (complete : (s.entry h).state.textComplete = true) :
    readText offset count h s = s.answer .done
      (be16 ((s.entry h).textFrom offset count).length ++ (s.entry h).textFrom offset count) := if_pos complete

theorem readText_refused {s : State} {h : Handle} (offset count : Nat)
    (refused : (s.entry h).state = .spent ∨ (s.entry h).state = .receiving) :
    readText offset count h s = s.answer .wrongState [] :=
  if_neg (by rw [EntryState.textComplete_eq_false.2 (.inr refused)]; exact Bool.false_ne_true)

/-- Settles O3: each request is a branch of `onEntry`, and READ TEXT then a branch of `readText`. -/
theorem readEntryAndText : Obligations.ReadEntryAndText := by
  intro s b o n e part
  refine ⟨fun held => ?_, fun free => ?_, fun held notSpent notReceiving => ?_, fun refused => ?_, fun free => ?_⟩
  · exact exec_answers rfl (onEntry_held _ held)
  · exact exec_answers rfl (onEntry_free _ free)
  · have complete : e.state.textComplete = true := by
      rw [← Bool.not_eq_false, EntryState.textComplete_eq_false]
      simp [held, notSpent, notReceiving]
    exact exec_answers rfl ((onEntry_held _ held).trans (readText_complete o.toNat n.toNat complete))
  · have held : e.state ≠ .free := by rcases refused with h | h <;> simp [h]
    exact exec_answers rfl ((onEntry_held _ held).trans (readText_refused o.toNat n.toNat refused))
  · exact exec_answers rfl (onEntry_free _ free)

/-! ## Searches of the table -/

/-- A search of the table answers a handle exactly when that is the lowest one that satisfies the test. -/
theorem State.findEntry_eq_some_iff {s : State} {p : Entry → Bool} {h : Handle} :
    s.findEntry p = some h ↔ p (s.entry h) = true ∧ ∀ k : Handle, k < h → p (s.entry k) = false := by
  refine ⟨State.findEntry_some, fun ⟨found, lower⟩ => ?_⟩
  cases search : s.findEntry p with
  | none => simp [State.findEntry_none.1 search h] at found
  | some k =>
    obtain ⟨found', lower'⟩ := State.findEntry_some search
    rcases lt_trichotomy k h with lt | rfl | lt
    · simp [lower k lt] at found'
    · rfl
    · simp [lower' h lt] at found

theorem Entry.holdsKey_eq_true {e : Entry} {k : Key} : e.holdsKey k = true ↔ e.state ≠ .free ∧ e.key = k := by
  simp [Entry.holdsKey]

theorem Entry.holdsKey_eq_false {e : Entry} {k : Key} : e.holdsKey k = false ↔ e.state = .free ∨ e.key ≠ k := by
  rw [← Bool.not_eq_true, Entry.holdsKey_eq_true]
  tauto

/-- The key lookup answers the lowest handle that holds the key (R15). -/
theorem State.findKey_eq_some_iff {s : State} {k : Key} {h : Handle} :
    s.findKey k = some h ↔ ((s.entry h).state ≠ .free ∧ (s.entry h).key = k) ∧
      ∀ j : Handle, j < h → (s.entry j).state = .free ∨ (s.entry j).key ≠ k := by
  simp only [State.findKey, State.findEntry_eq_some_iff, Entry.holdsKey_eq_true, Entry.holdsKey_eq_false]

theorem State.findKey_eq_none_iff {s : State} {k : Key} :
    s.findKey k = none ↔ ∀ h : Handle, (s.entry h).state = .free ∨ (s.entry h).key ≠ k := by
  simp only [State.findKey, State.findEntry_none, Entry.holdsKey_eq_false]

/-! ## FIND (R15) -/

theorem find_of_findKey_some {f : CallField} {n : Half} {c : Call} {h : Handle} {s : State}
    (call : parseCall f.toList = some c) (low : 1 ≤ n.toNat) (high : n.toNat ≤ 9999)
    (lookup : s.findKey ⟨c, n.toNat⟩ = some h) :
    find f n s = s.answer .done [be8 h.val, (s.entry h).state.code] := by
  have inRange : ¬ (n.toNat < 1 ∨ 9999 < n.toNat) := by omega
  simp only [find, portCall, call, if_neg inRange, lookup]

theorem find_of_findKey_none {f : CallField} {n : Half} {c : Call} {s : State}
    (call : parseCall f.toList = some c) (low : 1 ≤ n.toNat) (high : n.toNat ≤ 9999)
    (lookup : s.findKey ⟨c, n.toNat⟩ = none) : find f n s = s.answer .noEntry [] := by
  have inRange : ¬ (n.toNat < 1 ∨ 9999 < n.toNat) := by omega
  simp only [find, portCall, call, if_neg inRange, lookup]

theorem find_badValue {f : CallField} {n : Half} (s : State)
    (bad : parseCall f.toList = none ∨ n.toNat = 0 ∨ 9999 < n.toNat) : find f n s = s.answer .badValue [] := by
  unfold find portCall
  cases call : parseCall f.toList with
  | none => rfl
  | some c =>
    have outside : n.toNat < 1 ∨ 9999 < n.toNat := by simpa [call] using bad
    exact if_pos outside

/-! ## LIST QUEUE (R70) -/

theorem parseChannel_eq_some {b : Byte} {c : Chan} (h : b.toNat = c.val) : parseChannel b = some c := by
  simp [parseChannel, h]

theorem parseCollection_queue {b : Byte} {c : Chan} (h : b.toNat = c.val) :
    parseCollection b = some (.queue c) := by
  have notFour : b ≠ 4 := by
    rintro rfl
    exact absurd c.isLt (by simp [← h])
  rw [parseCollection, if_neg notFour, parseChannel_eq_some h]
  rfl

theorem parseCollection_unrouted {b : Byte} (h : b.toNat = 4) : parseCollection b = some .unrouted :=
  if_pos (BitVec.eq_of_toNat_eq h)

theorem parseCollection_none {b : Byte} (h : 4 < b.toNat) : parseCollection b = none := by
  have notFour : b ≠ 4 := by rintro rfl; exact absurd h (by decide)
  have noChannel : ¬ b.toNat < 4 := by omega
  rw [parseCollection, if_neg notFour, parseChannel, dif_neg noChannel]
  rfl

/-- The data of LIST QUEUE: the collection's length, a count and the handles of at most 32 places from a start. -/
def queueListing (start : Nat) (q : List Handle) : List Byte :=
  be16 q.length ++ [be8 ((q.drop start).take 32).length] ++ ((q.drop start).take 32).map fun h => be8 h.val

theorem listQueue_of_collection {b : Byte} {n : Half} {k : Collection} {q : List Handle} {s : State}
    (selector : parseCollection b = some k) (handles : s.collection k = q) (start : n.toNat ≤ 255) :
    listQueue b n s = s.answer .done (queueListing n.toNat q) := by
  simp only [listQueue, selector, handles, if_neg (not_lt.2 start), queueListing]

theorem listQueue_badValue {b : Byte} {n : Half} (s : State) (bad : 4 < b.toNat ∨ 255 < n.toNat) :
    listQueue b n s = s.answer .badValue [] := by
  unfold listQueue
  cases selector : parseCollection b with
  | none => rfl
  | some k =>
    rcases bad with bad | bad
    · simp [parseCollection_none bad] at selector
    · exact if_pos bad

/-- Settles O4: FIND is the key lookup, LIST QUEUE the listing of the collection that the selector names. -/
theorem lookupsAnswer : Obligations.LookupsAnswer := by
  refine ⟨fun s f n => ⟨fun c h call low high held key lower => ?_, fun c call low high free => ?_, fun bad => ?_⟩,
    fun s b n => ⟨fun c selector start => ?_, fun selector start => ?_, fun bad => ?_⟩⟩
  · exact exec_answers rfl
      (find_of_findKey_some call low high (State.findKey_eq_some_iff.2 ⟨⟨held, key⟩, lower⟩))
  · exact exec_answers rfl (find_of_findKey_none call low high (State.findKey_eq_none_iff.2 free))
  · exact exec_answers rfl (find_badValue s bad)
  · exact exec_answers rfl (listQueue_of_collection (parseCollection_queue selector) rfl start)
  · exact exec_answers rfl (listQueue_of_collection (parseCollection_unrouted selector) rfl start)
  · exact exec_answers rfl (listQueue_badValue s bad)

/-! ## NEXT CHANGED (R21) -/

theorem nextChanged_of_lowest {s : State} {h : Handle} (changed : (s.entry h).changed = true)
    (lower : ∀ k, k < h → (s.entry k).changed = false) :
    nextChanged s = (s.setEntry h { s.entry h with changed := false }).answer .done (s.summary h) := by
  have search : s.findEntry (·.changed) = some h := State.findEntry_eq_some_iff.2 ⟨changed, lower⟩
  rw [nextChanged, search]
  rfl

theorem nextChanged_of_none {s : State} (unchanged : ∀ h, (s.entry h).changed = false) :
    nextChanged s = s.answer .nothing [] := by
  have search : s.findEntry (·.changed) = none := State.findEntry_none.2 unchanged
  rw [nextChanged, search]

theorem Entry.outcomeByte_of_not_spent {e : Entry} (h : e.state ≠ .spent) : e.outcomeByte = e.lastOutcome.code := if_neg h

/-- Settles O5: the search for a changed flag finds the lowest, or nothing. -/
theorem nextChangedCollects : Obligations.NextChangedCollects := by
  refine fun s => ⟨fun h changed lower => ?_, fun unchanged => ?_, fun h notSpent => ?_⟩
  · exact exec_ends rfl (nextChanged_of_lowest changed lower) fun _ => rfl
  · exact exec_answers rfl (nextChanged_of_none unchanged)
  · simp only [State.summary, Entry.outcomeByte_of_not_spent notSpent]

/-! ## The status-change flags and ATTN (R22, R182 to R184) -/

/-- A channel after each channel's record is changed alike. -/
theorem State.chan_forChans_updChan (f : Channel → Channel) (s : State) (c : Chan) :
    (forChans (fun d t => t.updChan d f) s).chan c = f (s.chan c) := by
  rcases chan_cases c with rfl | rfl | rfl | rfl <;> simp [forChans]

theorem State.chan_clearFlags (s : State) (c : Chan) :
    s.clearFlags.chan c = { s.chan c with jamChanged := false } :=
  State.chan_forChans_updChan (fun x => { x with jamChanged := false }) _ c

/-- The arbiter neither reads nor writes JAM_CHANGED. -/
theorem Channel.arbitrated_jamChanged (x : Channel) (b : Bool) :
    { x with jamChanged := b }.arbitrated = { x.arbitrated with jamChanged := b } := by
  have sameClaimant : { x with jamChanged := b }.claimant = x.claimant := rfl
  unfold Channel.arbitrated
  rw [sameClaimant]
  dsimp only
  split
  · split <;> rfl
  · split <;> rfl
  · rfl

theorem State.AtRest.clearFlags {s : State} (h : s.AtRest) : s.clearFlags.AtRest := fun c => by
  obtain ⟨pause, arbitrated⟩ := h c
  rw [State.chan_clearFlags]
  exact ⟨pause, by rw [Channel.arbitrated_jamChanged, arbitrated]⟩

/-- How READ STATUS ends: clearing the flags moves no arbiter and ends no pause (R183). -/
theorem readStatus_ends (s : State) :
    s.Ends (s.clearFlags.answer .done s.statusRecord) (takeRequest readStatus s) :=
  ⟨takeRequest_turned readStatus s, fun h => takeRequest_atRest_of_atRest h h.clearFlags⟩

theorem State.changedPending_iff (s : State) : s.changedPending = true ↔ ∃ h, (s.entry h).changed = true := by
  simp only [State.changedPending, List.any_eq_true, Vector.mem_toList_iff, Vector.mem_iff_getElem]
  exact ⟨fun ⟨_, ⟨i, hi, e⟩, changed⟩ => ⟨⟨i, hi⟩, by rw [State.entry, e]; exact changed⟩,
    fun ⟨h, changed⟩ => ⟨_, ⟨h.val, h.isLt, rfl⟩, changed⟩⟩

theorem findChan_isSome_iff {p : Chan → Bool} : (findChan p).isSome = true ↔ ∃ c, p c = true := by
  rw [Option.isSome_iff_ne_none, ne_eq, findChan_none]
  simp

theorem State.attn_iff (s : State) : s.attn = true ↔ (∃ h, (s.entry h).changed = true) ∨ s.congestionChanged = true ∨
    s.reachChanged = true ∨ ∃ c, (s.chan c).jamChanged = true := by
  simp only [State.attn, State.anyJamChanged, Bool.or_eq_true, State.changedPending_iff, findChan_isSome_iff, or_assoc]

/-- Settles O24: the flags are cleared before the end of the request, which touches neither them nor the answer. -/
theorem readStatusAndAttn : Obligations.ReadStatusAndAttn := by
  refine ⟨fun s => ?_, fun s => ⟨s.chan_clearFlags, rfl⟩, State.changedPending_iff, State.attn_iff⟩
  have ends := readStatus_ends s
  have turned := ends.1
  refine ⟨_, rfl, ends, turned.response, turned.congestionChanged, turned.reachChanged, fun c => ?_⟩
  rw [(turned.chan c).jamChanged, State.answer_chan, State.chan_clearFlags]

end Sys2Proof.Machine
end

/-! # The life of a message: FILE, CANCEL, RENEW, RETIRE, receipts and the two timers (R28, R29, R35 to R51)

A request with more effect than its answer ends as `exec_turned` says. Placing an entry and withdrawing one write that entry
and the collections alone (`State.SameButPlacing`); what the considerations and the arbiters do after that is a
`State.Turned`. -/

section
namespace Sys2Proof.Machine

/-! ## How a request with more effect than its answer ends -/

/-- A request whose effect is something done, and then what the end of a command may do. -/
theorem exec_turned {i : Instr} {effect : State → State} {s u v : State}
    (taken : exec i s = .next (takeRequest effect s)) (effect_eq : effect s = v) (after : u.Turned v) :
    ∃ t, exec i s = .next t ∧ u.Turned t :=
  ⟨_, taken, after.trans (effect_eq ▸ takeRequest_turned effect s)⟩

/-- What the arbiter makes of a transmitter that has not keyed: granted to the waiting claimant, or IDLE
(R133, R134). -/
def Channel.granted (x : Channel) : Transmitter :=
  match x.enabled, x.claimant with
  | true, some (k, w) => .clearing k w
  | _, _ => .idle

theorem Channel.granted_notKeyed (x : Channel) : x.granted.keyed = false := by
  unfold Channel.granted
  split <;> rfl

theorem Channel.arbitrated_of_notKeyed {x : Channel} (h : x.transmitter.keyed = false) :
    x.arbitrated = { x with transmitter := x.granted } := by
  unfold Channel.arbitrated Channel.granted
  cases transmitter : x.transmitter with
  | idle | clearing _ _ => cases x.enabled <;> cases x.claimant <;> rfl
  | _ => simp [transmitter, Transmitter.keyed] at h

theorem Channel.arbitrated_of_keyed {x : Channel} (h : x.transmitter.keyed = true) : x.arbitrated = x := by
  unfold Channel.arbitrated
  cases transmitter : x.transmitter with
  | idle | clearing _ _ => simp [transmitter, Transmitter.keyed] at h
  | _ => rfl

/-- An arbiter that has acted finds nothing more to do (R133 to R135). -/
theorem Channel.arbitrated_arbitrated (x : Channel) : x.arbitrated.arbitrated = x.arbitrated := by
  cases keyed : x.transmitter.keyed with
  | false =>
    rw [Channel.arbitrated_of_notKeyed keyed,
      Channel.arbitrated_of_notKeyed (x := { x with transmitter := x.granted }) x.granted_notKeyed]
    rfl
  | true => rw [Channel.arbitrated_of_keyed keyed, Channel.arbitrated_of_keyed keyed]

theorem arbitrateAll_chan (s : State) (c : Chan) : (arbitrateAll s).chan c = (s.chan c).arbitrated :=
  State.chan_forChans_updChan Channel.arbitrated s c

/-- After a request every arbiter has acted (R133). -/
theorem takeRequest_arbitrated (effect : State → State) (s : State) (c : Chan) :
    ((takeRequest effect s).chan c).arbitrated = (takeRequest effect s).chan c := by
  rw [takeRequest, arbitrateAll_chan, Channel.arbitrated_arbitrated]

/-! ## FILE refused (R28) -/

theorem parsePrec_eq_some {b : Byte} {p : Fin 8} (h : b.toNat = p.val) : parsePrec b = some p := by
  simp [parsePrec, h]

theorem parsePrec_eq_none {b : Byte} (h : 8 ≤ b.toNat) : parsePrec b = none := dif_neg (not_lt.2 h)

theorem State.destinationOf_eq_some {s : State} {f : CallField} {d : Call} (call : parseCall f.toList = some d)
    (other : d ≠ s.own.call) : s.destinationOf f = some d := by
  simp [State.destinationOf, portCall, call, Option.filter_some, other]

theorem State.destinationOf_eq_none {s : State} {f : CallField}
    (bad : ∀ d, parseCall f.toList = some d → d = s.own.call) : s.destinationOf f = none := by
  cases call : parseCall f.toList with
  | none => simp [State.destinationOf, portCall, call]
  | some d => simp [State.destinationOf, portCall, call, Option.filter_some, bad d call]

/-- FILE passes its parameters exactly when the precedence, the destination and the body do (R28). -/
theorem file_of_passing {s : State} {b : Byte} {f : CallField} {body : List Byte} {p : Fin 8} {d : Call}
    (prec : b.toNat = p.val) (call : parseCall f.toList = some d) (other : d ≠ s.own.call) (short : body.length ≤ 960)
    (chars : ∀ x ∈ body, isBodyChar x = true) :
    file b f body s = if s.own.call = [] then s.answer .wrongState [] else fileMessage p d body s := by
  have passes : ¬ (Config.maxText < body.length ∨ ¬ body.all isBodyChar) := by
    simpa [Config.maxText, short] using chars
  simp only [file, parsePrec_eq_some prec, State.destinationOf_eq_some call other, if_neg passes]

theorem file_badValue {s : State} {b : Byte} {f : CallField} {body : List Byte}
    (bad : 8 ≤ b.toNat ∨ (∀ d, parseCall f.toList = some d → d = s.own.call) ∨ 960 < body.length ∨
      ∃ x ∈ body, isBodyChar x = false) : file b f body s = s.answer .badValue [] := by
  unfold file
  split
  · next p d prec dest =>
    have badBody : Config.maxText < body.length ∨ ¬ body.all isBodyChar := by
      rcases bad with bad | bad | bad
      · simp [parsePrec_eq_none bad] at prec
      · simp [State.destinationOf_eq_none bad] at dest
      · simpa [Config.maxText] using bad
    exact if_pos badBody
  · rfl

theorem fileMessage_full {s : State} {p : Fin 8} {d : Call} {body : List Byte}
    (noRoom : s.allocate (s.filedEntry p d body) = none) : fileMessage p d body s = s.answer .full [] := by
  simp only [fileMessage, noRoom]

/-- Settles O2: each refusal is a branch of `file` that only answers. -/
theorem fileRefused : Obligations.FileRefused := by
  refine fun s b f body => ⟨fun bad => exec_answers rfl (file_badValue bad),
    fun p d prec call other short chars => ⟨fun noCall => ?_, fun ownCall noRoom => ?_⟩⟩
  · exact exec_answers rfl ((file_of_passing prec call other short chars).trans (if_pos noCall))
  · exact exec_answers rfl
      (((file_of_passing prec call other short chars).trans (if_neg ownCall)).trans (fileMessage_full noRoom))

/-! ## RETIRE (R51) -/

theorem retire_finished {s : State} {h : Handle} (finished : (s.entry h).state.finished = true) :
    retire h s = (retireEntry h s).answer .done [] := if_pos finished

theorem EntryState.finished_iff {x : EntryState} :
    x.finished = true ↔ x = .sent ∨ x = .refused ∨ x = .failed ∨ x = .cancelled ∨ x = .arrived := by
  cases x <;> simp [EntryState.finished]

/-- Settles O9: RETIRE is `retireEntry` on a finished entry, and only answers elsewhere. -/
theorem retireSpendsEntry : Obligations.RetireSpendsEntry := by
  intro s b h e freed
  refine ⟨fun final => ?_, fun held notSent notRefused notFailed notCancelled notArrived => ?_, fun free => ?_⟩
  · have finished : (s.entry h).state.finished = true := EntryState.finished_iff.2 final
    have held : (s.entry h).state ≠ .free := fun free => by simp [free, EntryState.finished] at finished
    have effect_eq : onEntry b retire s = (testCongestion freed).answer .done [] :=
      (onEntry_held _ held).trans (retire_finished finished)
    exact exec_turned rfl effect_eq (.refl _)
  · have going : ¬ (s.entry h).state.finished = true := by
      rw [EntryState.finished_iff]
      tauto
    exact exec_answers rfl ((onEntry_held _ held).trans (if_neg going))
  · exact exec_answers rfl (onEntry_free _ free)

/-! ## Placing an entry (R27, R69) -/

theorem State.SameButPlacing.trans {h : Handle} {s t u : State} (a : s.SameButPlacing h t) (b : t.SameButPlacing h u) :
    s.SameButPlacing h u := by
  obtain ⟨rest, chan, entry⟩ := a
  obtain ⟨rest', chan', entry'⟩ := b
  refine ⟨?_, fun c => ?_, fun k other => (entry' k other).trans (entry k other)⟩
  · clear chan chan' entry entry'
    obtain ⟨⟩ := s; obtain ⟨⟩ := t; obtain ⟨⟩ := u
    simp_all
  · rw [← chan c, ← chan' c]

theorem State.SameButPlacing.of_moved {h : Handle} {s t : State} (moved : s.Moved t)
    (chan : ∀ c, { t.chan c with queue := (s.chan c).queue } = s.chan c) (entry : ∀ k, k ≠ h → t.entry k = s.entry k) :
    s.SameButPlacing h t := by
  refine ⟨?_, chan, entry⟩
  have rest := moved.rest
  clear moved chan entry
  obtain ⟨⟩ := s; obtain ⟨⟩ := t
  simp_all

theorem State.SameButPlacing.updEntry (h : Handle) (f : Entry → Entry) (s : State) :
    s.SameButPlacing h (s.updEntry h f) :=
  ⟨rfl, fun _ => rfl, fun k other => by simp [Ne.symm other]⟩

theorem State.SameButPlacing.setCollection (h : Handle) (k : Collection) (q : List Handle) (s : State) :
    s.SameButPlacing h (s.setCollection k q) := by
  cases k with
  | unrouted => exact ⟨rfl, fun _ => rfl, fun _ _ => rfl⟩
  | queue c =>
    refine ⟨rfl, fun d => ?_, fun _ _ => rfl⟩
    by_cases e : c = d <;> simp [State.setCollection, e]

theorem State.SameButPlacing.join (h : Handle) (k : Collection) (s : State) : s.SameButPlacing h (s.join h k) :=
  .setCollection h k _ s

/-- Of a channel's record, an entry that leaves its collection changes the queue alone (R69). -/
theorem State.chan_leave (s : State) (h : Handle) (c : Chan) :
    (s.leave h).chan c = { s.chan c with queue := without h (s.chan c).queue } :=
  State.chan_forChans_updChan _ _ c

theorem State.SameButPlacing.leave (h : Handle) (s : State) : s.SameButPlacing h (s.leave h) :=
  .of_moved (.leave s h) (fun c => by rw [State.chan_leave]) fun _ _ => rfl

theorem State.SameButPlacing.place (h : Handle) (s : State) : s.SameButPlacing h (s.place h) :=
  (State.SameButPlacing.updEntry h _ s).trans (.join h _ _)

theorem State.SameButPlacing.answer {h : Handle} {s t : State} (a : s.SameButPlacing h t) (r : Result) (d : List Byte) :
    s.SameButPlacing h (t.answer r d) := a

/-- The entry that is placed: READY, its next hop the route's (R27). -/
theorem State.place_entry (s : State) (h : Handle) :
    (s.place h).entry h =
      { s.entry h with state := .ready, nextHop := s.route (s.entry h), notBefore := none, cancelPending := none } := by
  simp [State.place, State.join, State.setCollection_entry]

theorem insertInOrder_mem (b : Handle → Handle → Bool) (h : Handle) (q : List Handle) : h ∈ insertInOrder b h q :=
  (insertInOrder_perm b h q).mem_iff.2 (List.mem_cons_self ..)

theorem State.mem_collection_join (s : State) (h : Handle) (k : Collection) : h ∈ (s.join h k).collection k := by
  rw [State.join, State.collection_setCollection, if_pos rfl]
  exact insertInOrder_mem _ h _

/-- Where a next hop leads depends on the directory alone. -/
theorem State.hopChannel_congr {s t : State} (stations : t.stations = s.stations) : t.hopChannel = s.hopChannel := by
  funext i
  simp only [State.hopChannel, State.station, stations]

theorem State.collectionFor_congr {s t : State} (stations : t.stations = s.stations) (r : Option Index) :
    t.collectionFor r = s.collectionFor r := by
  simp only [State.collectionFor, State.hopChannel_congr stations]

theorem State.SameButPlacing.stations {h : Handle} {s t : State} (a : s.SameButPlacing h t) :
    t.stations = s.stations := by
  rw [← a.1]

/-- The entry that is placed waits in the collection of its route (R27, R68). -/
theorem State.mem_collection_place (s : State) (h : Handle) :
    h ∈ (s.place h).collection ((s.place h).collectionFor (s.route (s.entry h))) := by
  rw [State.collectionFor_congr (State.SameButPlacing.place h s).stations]
  exact State.mem_collection_join _ h _

theorem State.placedOn_place (s : State) (h : Handle) :
    (s.place h).placedOn h = (s.route (s.entry h)).bind s.hopChannel := by
  rw [State.placedOn, State.place_entry, State.hopChannel_congr (State.SameButPlacing.place h s).stations]

/-! ## RENEW (R50) -/

theorem EntryState.renewable_iff {x : EntryState} :
    x.renewable = true ↔ x = .failed ∨ x = .refused ∨ x = .cancelled := by
  cases x <;> simp [EntryState.renewable]

/-- The part after RENEW has put an entry back, before the considerations (R50). -/
def State.renewed (s : State) (h : Handle) : State :=
  (s.updEntry h fun e => { e with attemptCount := 0, lastOutcome := .none }).place h

theorem renew_renewable {s : State} {h : Handle} (renewable : (s.entry h).state.renewable = true) :
    renew h s = considerAll ((s.renewed h).answer .done [3, optByte ((s.renewed h).placedOn h)]) := if_pos renewable

theorem State.renewed_entry (s : State) (h : Handle) : (s.renewed h).entry h =
    { s.entry h with state := .ready, attemptCount := 0, lastOutcome := .none, nextHop := s.route (s.entry h),
                     notBefore := none, cancelPending := none } := by
  rw [State.renewed, State.place_entry, State.entry_updEntry, if_pos rfl]
  rfl

/-- Settles O8: RENEW clears the record of attempts and places the entry; the route reads neither. -/
theorem renewPutsBack : Obligations.RenewPutsBack := by
  intro s b h e
  refine ⟨fun final => ?_, fun held notFailed notRefused notCancelled => ?_, fun free => ?_⟩
  · have renewable : (s.entry h).state.renewable = true := EntryState.renewable_iff.2 final
    have held : (s.entry h).state ≠ .free := fun free => by simp [free, EntryState.renewable] at renewable
    let cleared := s.updEntry h fun e => { e with attemptCount := 0, lastOutcome := .none }
    have sameRoute : cleared.route (cleared.entry h) = s.route e := by
      rw [State.entry_updEntry, if_pos rfl]
      rfl
    have placed : (s.renewed h).placedOn h = (s.route e).bind s.hopChannel := by
      rw [← sameRoute]
      exact State.placedOn_place cleared h
    have effect_eq : onEntry b renew s =
        considerAll ((s.renewed h).answer .done [3, optByte ((s.route e).bind s.hopChannel)]) :=
      placed ▸ (onEntry_held _ held).trans (renew_renewable renewable)
    obtain ⟨t, taken, turned⟩ := exec_turned (i := .renew b) rfl effect_eq (.considerAll _)
    refine ⟨_, t, taken, turned, s.renewed_entry h, ?_, rfl,
      ((State.SameButPlacing.updEntry h _ s).trans (.place h _)).answer _ _⟩
    rw [← sameRoute]
    exact State.mem_collection_place cleared h
  · have final : ¬ (s.entry h).state.renewable = true := by
      rw [EntryState.renewable_iff]
      tauto
    exact exec_answers rfl ((onEntry_held _ held).trans (if_neg final))
  · exact exec_answers rfl (onEntry_free _ free)

/-! ## CANCEL (R47) -/

theorem cancel_ready {s : State} {h : Handle} (state : (s.entry h).state = .ready) :
    cancel h s = ((s.leave h).cancelEntry h (s.entry h).lastOutcome).answer .done [9] := by
  simp only [cancel, state]
  rfl

theorem cancel_retryWait {s : State} {h : Handle} (state : (s.entry h).state = .retryWait) :
    cancel h s = (s.cancelEntry h (s.entry h).lastOutcome).answer .done [9] := by
  simp only [cancel, state]
  rfl

theorem cancel_staged {s : State} {h : Handle} {c : Chan} {w x : Nat} (state : (s.entry h).state = .engaged)
    (engine : s.engineOf h = some c) (staged : (s.chan c).engine = .staged h w x) :
    cancel h s = considerAll (((idleEngine c s).cancelEntry h .withdrawn).answer .done [9]) := by
  simp only [cancel, state, cancelEngaged, engine, staged]
  rfl

theorem cancel_keyed {s : State} {h : Handle} {c : Chan} (state : (s.entry h).state = .engaged)
    (engine : s.engineOf h = some c)
    (keyed : (∃ r, (s.chan c).engine = .sending h r) ∨ ∃ n, (s.chan c).engine = .awaiting h n) :
    cancel h s = (s.updEntry h fun e => { e with cancelPending := some true }).answer .done [4] := by
  rcases keyed with ⟨r, keyed⟩ | ⟨n, keyed⟩ <;>
  · simp only [cancel, state, cancelEngaged, engine, keyed]
    rfl

theorem cancel_refused {s : State} {h : Handle}
    (state : (s.entry h).state ≠ .ready ∧ (s.entry h).state ≠ .retryWait ∧ (s.entry h).state ≠ .engaged) :
    cancel h s = s.answer .wrongState [] := by
  unfold cancel
  split <;> simp_all

theorem State.not_mem_collection_leave (s : State) (h : Handle) (k : Collection) : h ∉ (s.leave h).collection k := by
  simp [State.collection_leave, without]

/-- Settles O7: each clause is a branch of `cancel`; the withdrawal alone writes an engine, and so alone needs the
arbiters to have acted. -/
theorem cancelByState : Obligations.CancelByState := by
  intro s b h e gone
  have held {x : EntryState} (state : e.state = x) (notFree : x ≠ .free := by decide) : e.state ≠ .free :=
    state ▸ notFree
  refine ⟨fun ready => ?_, fun waits => ?_, fun c w x engaged engine staged => ?_, fun c engaged engine keyed => ?_,
    fun final => ?_, fun free => ?_⟩
  · have effect_eq : onEntry b cancel s = ((s.leave h).cancelEntry h e.lastOutcome).answer .done [9] :=
      (onEntry_held _ (held ready)).trans (cancel_ready ready)
    obtain ⟨t, taken, turned⟩ := exec_turned (i := .cancel b) rfl effect_eq (.refl _)
    refine ⟨_, t, taken, turned, ?_, fun k => ?_, rfl,
      ((State.SameButPlacing.leave h s).trans (.updEntry h _ _)).answer _ _⟩
    · simp [State.cancelEntry]
      rfl
    · have sameCollection := (s.leave h).collection_updEntry h (fun _ => gone) k
      exact sameCollection ▸ s.not_mem_collection_leave h k
  · exact exec_ends rfl ((onEntry_held _ (held waits)).trans (cancel_retryWait waits)) fun _ => rfl
  · have effect_eq : onEntry b cancel s = considerAll (((idleEngine c s).cancelEntry h .withdrawn).answer .done [9]) :=
      (onEntry_held _ (held engaged)).trans (cancel_staged engaged engine staged)
    obtain ⟨_, taken, turned⟩ := exec_turned (i := .cancel b) rfl effect_eq (.considerAll _)
    cases taken
    exact ⟨_, rfl, turned, takeRequest_arbitrated _ s c⟩
  · exact exec_ends rfl ((onEntry_held _ (held engaged)).trans (cancel_keyed engaged engine keyed)) fun _ => rfl
  · obtain ⟨notFree, other⟩ : e.state ≠ .free ∧ e.state ≠ .ready ∧ e.state ≠ .retryWait ∧ e.state ≠ .engaged := by
      rcases final with state | state | state | state | state | state | state <;> simp [state]
    exact exec_answers rfl ((onEntry_held _ notFree).trans (cancel_refused other))
  · exact exec_answers rfl (onEntry_free _ free)

/-! ## An entry closed or returned (R27, R35 to R41) -/

/-- An entry closed in a state with an outcome (R20): what `State.closeEntry` makes of it and `State.Closes` says. -/
def Entry.closed (e : Entry) (x : EntryState) (o : LastOutcome) : Entry :=
  { e with state := x, lastOutcome := o, nextHop := none, notBefore := none, cancelPending := none, changed := true }

theorem State.closeEntry_entry (s : State) (h : Handle) (x : EntryState) (o : LastOutcome) :
    (s.closeEntry h x o).entry h = (s.entry h).closed x o := by
  rw [State.closeEntry, State.entry_updEntry, if_pos rfl]
  rfl

theorem State.returnEntry_entry (s : State) (h : Handle) (o : LastOutcome) : (s.returnEntry h o).entry h =
    { s.entry h with state := .ready, lastOutcome := o, nextHop := s.route (s.entry h), notBefore := none,
                     cancelPending := none } := by
  rw [State.returnEntry, State.place_entry, State.entry_updEntry, if_pos rfl]
  rfl

theorem Entry.cancelled_iff {e : Entry} : e.cancelled = true ↔ e.cancelPending = some true := decide_eq_true_iff

theorem State.place_engine (s : State) (h : Handle) (c : Chan) : ((s.place h).chan c).engine = (s.chan c).engine :=
  State.setCollection_engine _ _ _ c

theorem State.returnEntry_engine (s : State) (h : Handle) (o : LastOutcome) (c : Chan) :
    ((s.returnEntry h o).chan c).engine = (s.chan c).engine := State.place_engine _ h c

theorem State.endReturned_engine (s : State) (h : Handle) (o : LastOutcome) (c : Chan) :
    ((s.endReturned h o).chan c).engine = (s.chan c).engine := by
  unfold State.endReturned
  split
  · rfl
  · exact s.returnEntry_engine h o c

/-- An ending that returns the entry, or leaves it CANCELLED where cancel was pending (R37, R41). -/
theorem State.endReturned_entry (s : State) (h : Handle) (o : LastOutcome) :
    ((s.endReturned h o).entry h).state = (if (s.entry h).cancelPending = some true then .cancelled else .ready) ∧
      ((s.endReturned h o).entry h).lastOutcome = o := by
  simp only [State.endReturned, Entry.cancelled_iff]
  split
  · rw [State.closeEntry_entry]
    exact ⟨rfl, rfl⟩
  · rw [State.returnEntry_entry]
    exact ⟨rfl, rfl⟩

theorem idleEngine_chan (c d : Chan) (s : State) :
    (idleEngine c s).chan d = if c = d then { s.chan c with engine := .idle } else s.chan d :=
  State.chan_updChan ..

theorem idleEngine_collection (c : Chan) (s : State) (k : Collection) :
    (idleEngine c s).collection k = s.collection k := by
  cases k with
  | unrouted => rfl
  | queue d => by_cases e : c = d <;> simp [State.collection, idleEngine_chan, e]

/-! ## The receipt timer (R38, R41, R42, R164) -/

/-- An entry whose receipt timer has expired, under a retry limit and with the moment of its next attempt. -/
def Entry.timedOut (e : Entry) (limit : Nat) (notBefore : Quad) : Entry :=
  let k := e.attemptCount + 1
  if e.cancelPending = some true then { e with attemptCount := k }.closed .cancelled .noReceipt
  else if k < limit then e.retryAt k notBefore
  else { e with attemptCount := k }.closed .failed .noReceipt

/-- What an expiry writes whatever comes of the entry. -/
theorem Entry.timedOut_kept (e : Entry) (limit : Nat) (notBefore : Quad) :
    (e.timedOut limit notBefore).attemptCount = e.attemptCount + 1 ∧
      (e.timedOut limit notBefore).lastOutcome = .noReceipt ∧ (e.timedOut limit notBefore).nextHop = none ∧
      (e.timedOut limit notBefore).lastHop = e.lastHop := by
  unfold Entry.timedOut
  dsimp only
  split
  · exact ⟨rfl, rfl, rfl, rfl⟩
  · split <;> exact ⟨rfl, rfl, rfl, rfl⟩

theorem Entry.timedOut_of_cancel {e : Entry} (cancel : e.cancelPending = some true) (limit : Nat) (notBefore : Quad) :
    e.timedOut limit notBefore = { e with attemptCount := e.attemptCount + 1 }.closed .cancelled .noReceipt :=
  if_pos cancel

theorem Entry.timedOut_of_lt {e : Entry} {limit : Nat} (keep : e.cancelPending ≠ some true)
    (below : e.attemptCount + 1 < limit) (notBefore : Quad) :
    e.timedOut limit notBefore = e.retryAt (e.attemptCount + 1) notBefore :=
  (if_neg keep).trans (if_pos below)

theorem Entry.timedOut_of_le {e : Entry} {limit : Nat} (keep : e.cancelPending ≠ some true)
    (atLimit : limit ≤ e.attemptCount + 1) (notBefore : Quad) :
    e.timedOut limit notBefore = { e with attemptCount := e.attemptCount + 1 }.closed .failed .noReceipt :=
  (if_neg keep).trans (if_neg (not_lt.2 atLimit))

/-- The retry delay of an entry's next attempt on a channel, in ms (R164). -/
def State.retryMs (s : State) (c : Chan) (e : Entry) : Quad :=
  BitVec.ofNat 32 ((s.chan c).settings.retryDelay (e.attemptCount + 1) * 1000)

/-- The expiry of a receipt timer idles the engine and writes the entry, and nothing else. -/
theorem timeOut_eq (c : Chan) (h : Handle) (s : State) : timeOut c h s = (idleEngine c s).setEntry h
    ((s.entry h).timedOut (s.classRow (s.entry h).precedence).retryLimit
      (s.time.counter + s.retryMs c (s.entry h))) := by
  have sameEntry : (idleEngine c s).entry h = s.entry h := rfl
  have sameRow : (idleEngine c s).classRow = s.classRow := rfl
  have rewritten (f g : Entry → Entry) : ((idleEngine c s).updEntry h f).updEntry h g =
      (idleEngine c s).setEntry h (g (f (s.entry h))) := by
    simp [State.updEntry, State.setEntry, State.entry, idleEngine]
  simp only [timeOut, sameEntry, sameRow, Entry.timedOut, Entry.cancelled_iff]
  split
  · exact rewritten _ _
  · split
    · rfl
    · exact rewritten _ _

theorem State.SameTables.trans {s t u : State} (a : s.SameTables t) (b : t.SameTables u) : s.SameTables u := by
  obtain ⟨h1, h2, h3, h4, h5, h6, h7⟩ := a
  obtain ⟨k1, k2, k3, k4, k5, k6, k7⟩ := b
  exact ⟨k1.trans h1, k2.trans h2, k3.trans h3, k4.trans h4, k5.trans h5, k6.trans h6, k7.trans h7⟩

theorem State.Turned.sameTables {s t : State} (h : s.Turned t) : s.SameTables t := by
  rw [State.SameTables, ← h.rest]
  exact ⟨rfl, rfl, rfl, rfl, rfl, rfl, rfl⟩

/-- The entry whose timer has expired neither waits nor stands in an exchange, when no other engine held it. -/
theorem timeOut_not_waits {c : Chan} {h : Handle} {s : State} (apart : ∀ q, h ∉ s.collection q)
    (alone : ∀ d, d ≠ c → (s.chan d).engine.entry? ≠ some h) : ¬ (timeOut c h s).Waits h := by
  have sameChan (d : Chan) : (timeOut c h s).chan d = (idleEngine c s).chan d := by rw [timeOut_eq]; rfl
  have sameCollection (q : Collection) : (timeOut c h s).collection q = s.collection q := by
    rw [timeOut_eq, ← idleEngine_collection c s q]
    cases q <;> rfl
  rintro (⟨q, waits⟩ | ⟨d, held⟩)
  · exact apart q (sameCollection q ▸ waits)
  · rw [sameChan, idleEngine_chan] at held
    split at held
    · cases held
    · next other => exact alone d (Ne.symm other) held

theorem takeTimeout_awaiting {c : Chan} {h : Handle} {s : State} (engine : (s.chan c).engine = .awaiting h 0) :
    takeTimeout c s = conclude (timeOut c h s) := by
  simp only [takeTimeout, Channel.timedOut, engine]

theorem State.Only.timeOut (c : Chan) (h : Handle) (s : State) : s.Only h (timeOut c h s) := by
  rw [timeOut_eq]
  exact (State.Only.idleEngine h c s).trans (.updEntry h _ fun _ => _)

/-- A moment that the counter has reached does not lie ahead of it (R167). -/
theorem not_liesAhead_self (t : Quad) : liesAhead t t = false := by
  rw [liesAhead, BitVec.sub_self]
  rfl

theorem takeRetry_of_reached {h : Handle} {s : State} (waits : (s.entry h).state = .retryWait)
    (reached : (s.entry h).notBefore = some s.time.counter) : takeRetry h s = conclude (s.place h) := by
  have due : (s.entry h).retryDue s.time.counter = true := by
    simp [Entry.retryDue, waits, reached, not_liesAhead_self]
  exact if_pos due

/-- Settles O43: the expiry writes the entry alone, which then stands in no collection and no exchange, so the
considerations leave it; the end of a retry wait places the entry. -/
theorem retryAndReceiptTimers : Obligations.RetryAndReceiptTimers := by
  constructor
  · intro s c h engine apart alone e k
    have turned : (timeOut c h s).Turned (conclude (timeOut c h s)) := .conclude _
    obtain ⟨kept, notWaits⟩ := turned.others h (timeOut_not_waits apart alone)
    have entry : (conclude (timeOut c h s)).entry h =
        e.timedOut (s.classRow e.precedence).retryLimit (s.time.counter + s.retryMs c e) := by
      rw [kept, timeOut_eq, State.entry_setEntry, if_pos rfl]
    have tables : s.SameTables (timeOut c h s) ∧ (timeOut c h s).response = s.response := by
      rw [timeOut_eq]
      exact ⟨⟨rfl, rfl, rfl, rfl, rfl, rfl, rfl⟩, rfl⟩
    obtain ⟨attempts, outcome, hop, lastHop⟩ :=
      e.timedOut_kept (s.classRow e.precedence).retryLimit (s.time.counter + s.retryMs c e)
    refine ⟨_, congrArg Host.Outcome.next (takeTimeout_awaiting engine), ?_⟩
    rw [entry]
    refine ⟨attempts, outcome, hop, lastHop, fun q waits => notWaits (.inl ⟨q, waits⟩), fun cancel => ?_,
      fun keep below => ?_, fun keep atLimit => ?_, fun q other idle => ?_, tables.1.trans turned.sameTables,
      turned.response.trans tables.2⟩
    · rw [Entry.timedOut_of_cancel cancel]
      exact ⟨rfl, rfl⟩
    · rw [Entry.timedOut_of_lt keep below]
      exact ⟨rfl, rfl, rfl⟩
    · rw [Entry.timedOut_of_le keep atLimit]
      exact ⟨rfl, rfl⟩
    · obtain ⟨same, stays⟩ := State.Only.timeOut c h s q other
      exact (turned.others q fun waits => idle (stays waits)).1.trans same
  · intro s h waits reached
    exact ⟨_, _, congrArg Host.Outcome.next (takeRetry_of_reached waits reached), .conclude _, s.place_entry h,
      s.mem_collection_place h, .place h s⟩

/-! ## The implicit hold of a FULL (R76, R77, R81) -/

/-- After withdrawals every engine is as it was or IDLE, and an entry that no engine held is as it was. -/
structure State.Withdrawn (s t : State) : Prop where
  engine : ∀ c, (t.chan c).engine = (s.chan c).engine ∨ (t.chan c).engine = .idle
  entry : ∀ h, (∀ c, (s.chan c).engine.entry? ≠ some h) → t.entry h = s.entry h

theorem State.Withdrawn.refl (s : State) : s.Withdrawn s := ⟨fun _ => .inl rfl, fun _ _ => rfl⟩

theorem State.Withdrawn.trans {s t u : State} (a : s.Withdrawn t) (b : t.Withdrawn u) : s.Withdrawn u where
  engine := fun c => (b.engine c).elim (fun same => same ▸ a.engine c) .inr
  entry := fun h free => by
    have stillFree : ∀ c, (t.chan c).engine.entry? ≠ some h := fun c held => by
      rcases a.engine c with same | idle
      · exact free c (same ▸ held)
      · rw [idle] at held
        cases held
    exact (b.entry h stillFree).trans (a.entry h free)

theorem State.Withdrawn.forChans {f : Chan → State → State} (each : ∀ (c : Chan) (s : State), s.Withdrawn (f c s))
    (s : State) : s.Withdrawn (forChans f s) :=
  (((each 0 s).trans (each 1 _)).trans (each 2 _)).trans (each 3 _)

theorem State.Withdrawn.withdraw (c : Chan) (s : State) : s.Withdrawn (withdraw c s) := by
  unfold Machine.withdraw
  split
  · next h _ _ staged =>
    refine ⟨fun d => ?_, fun k free => ?_⟩
    · rw [State.returnEntry_engine, idleEngine_chan]
      split
      · exact .inr rfl
      · exact .inl rfl
    · have other : k ≠ h := fun e => free c (by rw [staged, e]; rfl)
      exact (State.Only.returnEntry h _ _ k other).1
  · exact .refl s

theorem State.Withdrawn.withdrawIf (test : State → Entry → Bool) (c : Chan) (s : State) :
    s.Withdrawn (withdrawIf test c s) := by
  unfold Machine.withdrawIf
  split
  · split
    · exact .withdraw c s
    · exact .refl s
  · exact .refl s

theorem writeHold_withdrawn (i : Index) (time : Nat) (cutoff : Fin 8) (s : State) :
    s.Withdrawn (writeHold i time cutoff s) := by
  have written : s.Withdrawn (s.updStation i (Station.ordered time cutoff)) := ⟨fun _ => .inl rfl, fun _ _ => rfl⟩
  exact written.trans (.forChans (fun c t => .withdrawIf _ c t) _)

theorem implicitHold_withdrawn (from_ : Call) (s : State) : s.Withdrawn (implicitHold from_ s) := by
  unfold implicitHold
  split
  · exact writeHold_withdrawn ..
  · exact .refl s

theorem writeHold_moved (i : Index) (time : Nat) (cutoff : Fin 8) (s : State) :
    (s.updStation i (Station.ordered time cutoff)).Moved (writeHold i time cutoff s) :=
  .forChans (fun c t => .withdrawIf _ c t) _

theorem implicitHold_sameMessage (from_ : Call) (s : State) (h : Handle) :
    (s.entry h).SameMessage ((implicitHold from_ s).entry h) := by
  unfold implicitHold
  split
  · exact (writeHold_moved ..).entry h
  · exact .rfl' _

theorem State.Moved.stations {s t : State} (h : s.Moved t) : t.stations = s.stations := by rw [← h.rest]

theorem implicitHold_station {from_ : Call} {s : State} {i : Index} (found : s.findStation from_ = some i) :
    (implicitHold from_ s).station i = (s.station i).map (Station.ordered s.own.fullBackoff 0) := by
  have written := State.station_updStation s i i (Station.ordered s.own.fullBackoff 0)
  rw [if_pos rfl] at written
  simp only [implicitHold, found, State.station, (writeHold_moved ..).stations]
  exact written

theorem Station.ordered_of_pos {time : Nat} (pos : 0 < time) (cutoff : Fin 8) (st : Station) :
    (st.ordered time cutoff).holdRemaining = time ∧ (st.ordered time cutoff).holdCutoff = cutoff := by
  rw [Station.ordered, if_neg (Nat.pos_iff_ne_zero.1 pos)]
  exact ⟨rfl, rfl⟩

/-! ## Matching a receipt (R44) -/

theorem applyReceipt_of_unmatched {key : Key} {s : State} (unknown : s.findKey key = none) (v : Verdict)
    (from_ : Call) : applyReceipt key v from_ s = s := by
  simp only [applyReceipt, unknown]

theorem applyReceipt_of_found {key : Key} {s : State} {h : Handle} (found : s.findKey key = some h) (v : Verdict)
    (from_ : Call) : applyReceipt key v from_ s =
      if (s.entry h).lastHop = some from_ then
        if (s.entry h).state = .engaged then receiptEngaged h v from_ s else receiptLate h v s
      else s := by
  simp only [applyReceipt, found]

theorem applyReceipt_engaged {key : Key} {s : State} {h : Handle} {from_ : Call} (found : s.findKey key = some h)
    (hop : (s.entry h).lastHop = some from_) (engaged : (s.entry h).state = .engaged) (v : Verdict) :
    applyReceipt key v from_ s = receiptEngaged h v from_ s := by
  rw [applyReceipt_of_found found, if_pos hop, if_pos engaged]

theorem applyReceipt_late {key : Key} {s : State} {h : Handle} {from_ : Call} (found : s.findKey key = some h)
    (hop : (s.entry h).lastHop = some from_) (late : (s.entry h).state ≠ .engaged) (v : Verdict) :
    applyReceipt key v from_ s = receiptLate h v s := by
  rw [applyReceipt_of_found found, if_pos hop, if_neg late]

theorem receiptEngaged_awaiting {s : State} {h k : Handle} {c : Chan} {n : Nat} (engine : s.engineOf h = some c)
    (awaiting : (s.chan c).engine = .awaiting k n) (v : Verdict) (from_ : Call) :
    receiptEngaged h v from_ s = receiptAwaiting c h v from_ s := by
  simp only [receiptEngaged, engine, awaiting]

theorem receiptEngaged_staged {s : State} {h k : Handle} {c : Chan} {w x : Nat} (engine : s.engineOf h = some c)
    (staged : (s.chan c).engine = .staged k w x) (v : Verdict) (from_ : Call) :
    receiptEngaged h v from_ s = receiptStaged c h v s := by
  simp only [receiptEngaged, engine, staged]

theorem receiptEngaged_sending {s : State} {h k : Handle} {c : Chan} {r : Option Verdict}
    (engine : s.engineOf h = some c) (sending : (s.chan c).engine = .sending k r) (v : Verdict) (from_ : Call) :
    receiptEngaged h v from_ s = s.updChan c fun x => { x with engine := .sending h (recordVerdict r v) } := by
  simp only [receiptEngaged, engine, sending]

/-! ## A receipt that ends an exchange (R35 to R37, R41, R45) -/

/-- The engine made IDLE and its entry closed: what every verdict but FULL does with an AWAITING or STAGED exchange. -/
theorem idleEngine_closeEntry (c : Chan) (h : Handle) (x : EntryState) (o : LastOutcome) (s : State) :
    (((idleEngine c s).closeEntry h x o).chan c).engine = .idle ∧
      ((idleEngine c s).closeEntry h x o).entry h = (s.entry h).closed x o ∧
      ∀ k, k ≠ h → ((idleEngine c s).closeEntry h x o).entry k = s.entry k := by
  refine ⟨?_, (idleEngine c s).closeEntry_entry h x o,
    fun k other => (State.Only.closeEntry h (idleEngine c s) x o k other).1⟩
  have engine : ((idleEngine c s).chan c).engine = .idle := by rw [idleEngine_chan, if_pos rfl]
  exact engine

/-- A FULL ends an AWAITING exchange with the sender held and the entry returned, or CANCELLED (R37, R41, R81). -/
theorem receiptAwaiting_full (c : Chan) (h : Handle) (from_ : Call) (s : State) :
    let t := receiptAwaiting c h .full from_ s
    (t.chan c).engine = .idle ∧ (s.entry h).SameMessage (t.entry h) ∧
    ((∀ d, d ≠ c → (s.chan d).engine.entry? ≠ some h) →
      (t.entry h).state = (if (s.entry h).cancelPending = some true then .cancelled else .ready) ∧
        (t.entry h).lastOutcome = .full) ∧
    ∀ i, s.findStation from_ = some i → t.station i = (s.station i).map (Station.ordered s.own.fullBackoff 0) := by
  intro t
  let held := implicitHold from_ (idleEngine c s)
  have withdrawn : (idleEngine c s).Withdrawn held := implicitHold_withdrawn ..
  have moved : held.Moved t := .endReturned held h .full
  refine ⟨?_, (implicitHold_sameMessage from_ (idleEngine c s) h).trans (moved.entry h), fun alone => ?_,
    fun i found => ?_⟩
  · have idle : ((idleEngine c s).chan c).engine = .idle := by rw [idleEngine_chan, if_pos rfl]
    exact (held.endReturned_engine h .full c).trans ((withdrawn.engine c).elim (·.trans idle) id)
  · have free : ∀ d, ((idleEngine c s).chan d).engine.entry? ≠ some h := fun d => by
      rw [idleEngine_chan]
      split
      · exact nofun
      · next other => exact alone d (Ne.symm other)
    have sameEntry : held.entry h = s.entry h := withdrawn.entry h free
    exact sameEntry ▸ held.endReturned_entry h .full
  · have written : held.station i = (s.station i).map (Station.ordered s.own.fullBackoff 0) :=
      implicitHold_station (s := idleEngine c s) found
    rw [← written]
    simp only [State.station, moved.stations]

/-- Every verdict but FULL closes the entry of an AWAITING exchange (R35, R36, R41). -/
theorem receiptAwaiting_closes (c : Chan) (h : Handle) (from_ : Call) (s : State) :
    receiptAwaiting c h .accept from_ s = (idleEngine c s).closeEntry h .sent .confirmed ∧
    receiptAwaiting c h .duplicate from_ s = (idleEngine c s).closeEntry h .sent .confirmedDuplicate ∧
    receiptAwaiting c h .noroute from_ s = (idleEngine c s).closeEntry h
      (if (s.entry h).cancelPending = some true then .cancelled else .refused) .noroute := by
  refine ⟨rfl, rfl, ?_⟩
  have sameEntry : (idleEngine c s).entry h = s.entry h := rfl
  simp only [receiptAwaiting, State.endRefused, sameEntry, Entry.cancelled_iff]

/-- A verdict recorded while the frame is sent: the first other than FULL (R45). -/
theorem recordVerdict_first {v : Verdict} (notFull : v ≠ .full) : recordVerdict none v = some v := by
  cases v with
  | full => contradiction
  | _ => rfl

theorem recordVerdict_kept {r : Option Verdict} {v : Verdict} (kept : r ≠ none ∨ v = .full) :
    recordVerdict r v = r := by
  cases r with
  | some _ => rfl
  | none => rw [kept.resolve_left fun h => h rfl]; rfl

/-! ## A receipt outside an exchange (R46, Table 2-4) -/

/-- An entry leaves its collection and is closed: in no collection after, the others untouched. -/
theorem leave_closeEntry (s : State) (h : Handle) (x : EntryState) (o : LastOutcome) :
    ((s.leave h).closeEntry h x o).entry h = (s.entry h).closed x o ∧
      (∀ q, h ∉ ((s.leave h).closeEntry h x o).collection q) ∧
      ∀ k, k ≠ h → ((s.leave h).closeEntry h x o).entry k = s.entry k := by
  refine ⟨(s.leave h).closeEntry_entry h x o, fun q => ?_,
    fun k other => (State.Only.closeEntry h (s.leave h) x o k other).1⟩
  have sameCollection := (s.leave h).collection_updEntry h (fun e => e.closed x o) q
  exact sameCollection ▸ s.not_mem_collection_leave h q

/-- The entry of a late receipt is closed where it stands; a READY one leaves its collection first. -/
theorem receiptLate_confirmed {s : State} {h : Handle} {v : Verdict} (late : v = .accept ∨ v = .duplicate)
    (state : (s.entry h).state = .ready ∨ (s.entry h).state = .retryWait ∨ (s.entry h).state = .failed ∨
      (s.entry h).state = .cancelled) :
    receiptLate h v s = (if (s.entry h).state = .ready then s.leave h else s).closeEntry h .sent .confirmedLate := by
  rcases late with rfl | rfl <;> rcases state with state | state | state | state <;> simp [receiptLate, state]

theorem receiptLate_refused {s : State} {h : Handle}
    (state : (s.entry h).state = .ready ∨ (s.entry h).state = .retryWait ∨ (s.entry h).state = .failed) :
    receiptLate h .noroute s =
      (if (s.entry h).state = .ready then s.leave h else s).closeEntry h .refused .noroute := by
  rcases state with state | state | state <;> simp [receiptLate, state]

theorem receiptLate_ignored {s : State} {h : Handle} {v : Verdict}
    (ignored : v = .full ∨ (v = .noroute ∧ (s.entry h).state = .cancelled) ∨
      ((s.entry h).state ≠ .ready ∧ (s.entry h).state ≠ .retryWait ∧ (s.entry h).state ≠ .failed ∧
        (s.entry h).state ≠ .cancelled)) : receiptLate h v s = s := by
  unfold receiptLate
  split <;> simp_all

theorem closeEntry_late (s : State) (h : Handle) (x : EntryState) (o : LastOutcome) :
    let t := (if (s.entry h).state = .ready then s.leave h else s).closeEntry h x o
    t.Closes h (s.entry h) x o ∧ ((s.entry h).state = .ready → ∀ q, h ∉ t.collection q) ∧
      ∀ k, k ≠ h → t.entry k = s.entry k := by
  obtain ⟨closed, left, others⟩ := leave_closeEntry s h x o
  split
  · exact ⟨closed, fun _ => left, others⟩
  · next notReady =>
    exact ⟨s.closeEntry_entry h x o, fun ready => absurd ready notReady,
      fun k other => (State.Only.closeEntry h s x o k other).1⟩

/-- Settles O42: each clause is one of the branches of `applyReceipt`, and each branch closes the entry, returns it,
records the verdict or changes nothing. -/
theorem receiptEndsExchange : Obligations.ReceiptEndsExchange := by
  constructor
  · intro s c h n key v from_ found hop engaged engine awaiting t
    have t_eq : t = receiptAwaiting c h v from_ s :=
      (applyReceipt_engaged found hop engaged v).trans (receiptEngaged_awaiting engine awaiting v from_)
    clear_value t
    subst t_eq
    obtain ⟨accept, duplicate, noroute⟩ := receiptAwaiting_closes c h from_ s
    cases v with
    | accept =>
      obtain ⟨idle, entry, -⟩ := idleEngine_closeEntry c h .sent .confirmed s
      simp [accept, idle, entry, Entry.closed]
    | duplicate =>
      obtain ⟨idle, entry, -⟩ := idleEngine_closeEntry c h .sent .confirmedDuplicate s
      simp [duplicate, idle, entry, Entry.closed]
    | noroute =>
      obtain ⟨idle, entry, -⟩ := idleEngine_closeEntry c h
        (if (s.entry h).cancelPending = some true then .cancelled else .refused) .noroute s
      simp [noroute, idle, entry, Entry.closed]
    | full =>
      obtain ⟨idle, message, returned, station⟩ := receiptAwaiting_full c h from_ s
      refine ⟨idle, ?_, ?_, nofun, nofun, nofun, nofun, fun _ alone => ⟨(returned alone).1, (returned alone).2, ?_⟩⟩
      · rw [← message]
      · rw [← message]
      · intro i st found record
        refine ⟨_, by rw [station i found, record]; rfl, fun pos => Station.ordered_of_pos pos 0 st⟩
  · intro s h key v from_ e t
    refine ⟨fun unknown => applyReceipt_of_unmatched unknown v from_, fun found other => ?_,
      fun c w x found hop engaged engine staged => ?_, fun c r found hop engaged engine sending => ?_,
      fun found hop outside => ?_⟩
    · exact (applyReceipt_of_found found v from_).trans (if_neg other)
    · have t_eq : t = receiptStaged c h v s :=
        (applyReceipt_engaged found hop engaged v).trans (receiptEngaged_staged engine staged v from_)
      clear_value t
      subst t_eq
      obtain ⟨idle, sent, others⟩ := idleEngine_closeEntry c h .sent .confirmedLate s
      obtain ⟨idle', refused, others'⟩ := idleEngine_closeEntry c h .refused .noroute s
      cases v with
      | accept | duplicate => exact ⟨nofun, fun _ => ⟨idle, others, nofun, fun _ => sent⟩⟩
      | noroute => exact ⟨nofun, fun _ => ⟨idle', others', fun _ => refused, fun other => absurd rfl other⟩⟩
      | full => exact ⟨fun _ => rfl, fun other => absurd rfl other⟩
    · have t_eq : t = s.updChan c fun x => { x with engine := .sending h (recordVerdict r v) } :=
        (applyReceipt_engaged found hop engaged v).trans (receiptEngaged_sending engine sending v from_)
      refine ⟨fun unrecorded notFull => ?_, fun kept => ?_⟩
      · rw [t_eq, unrecorded, recordVerdict_first notFull]
        rfl
      · rw [t_eq, recordVerdict_kept kept, ← sending]
        exact s.updChan_self c _ rfl
    · have t_eq : t = receiptLate h v s := applyReceipt_late found hop outside v
      clear_value t
      subst t_eq
      refine ⟨fun late state => ?_, fun refused state => ?_, fun refused state => ?_, fun full => ?_,
        fun notReady notWaiting notFailed notCancelled => ?_⟩
      · rw [receiptLate_confirmed late state]
        exact closeEntry_late s h .sent .confirmedLate
      · rw [refused, receiptLate_refused state]
        exact closeEntry_late s h .refused .noroute
      · exact receiptLate_ignored (.inr (.inl ⟨refused, state⟩))
      · exact receiptLate_ignored (.inl full)
      · exact receiptLate_ignored (.inr (.inr ⟨notReady, notWaiting, notFailed, notCancelled⟩))

/-! ## The first free value of a count (R11, R13) -/

/-- A value moved on while it is held, for as many moves as the fuel allows: what the accession counter and the
own-serial choice have in common. -/
def firstFree {α : Type} (held : α → Bool) (next : α → α) : Nat → α → α
  | 0, a => a
  | n + 1, a => if held a then firstFree held next n (next a) else a

theorem skipHeldAccessions_eq (s : State) (n : Nat) (a : Quad) :
    skipHeldAccessions s n a = firstFree s.accessionHeld (· + 1) n a := by
  induction n generalizing a with
  | zero => rfl
  | succ n ih => simp only [skipHeldAccessions, firstFree, ih]

theorem freeSerial_eq (s : State) (call : Call) (n x : Nat) :
    freeSerial s call n x = firstFree (fun y => (s.findKey ⟨call, y⟩).isSome) serialAfter n x := by
  induction n generalizing x with
  | zero => rfl
  | succ n ih => simp only [freeSerial, firstFree, ih]

theorem repeat_next {α : Type} (next : α → α) (n : Nat) (a : α) :
    Nat.repeat next n (next a) = Nat.repeat next (n + 1) a := by
  induction n with
  | zero => rfl
  | succ n ih => exact congrArg next ih

/-- Where a free value lies within the fuel, the search ends at the first. -/
theorem firstFree_spec {α : Type} {held : α → Bool} {next : α → α} {n : Nat} {a : α}
    (free : ∃ j, j < n ∧ held (Nat.repeat next j a) = false) :
    ∃ m, m < n ∧ firstFree held next n a = Nat.repeat next m a ∧ (∀ j, j < m → held (Nat.repeat next j a) = true) ∧
      held (Nat.repeat next m a) = false := by
  induction n generalizing a with
  | zero =>
    obtain ⟨j, below, -⟩ := free
    exact absurd below (Nat.not_lt_zero j)
  | succ n ih =>
    obtain ⟨j, below, freeAt⟩ := free
    cases heldNow : held a with
    | false =>
      exact ⟨0, Nat.succ_pos n, by simp [firstFree, heldNow, Nat.repeat],
        fun i lt => absurd lt (Nat.not_lt_zero i), heldNow⟩
    | true =>
      have later : ∃ i, i < n ∧ held (Nat.repeat next i (next a)) = false := by
        cases j with
        | zero => exact absurd freeAt (by simp [Nat.repeat, heldNow])
        | succ i => exact ⟨i, by omega, repeat_next next i a ▸ freeAt⟩
      obtain ⟨m, lt, found, passed, freeHere⟩ := ih later
      refine ⟨m + 1, by omega, ?_, fun i lt' => ?_, repeat_next next m a ▸ freeHere⟩
      · rw [firstFree, if_pos heldNow, found, repeat_next]
      · cases i with
        | zero => exact heldNow
        | succ i => exact repeat_next next i a ▸ passed i (by omega)

/-- 256 distinct values, none of them held by one of the 256 entries, are not all held by the others. -/
theorem exists_unheld {α : Type} {holds : Handle → α → Prop} (functional : ∀ k a b, holds k a → holds k b → a = b)
    {value : Nat → α} (distinct : ∀ i j, i < 256 → j < 256 → value i = value j → i = j) {h : Handle}
    (apart : ∀ j, j < 256 → ¬ holds h (value j)) : ∃ j, j < 256 ∧ ∀ k, ¬ holds k (value j) := by
  by_contra all
  push Not at all
  choose holder heldBy using fun j : Handle => all j.val j.isLt
  have injective : Function.Injective holder := fun i j same =>
    Fin.ext (distinct _ _ i.isLt j.isLt (functional (holder i) _ _ (heldBy i) (same ▸ heldBy j)))
  obtain ⟨j, holder_eq⟩ := Finite.injective_iff_surjective.1 injective h
  exact apart j.val j.isLt (holder_eq ▸ heldBy j)

/-- 256 moves are enough to pass what the other 255 entries hold, so the search ends at the first value that none
holds. -/
theorem firstFree_of_others {α : Type} {holds : Handle → α → Prop} {held : α → Bool} {next : α → α} {a : α} {h : Handle}
    (held_iff : ∀ b, held b = true ↔ ∃ k, holds k b) (functional : ∀ k b c, holds k b → holds k c → b = c)
    (distinct : ∀ i j, i < 256 → j < 256 → Nat.repeat next i a = Nat.repeat next j a → i = j)
    (apart : ∀ j, j < 256 → ¬ holds h (Nat.repeat next j a)) :
    ∃ m, m < 256 ∧ firstFree held next 256 a = Nat.repeat next m a ∧
      (∀ j, j < m → ∃ k, k ≠ h ∧ holds k (Nat.repeat next j a)) ∧ ∀ k, ¬ holds k (Nat.repeat next m a) := by
  have free_iff (b : α) : held b = false ↔ ∀ k, ¬ holds k b := by
    rw [← Bool.not_eq_true, held_iff, not_exists]
  obtain ⟨j, below, unheld⟩ := exists_unheld functional distinct apart
  obtain ⟨m, lt, found, passed, freeHere⟩ := firstFree_spec ⟨j, below, (free_iff _).2 unheld⟩
  refine ⟨m, lt, found, fun i before => ?_, (free_iff _).1 freeHere⟩
  obtain ⟨k, holder⟩ := (held_iff _).1 (passed i before)
  exact ⟨k, fun own => apart i (by omega) (own ▸ holder), holder⟩

/-! ## Accessions and serials (R11, R13) -/

theorem State.mem_entries_iff {s : State} {e : Entry} : e ∈ s.entries ↔ ∃ h, s.entry h = e := by
  rw [Vector.mem_iff_getElem]
  exact ⟨fun ⟨i, lt, at_⟩ => ⟨⟨i, lt⟩, at_⟩, fun ⟨h, at_⟩ => ⟨h.val, h.isLt, at_⟩⟩

theorem State.accessionHeld_iff {s : State} {a : Quad} :
    s.accessionHeld a = true ↔ ∃ h, (s.entry h).state ≠ .free ∧ (s.entry h).accession = a := by
  rw [State.accessionHeld, List.any_eq_true]
  simp [State.mem_entries_iff]

theorem repeat_addOne (n : Nat) (a : Quad) : Nat.repeat (· + 1) n a = a + BitVec.ofNat 32 n := by
  induction n with
  | zero => simp [Nat.repeat]
  | succ n ih =>
    rw [Nat.repeat, ih, BitVec.ofNat_add, BitVec.add_assoc]
    rfl

/-- The serials that follow one from 1 to 9999, 9999 followed by 1 (R13). -/
theorem repeat_serialAfter {x : Nat} (low : 1 ≤ x) (high : x ≤ 9999) {j : Nat} (few : j ≤ 9998) :
    Nat.repeat serialAfter j x = if x + j ≤ 9999 then x + j else x + j - 9999 := by
  induction j with
  | zero => simp [Nat.repeat, high]
  | succ j ih =>
    rw [Nat.repeat, ih (by omega), serialAfter]
    split_ifs <;> omega

theorem repeat_serialAfter_of_gt {x : Nat} (high : 9999 < x) {j : Nat} (few : j ≤ 9998) :
    Nat.repeat serialAfter (j + 1) x = j + 1 := by
  have one : serialAfter x = 1 := if_pos (by omega)
  rw [← repeat_next, one, repeat_serialAfter (le_refl 1) (by omega) few, if_pos (by omega), Nat.add_comm]

theorem repeat_serialAfter_pos {x : Nat} (low : 1 ≤ x) (j : Nat) : 1 ≤ Nat.repeat serialAfter j x := by
  cases j with
  | zero => exact low
  | succ j =>
    rw [Nat.repeat, serialAfter]
    split <;> omega

/-- The first 256 serials counted from one are distinct (R13). -/
theorem repeat_serialAfter_distinct {x : Nat} (low : 1 ≤ x) (i j : Nat) (hi : i < 256) (hj : j < 256)
    (same : Nat.repeat serialAfter i x = Nat.repeat serialAfter j x) : i = j := by
  by_cases high : x ≤ 9999
  · rw [repeat_serialAfter low high (by omega), repeat_serialAfter low high (by omega)] at same
    split_ifs at same <;> omega
  · have at_ (i : Nat) (hi : i < 256) : Nat.repeat serialAfter i x = if i = 0 then x else i := by
      cases i with
      | zero => rfl
      | succ i => rw [repeat_serialAfter_of_gt (by omega) (by omega), if_neg (Nat.succ_ne_zero i)]
    rw [at_ i hi, at_ j hj] at same
    split_ifs at same <;> omega

/-! ## Allocation (R9 to R11, R17) -/

/-- The entry that allocation picks: the FREE one of lowest handle, else the SPENT one of lowest accession (R9). -/
def State.Picks (s : State) (h : Handle) : Prop :=
  (s.entry h).state = .free ∧ (∀ k, k < h → (s.entry k).state ≠ .free) ∨
    (∀ k, (s.entry k).state ≠ .free) ∧ (s.entry h).state = .spent ∧
      ∀ k, (s.entry k).state = .spent → (s.entry h).accession ≤ (s.entry k).accession

theorem State.oldestSpent_eq_some_iff {s : State} {a : Nat} : s.oldestSpent = some a ↔
    (∃ h, (s.entry h).state = .spent ∧ (s.entry h).accession.toNat = a) ∧
      ∀ k, (s.entry k).state = .spent → a ≤ (s.entry k).accession.toNat := by
  simp [State.oldestSpent, List.min?_eq_some_iff, State.mem_entries_iff]

theorem State.oldestSpent_eq_none_iff {s : State} : s.oldestSpent = none ↔ ∀ h, (s.entry h).state ≠ .spent := by
  simp [State.oldestSpent, List.min?_eq_none_iff, State.mem_entries_iff]

theorem State.findEntry_free_eq_none_iff {s : State} :
    s.findEntry (·.state = .free) = none ↔ ∀ h, (s.entry h).state ≠ .free := by
  simp [State.findEntry_none]

theorem State.chooseEntry_picks {s : State} {h : Handle} (chosen : s.chooseEntry = some h) : s.Picks h := by
  unfold State.chooseEntry at chosen
  split at chosen
  · next k found =>
    cases chosen
    left
    simpa [State.findEntry_eq_some_iff] using found
  · next noneFree =>
    obtain ⟨a, oldest, found⟩ := Option.bind_eq_some_iff.1 chosen
    obtain ⟨-, least⟩ := State.oldestSpent_eq_some_iff.1 oldest
    have spent : (s.entry h).state = .spent ∧ (s.entry h).accession.toNat = a := by
      simpa using (State.findEntry_some found).1
    exact .inr ⟨State.findEntry_free_eq_none_iff.1 noneFree, spent.1,
      fun k spentToo => BitVec.le_def.2 (spent.2 ▸ least k spentToo)⟩

/-- There is no entry to be had when every entry is neither FREE nor SPENT (R9). -/
theorem State.chooseEntry_eq_none_iff {s : State} :
    s.chooseEntry = none ↔ ∀ k, (s.entry k).state ≠ .free ∧ (s.entry k).state ≠ .spent := by
  rw [forall_and, ← State.findEntry_free_eq_none_iff, ← State.oldestSpent_eq_none_iff, State.chooseEntry]
  cases noneFree : s.findEntry (·.state = .free) with
  | some h => simp
  | none =>
    cases oldest : s.oldestSpent with
    | none => simp
    | some a =>
      obtain ⟨⟨h, spent, accession⟩, -⟩ := State.oldestSpent_eq_some_iff.1 oldest
      have found : s.findEntry (fun e => e.state = .spent && e.accession.toNat = a) ≠ none := fun notFound => by
        simpa [spent, accession] using State.findEntry_none.1 notFound h
      simpa using found

theorem State.allocate_eq_none_iff {s : State} {e : Entry} : s.allocate e = none ↔
    (∀ k, (s.entry k).state ≠ .free ∧ (s.entry k).state ≠ .spent) ∨ s.freeBlocks < blocksFor e.textLength := by
  rw [← State.chooseEntry_eq_none_iff, State.allocate]
  cases s.chooseEntry with
  | none => simp
  | some h => simp

theorem allocate_kept {s t : State} {e : Entry} {h : Handle} (a : s.allocate e = some (h, t)) :
    { t with entries := s.entries, freeEntries := s.freeEntries, freeBlocks := s.freeBlocks,
             accessionCounter := s.accessionCounter } = s :=
  congrArg (fun u : State => { u with freeEntries := s.freeEntries, freeBlocks := s.freeBlocks })
    (allocate_spec a).2.2.2

theorem allocate_freeEntries {s t : State} {e : Entry} {h : Handle} (a : s.allocate e = some (h, t)) :
    t.freeEntries = s.freeEntries - 1 := congrArg State.freeEntries (allocate_spec a).2.2.2

theorem allocate_freeBlocks {s t : State} {e : Entry} {h : Handle} (a : s.allocate e = some (h, t)) :
    t.freeBlocks = s.freeBlocks - blocksFor e.textLength := congrArg State.freeBlocks (allocate_spec a).2.2.2

theorem allocate_chan {s t : State} {e : Entry} {h : Handle} (a : s.allocate e = some (h, t)) (c : Chan) :
    t.chan c = s.chan c := by
  have channels : t.channels = s.channels := (congrArg State.channels (allocate_kept a) :)
  rw [State.chan, channels, State.chan]

theorem allocate_counter {s t : State} {e : Entry} {h : Handle} (a : s.allocate e = some (h, t)) :
    t.accessionCounter = skipHeldAccessions
      (s.setEntry h { e with accession := s.accessionCounter, blockCount := blocksFor e.textLength }) 256
      (s.accessionCounter + 1) := by
  unfold State.allocate at a
  dsimp only at a
  split at a
  · cases a
  · split at a
    · cases a
      rfl
    · cases a

/-- The accession counter moves on to the next value that no other entry holds, at most 256 on (R11). -/
theorem allocate_accessionCounter {s t : State} {e : Entry} {h : Handle} (a : s.allocate e = some (h, t)) :
    ∃ n : Nat, 1 ≤ n ∧ n ≤ 256 ∧ t.accessionCounter = s.accessionCounter + BitVec.ofNat 32 n ∧
      (∀ m, 1 ≤ m → m < n → ∃ k, k ≠ h ∧ (s.entry k).state ≠ .free ∧
        (s.entry k).accession = s.accessionCounter + BitVec.ofNat 32 m) ∧
      ∀ k, k ≠ h → (s.entry k).state ≠ .free → (s.entry k).accession ≠ t.accessionCounter := by
  let s1 := s.setEntry h { e with accession := s.accessionCounter, blockCount := blocksFor e.textLength }
  have own : (s1.entry h).accession = s.accessionCounter := by simp [s1]
  have others (k : Handle) (other : k ≠ h) : s1.entry k = s.entry k := by simp [s1, Ne.symm other]
  have value (j : Nat) :
      Nat.repeat (· + 1) j (s.accessionCounter + 1) = s.accessionCounter + BitVec.ofNat 32 (j + 1) := by
    rw [repeat_next (· + 1), repeat_addOne]
  have distinct (i j : Nat) (hi : i ≤ 256) (hj : j ≤ 256)
      (same : s.accessionCounter + BitVec.ofNat 32 i = s.accessionCounter + BitVec.ofNat 32 j) : i = j := by
    have values := congrArg BitVec.toNat (add_left_cancel same)
    simp at values
    omega
  obtain ⟨m, lt, found, passed, free⟩ := firstFree_of_others (held := s1.accessionHeld) (h := h)
    (next := (· + 1)) (a := s.accessionCounter + 1)
    (holds := fun k b => (s1.entry k).state ≠ .free ∧ (s1.entry k).accession = b) (fun _ => State.accessionHeld_iff)
    (fun k b c hb hc => hb.2.symm.trans hc.2)
    (fun i j hi hj same => by
      rw [value, value] at same
      simpa using distinct _ _ (by omega) (by omega) same)
    (fun j hj ⟨_, same⟩ => by
      rw [own, value] at same
      exact absurd (distinct 0 (j + 1) (by omega) (by omega) (by simpa using same)) (by omega))
  have counter : t.accessionCounter = s.accessionCounter + BitVec.ofNat 32 (m + 1) := by
    rw [allocate_counter a, skipHeldAccessions_eq, found, value]
  refine ⟨m + 1, by omega, by omega, counter, fun i low high => ?_, fun k other used same => ?_⟩
  · obtain ⟨k, other, holder⟩ := passed (i - 1) (by omega)
    rw [value, Nat.sub_add_cancel low, others k other] at holder
    exact ⟨k, other, holder⟩
  · apply free k
    rw [value, others k other]
    exact ⟨used, same.trans counter⟩

/-! ## What routes read (R27, R61, R62) -/

/-- Two states in which routing finds the same: the directory, the own-station record, and which channels are enabled
and which JAMMED. -/
structure State.RoutesAlike (s t : State) : Prop where
  stations : t.stations = s.stations
  own : t.own = s.own
  gates : ∀ c, (t.chan c).enabled = (s.chan c).enabled ∧ (t.chan c).jammed = (s.chan c).jammed

theorem State.RoutesAlike.resolve {s t : State} (h : s.RoutesAlike t) : t.resolve = s.resolve := by
  have station : t.station = s.station := funext fun i => by rw [State.station, h.stations, State.station]
  have self : t.selfUsable = s.selfUsable := funext fun st => by
    simp only [State.selfUsable, (h.gates st.channel).1, (h.gates st.channel).2]
  have usable : t.usable = s.usable := funext fun st => by simp only [State.usable, self, station]
  have via : t.hopVia = s.hopVia := funext fun i => by simp only [State.hopVia, usable, station]
  have candidate : t.candidate = s.candidate := funext fun d => by
    simp only [State.candidate, State.findStation, h.stations, h.own]
  funext d
  simp only [State.resolve, candidate, via, station, h.own]

/-- The loop test is for RELAY entries alone (R27). -/
theorem State.route_originated {s : State} {e : Entry} (role : e.role = .originated) :
    s.route e = s.resolve e.destination := by
  simp only [State.route, State.loops, role]
  cases s.resolve e.destination <;> rfl

/-! ## FILE stores its message (R13, R29) -/

theorem testCongestion_entry (s : State) (h : Handle) : (testCongestion s).entry h = s.entry h := by
  have entries : (testCongestion s).entries = s.entries :=
    (congrArg State.entries (State.Tested.testCongestion s).rest :)
  rw [State.entry, entries, State.entry]

theorem testCongestion_own (s : State) : (testCongestion s).own = s.own :=
  (congrArg State.own (State.Tested.testCongestion s).rest :)

/-- The part after FILE has given its new entry a serial and placed it, before the answer and the considerations
(R29). -/
def State.filed (s : State) (h : Handle) : State := (giveSerial h (testCongestion s)).place h

theorem fileMessage_stored {s s1 : State} {p : Fin 8} {d : Call} {body : List Byte} {h : Handle}
    (a : s.allocate (s.filedEntry p d body) = some (h, s1)) : fileMessage p d body s =
      considerAll ((s1.filed h).answer .done
        ([be8 h.val] ++ be16 ((s1.filed h).entry h).key.serial ++ [optByte ((s1.filed h).placedOn h)])) := by
  simp only [fileMessage, a]
  rfl

/-- Storing a message touches, past its entry, the serial counter, the collections and what a test of congestion may. -/
theorem State.filed_rest (s : State) (h : Handle) :
    { s.filed h with entries := s.entries, ownSerial := s.ownSerial, unrouted := s.unrouted, channels := s.channels,
                     congestion := s.congestion, congestionChanged := s.congestionChanged } = s := by
  have placed := (State.Moved.place (giveSerial h (testCongestion s)) h).rest
  have given := (giveSerial_spec h (testCongestion s)).1
  have tested := (State.Tested.testCongestion s).rest
  rw [← State.filed] at placed
  generalize s.filed h = u at placed ⊢
  generalize giveSerial h (testCongestion s) = v at placed given
  generalize testCongestion s = t at given tested
  obtain ⟨⟩ := s; obtain ⟨⟩ := t; obtain ⟨⟩ := u; obtain ⟨⟩ := v
  simp_all

/-- What FILE leaves of the part's tables after an allocation is what the allocation left (R28, R29). -/
theorem State.filed_kept {s s1 : State} {e : Entry} {h : Handle} (a : s.allocate e = some (h, s1)) :
    { s1.filed h with entries := s.entries, ownSerial := s.ownSerial, unrouted := s.unrouted, channels := s.channels,
                      congestion := s.congestion, congestionChanged := s.congestionChanged,
                      freeEntries := s.freeEntries, freeBlocks := s.freeBlocks,
                      accessionCounter := s.accessionCounter } = s := by
  have stored := s1.filed_rest h
  have kept := allocate_kept a
  generalize s1.filed h = u at stored ⊢
  clear a
  obtain ⟨⟩ := s; obtain ⟨⟩ := s1; obtain ⟨⟩ := u
  simp_all

section
variable {s s1 : State} {p : Fin 8} {d : Call} {body : List Byte} {h : Handle}

/-- A channel after the message is stored: the test of congestion's, its queue apart. -/
theorem State.filed_chan {e : Entry} (a : s.allocate e = some (h, s1)) (c : Chan) :
    { (s1.filed h).chan c with queue := (s.chan c).queue } = (testCongestion s1).chan c := by
  have placed := (State.SameButPlacing.place h (giveSerial h (testCongestion s1))).2.1 c
  have tested : ((testCongestion s1).chan c).queue = (s1.chan c).queue :=
    (congrArg Channel.queue ((State.Tested.testCongestion s1).chan c) :)
  rw [allocate_chan a] at tested
  rw [← tested]
  exact placed

theorem without_insertInOrder_eq (b : Handle → Handle → Bool) (h : Handle) (q : List Handle) :
    without h (insertInOrder b h q) = without h q := by
  induction q with
  | nil => simp [insertInOrder, without]
  | cons x q ih =>
    unfold without at ih ⊢
    rw [insertInOrder]
    split
    · simp
    · simp only [List.filter_cons, ih]

theorem State.without_collection_place (s : State) (h : Handle) (q : Collection) :
    without h ((s.place h).collection q) = without h (s.collection q) := by
  rw [State.place, State.join, State.collection_setCollection]
  split
  · next e =>
    subst e
    rw [without_insertInOrder_eq, State.collection_updEntry]
  · rw [State.collection_updEntry]

/-- The collections hold what they held beside the new entry, in their order (R69). -/
theorem State.filed_collection {e : Entry} (a : s.allocate e = some (h, s1)) (q : Collection) :
    without h ((s1.filed h).collection q) = without h (s.collection q) := by
  have given : (giveSerial h (testCongestion s1)).collection q = (testCongestion s1).collection q := by cases q <;> rfl
  have tested : (testCongestion s1).collection q = s1.collection q := by
    cases q with
    | unrouted => exact (congrArg State.unrouted (State.Tested.testCongestion s1).rest :)
    | queue c => exact (congrArg Channel.queue ((State.Tested.testCongestion s1).chan c) :)
  have kept : s1.collection q = s.collection q := by
    cases q with
    | unrouted => exact (congrArg State.unrouted (allocate_kept a) :)
    | queue c => exact congrArg Channel.queue (allocate_chan a c)
  rw [State.filed, State.without_collection_place, given, tested, kept]

theorem State.filed_others {e : Entry} (a : s.allocate e = some (h, s1)) {k : Handle} (other : k ≠ h) :
    (s1.filed h).entry k = s.entry k := by
  rw [State.filed, (State.Only.place h _ k other).1, (giveSerial_spec h _).2 k, if_neg (Ne.symm other),
    testCongestion_entry, allocate_entry a, if_neg (Ne.symm other)]

theorem giveSerial_routesAlike {e : Entry} (a : s.allocate e = some (h, s1)) :
    s.RoutesAlike (giveSerial h (testCongestion s1)) := by
  refine ⟨?_, ?_, fun c => ?_⟩
  · exact (congrArg State.stations (State.Tested.testCongestion s1).rest :).trans
      (congrArg State.stations (allocate_kept a) :)
  · exact (testCongestion_own s1).trans (congrArg State.own (allocate_kept a) :)
  · have tested := (State.Tested.testCongestion s1).chan c
    rw [← allocate_chan a c]
    exact ⟨(congrArg Channel.enabled tested :), (congrArg Channel.jammed tested :)⟩

/-- FILE counts its serials from the counter as it found it, under the own call as it found it (R13). -/
theorem given_serial {e : Entry} (a : s.allocate e = some (h, s1)) :
    (⟨(testCongestion s1).own.call, freeSerial (testCongestion s1) (testCongestion s1).own.call 256
        (testCongestion s1).ownSerial⟩ : Key) =
      ⟨s.own.call, freeSerial (testCongestion s1) s.own.call 256 s.ownSerial⟩ := by
  have own : (testCongestion s1).own = s.own := (giveSerial_routesAlike a).own
  have serial : (testCongestion s1).ownSerial = s.ownSerial :=
    (congrArg State.ownSerial (State.Tested.testCongestion s1).rest :).trans
      (congrArg State.ownSerial (allocate_kept a) :)
  rw [own, serial]

/-- The entry that FILE stores: as it was filed, with its accession, its blocks, its key and its route (R29). -/
theorem State.filed_entry (a : s.allocate (s.filedEntry p d body) = some (h, s1)) : (s1.filed h).entry h =
    { s.filedEntry p d body with
      accession := s.accessionCounter
      blockCount := blocksFor body.length
      key := ⟨s.own.call, freeSerial (testCongestion s1) s.own.call 256 s.ownSerial⟩
      nextHop := s.resolve d } := by
  have alike := giveSerial_routesAlike a
  have given := (giveSerial_spec h (testCongestion s1)).2 h
  rw [if_pos rfl, testCongestion_entry, allocate_entry a, if_pos rfl, given_serial a] at given
  rw [State.filed, State.place_entry, given, State.route_originated rfl, alike.resolve]
  rfl

theorem State.findKey_isSome_iff {s : State} {key : Key} :
    (s.findKey key).isSome = true ↔ ∃ k, (s.entry k).state ≠ .free ∧ (s.entry k).key = key := by
  rw [Option.isSome_iff_ne_none, ne_eq, State.findKey_eq_none_iff]
  simp [not_or]

/-- The serial that FILE gives is the first whose key no other entry holds (R13). -/
theorem filed_serial (a : s.allocate (s.filedEntry p d body) = some (h, s1)) (low : 1 ≤ s.ownSerial) :
    let serial := freeSerial (testCongestion s1) s.own.call 256 s.ownSerial
    ∃ n : Nat, n < 256 ∧ serial = Nat.repeat serialAfter n s.ownSerial ∧
      (∀ m, m < n → ∃ k, k ≠ h ∧ (s.entry k).state ≠ .free ∧
        (s.entry k).key = ⟨s.own.call, Nat.repeat serialAfter m s.ownSerial⟩) ∧
      ∀ k, k ≠ h → (s.entry k).state = .free ∨ (s.entry k).key ≠ ⟨s.own.call, serial⟩ := by
  intro serial
  let t := testCongestion s1
  have own : (t.entry h).key = ⟨s.own.call, 0⟩ := by
    rw [testCongestion_entry, allocate_entry a, if_pos rfl]
    rfl
  have others (k : Handle) (other : k ≠ h) : t.entry k = s.entry k := by
    rw [testCongestion_entry, allocate_entry a, if_neg (Ne.symm other)]
  have notOwn (j : Nat) : (t.entry h).key ≠ ⟨s.own.call, Nat.repeat serialAfter j s.ownSerial⟩ := fun same => by
    have zero : 0 = Nat.repeat serialAfter j s.ownSerial := congrArg Key.serial (own.symm.trans same)
    have := repeat_serialAfter_pos low j
    omega
  obtain ⟨n, lt, found, passed, free⟩ := firstFree_of_others (h := h)
    (holds := fun k y => (t.entry k).state ≠ .free ∧ (t.entry k).key = ⟨s.own.call, y⟩)
    (fun _ => State.findKey_isSome_iff)
    (fun k y z hy hz => congrArg Key.serial (hy.2.symm.trans hz.2)) (repeat_serialAfter_distinct low)
    (fun j _ ⟨_, same⟩ => notOwn j same)
  have serial_eq : serial = Nat.repeat serialAfter n s.ownSerial := (freeSerial_eq ..).trans found
  refine ⟨n, lt, serial_eq, fun m before => ?_, fun k other => ?_⟩
  · obtain ⟨k, other, holder⟩ := passed m before
    rw [others k other] at holder
    exact ⟨k, other, holder⟩
  · rw [serial_eq, ← others k other]
    exact not_and_or.1 (free k) |>.imp not_not.1 id

end

/-- A request that finds no abort pause ends with its arbiters (R149, R175). -/
theorem takeRequest_of_no_pause {effect : State → State} {s : State} (noPause : ∀ c, (s.chan c).abortPause = false) :
    takeRequest effect s = arbitrateAll (effect s) := by
  rw [takeRequest, forChans_self fun c => by simp [endPause, noPause c]]

theorem allocate_stores {s s1 : State} {e : Entry} {h : Handle} (a : s.allocate e = some (h, s1)) :
    s1.entry h = { e with accession := s.accessionCounter, blockCount := blocksFor e.textLength } ∧
      ∀ k, k ≠ h → s1.entry k = s.entry k :=
  ⟨by rw [allocate_entry a, if_pos rfl], fun k other => by rw [allocate_entry a, if_neg (Ne.symm other)]⟩

/-- Settles O1: FILE is an allocation, a test of congestion, the choice of a serial and the placing of the entry, each
of which says what it leaves. -/
theorem fileStoresMessage : Obligations.FileStoresMessage := by
  refine ⟨fun s s1 b f body p d h prec call other short chars ownCall a => ?_, fun s e => State.allocate_eq_none_iff,
    fun s s1 e h a => ?_⟩
  · have effect_eq : file b f body s = _ :=
      ((file_of_passing prec call other short chars).trans (if_neg ownCall)).trans (fileMessage_stored a)
    obtain ⟨_, taken, turned⟩ := exec_turned (i := .file b f body) rfl effect_eq (.considerAll _)
    cases taken
    have entry := State.filed_entry a
    have kept := State.filed_kept a
    have stored := s1.filed_rest h
    have placed := State.SameButPlacing.place h (giveSerial h (testCongestion s1))
    refine ⟨_, _, rfl, turned, fun noPause => (takeRequest_of_no_pause noPause).trans (congrArg arbitrateAll effect_eq),
      ?_⟩
    rw [State.answer_entry, entry]
    refine ⟨rfl, rfl, rfl, rfl, rfl, rfl, rfl, rfl, rfl, rfl, rfl, rfl, rfl, rfl, rfl, ?_, ?_, rfl,
      (congrArg State.freeEntries stored :).trans (allocate_freeEntries a),
      (congrArg State.freeBlocks stored :).trans (allocate_freeBlocks a),
      fun k other => State.filed_others a other, (congrArg State.stations kept :), (congrArg State.own kept :),
      (congrArg State.classes kept :), (congrArg State.time kept :), (congrArg State.reachChanged kept :),
      (congrArg State.congestion placed.1 :), (congrArg State.congestionChanged placed.1 :),
      State.filed_chan a, State.filed_collection a, State.chooseEntry_picks (allocate_spec a).1, ?_, filed_serial a⟩
    · exact (congrArg State.ownSerial placed.1 :).trans
        (congrArg (fun k : Key => serialAfter k.serial) (given_serial a))
    · have hop : (giveSerial h (testCongestion s1)).route ((giveSerial h (testCongestion s1)).entry h) = s.resolve d :=
        congrArg Entry.nextHop ((State.place_entry _ h).symm.trans entry)
      exact hop ▸ State.mem_collection_place (giveSerial h (testCongestion s1)) h
    · have counter : (s1.filed h).accessionCounter = s1.accessionCounter := (congrArg State.accessionCounter stored :)
      exact counter ▸ allocate_accessionCounter a
  · obtain ⟨stored, others⟩ := allocate_stores a
    exact ⟨State.chooseEntry_picks (allocate_spec a).1, stored, others, allocate_freeEntries a, allocate_freeBlocks a,
      allocate_kept a⟩

end Sys2Proof.Machine
end

/-! # The Station Directory's requests: SET STATION refused and FORCE STATION (R55, R58)

SET STATION refuses its parameters when one of a chain of parsers finds no value; each parser is told once by what it answers
and by when it answers nothing, and `State.parseStation_eq_none_iff` puts them together. FORCE STATION is `onStation` once
its mark is known. -/

section
namespace Sys2Proof.Machine

/-! ## Indices, channels and marks -/

theorem parseIndex_eq_some_iff {b : Byte} {i : Index} : parseIndex b = some i ↔ b.toNat = i.val := by
  rw [parseIndex]
  split
  · rw [Option.some_inj, Fin.ext_iff]
  · next outside =>
    have := i.isLt
    simp only [reduceCtorEq, false_iff]
    omega

theorem parseIndex_eq_none_iff {b : Byte} : parseIndex b = none ↔ 64 ≤ b.toNat := by simp [parseIndex]

theorem parseChannel_eq_some_iff {b : Byte} {c : Chan} : parseChannel b = some c ↔ b.toNat = c.val := by
  refine ⟨fun h => ?_, parseChannel_eq_some⟩
  rw [parseChannel] at h
  split at h
  · exact Fin.ext_iff.1 (Option.some_inj.1 h)
  · cases h

theorem parseChannel_eq_none_iff {b : Byte} : parseChannel b = none ↔ 4 ≤ b.toNat := by simp [parseChannel]

theorem parseMark_eq_some_iff {b : Byte} {v : Bool} : parseMark b = some v ↔ b.toNat = v.toNat := by
  refine ⟨fun h => ?_, fun h => ?_⟩
  · unfold parseMark at h
    split at h <;> cases h <;> rfl
  · cases v
    · rw [BitVec.eq_of_toNat_eq (y := 0) h]
      rfl
    · rw [BitVec.eq_of_toNat_eq (y := 1) h]
      rfl

theorem parseMark_eq_none_iff {b : Byte} : parseMark b = none ↔ 2 ≤ b.toNat := by
  rw [Option.eq_none_iff_forall_ne_some]
  simp only [ne_eq, parseMark_eq_some_iff, Bool.forall_bool, Bool.toNat_false, Bool.toNat_true]
  omega

/-! ## Requests on a directory index (R57 to R59) -/

theorem onStation_outside {b : Byte} {s : State} (f : Index → Station → State → State) (outside : 64 ≤ b.toNat) :
    onStation b f s = s.answer .badValue [] := by
  simp only [onStation, parseIndex_eq_none_iff.2 outside]

theorem onStation_empty {b : Byte} {i : Index} {s : State} (f : Index → Station → State → State)
    (index : b.toNat = i.val) (empty : s.station i = none) : onStation b f s = s.answer .noEntry [] := by
  simp only [onStation, parseIndex_eq_some_iff.2 index, empty]

theorem onStation_occupied {b : Byte} {i : Index} {st : Station} {s : State} (f : Index → Station → State → State)
    (index : b.toNat = i.val) (occupied : s.station i = some st) : onStation b f s = f i st s := by
  simp only [onStation, parseIndex_eq_some_iff.2 index, occupied]

/-! ## FORCE STATION (R58) -/

theorem exec_forceStation_of_mark {b m : Byte} {v : Bool} {s : State} (mark : m.toNat = v.toNat) :
    exec (.forceStation b m) s = .next (takeRequest (onStation b (forceStation v)) s) := by
  have parsed : parseMark m = some v := parseMark_eq_some_iff.2 mark
  simp only [exec, execForceStation, takeRequest, parsed]

theorem exec_forceStation_badMark {b m : Byte} {s : State} (bad : 2 ≤ m.toNat) :
    exec (.forceStation b m) s = .next (takeRequest (fun s => s.answer .badValue []) s) := by
  have parsed : parseMark m = none := parseMark_eq_none_iff.2 bad
  simp only [exec, execForceStation, takeRequest, parsed]

theorem forceStation_changes {v : Bool} {i : Index} {st : Station} {s : State} (occupied : s.station i = some st)
    (differs : st.forcedUnheard ≠ v) : forceStation v i st s =
      considerAll ((sweep (s.setStation i (some { st with forcedUnheard := v }))).answer .done []) := by
  rw [forceStation, if_neg differs, State.updStation, occupied]
  rfl

theorem exists_mark_of_lt {m : Byte} (low : m.toNat < 2) : ∃ v : Bool, m.toNat = v.toNat := by
  cases parsed : parseMark m with
  | some v => exact ⟨v, parseMark_eq_some_iff.1 parsed⟩
  | none => exact absurd (parseMark_eq_none_iff.1 parsed) (not_le.2 low)

/-- Settles O14: the mark is parsed first, and FORCE STATION is then a branch of `onStation`. -/
theorem forceStationMarks : Obligations.ForceStationMarks := by
  refine fun s b m => ⟨fun i st v index occupied mark => ⟨fun same => ?_, fun differs => ?_⟩, fun bad => ?_,
    fun i index low empty => ?_⟩
  · exact exec_answers (exec_forceStation_of_mark mark) ((onStation_occupied _ index occupied).trans (if_pos same))
  · exact exec_turned (exec_forceStation_of_mark mark)
      ((onStation_occupied _ index occupied).trans (forceStation_changes occupied differs)) (.considerAll _)
  · rcases le_or_gt 2 m.toNat with badMark | low
    · exact exec_answers (exec_forceStation_badMark badMark) rfl
    · obtain ⟨v, mark⟩ := exists_mark_of_lt low
      have outside : 64 ≤ b.toNat := bad.resolve_right (not_le.2 low)
      exact exec_answers (exec_forceStation_of_mark mark) (onStation_outside _ outside)
  · obtain ⟨v, mark⟩ := exists_mark_of_lt low
    exact exec_answers (exec_forceStation_of_mark mark) (onStation_empty _ index empty)

/-! ## Searches of the directory (R52, R55) -/

theorem holdsCall_iff {call : Call} {r : Option Station} :
    holdsCall call r = true ↔ ∃ st, r = some st ∧ st.call = call := by
  simp [holdsCall, Option.any_eq_true]

theorem State.findStation_eq_none_iff {s : State} {call : Call} :
    s.findStation call = none ↔ ∀ j st, s.station j = some st → st.call ≠ call := by
  simp only [State.findStation, findPlace_none, ← Bool.not_eq_true, holdsCall_iff, not_exists, not_and]
  rfl

theorem State.findStation_holds {s : State} {call : Call} {j : Index} (found : s.findStation call = some j) :
    ∃ st, s.station j = some st ∧ st.call = call := holdsCall_iff.1 (findPlace_some found).1

/-- The search for a call passes over the index being written (Table 3-3). -/
theorem State.callTaken_iff {s : State} {i : Index} {call : Call} :
    s.callTaken i call = true ↔ ∃ j st, s.station j = some st ∧ st.call = call ∧ j ≠ i := by
  have apart : (s.setStation i none).findStation call = none ↔
      ∀ j st, s.station j = some st → st.call = call → j = i := by
    simp only [State.findStation_eq_none_iff, State.station_setStation]
    refine forall₂_congr fun j st => ?_
    by_cases same : i = j
    · simp [same]
    · simp [same, Ne.symm same]
  unfold State.callTaken
  split
  · next j found =>
    obtain ⟨st, held, call_eq⟩ := State.findStation_holds found
    by_cases same : j = i
    · simp [same, apart]
    · simp only [ne_eq, same, not_false_eq_true, decide_true, Bool.true_or, true_iff]
      exact ⟨j, st, held, call_eq, same⟩
  · next found =>
    have unheld := State.findStation_eq_none_iff.1 found
    simp only [Bool.false_eq_true, false_iff]
    exact fun ⟨j, st, held, call_eq, _⟩ => unheld j st held call_eq

theorem State.isRelay_iff {s : State} {i : Index} :
    s.isRelay i = true ↔ ∃ j st, s.station j = some st ∧ st.kind = .via i := by
  simp only [State.isRelay, List.any_eq_true, Vector.mem_toList_iff, relaysThrough, Option.any_eq_true, decide_eq_true_eq,
    Vector.mem_iff_getElem, State.station]
  exact ⟨fun ⟨_, ⟨k, hk, read⟩, st, held, kind⟩ => ⟨⟨k, hk⟩, st, read.trans held, kind⟩,
    fun ⟨j, st, held, kind⟩ => ⟨_, ⟨j.val, j.isLt, held⟩, st, rfl, kind⟩⟩

/-! ## The checks of SET STATION (R55, Table 3-3) -/

/-- The call of SET STATION is the own call or that of another index's record (Table 3-3). -/
def State.CallInUse (s : State) (p : StationBlock) : Prop :=
  ∃ c, parseCall p.call.toList = some c ∧
    (c = s.own.call ∨ ∃ j st, s.station j = some st ∧ st.call = c ∧ j.val ≠ p.index.toNat)

/-- The relay of a VIA record is out of range, the index being written, or not a DIRECT record (Table 3-3). -/
def State.BadRelay (s : State) (p : StationBlock) : Prop :=
  p.kind = 1 ∧ (64 ≤ p.relay.toNat ∨ p.relay = p.index ∨
    ∀ r : Index, p.relay.toNat = r.val → (s.station r).any (·.kind = .direct) = false)

/-- The fallback given is out of range, the index being written, or empty (Table 3-3). -/
def State.BadFallback (s : State) (p : StationBlock) : Prop :=
  p.fallback ≠ 0xFF ∧ (64 ≤ p.fallback.toNat ∨ p.fallback = p.index ∨
    ∀ r : Index, p.fallback.toNat = r.val → s.station r = none)

/-- The parameters of SET STATION fail a check of Table 3-3 other than the last. -/
def State.BadStation (s : State) (p : StationBlock) : Prop :=
  64 ≤ p.index.toNat ∨ parseCall p.call.toList = none ∨ s.CallInUse p ∨ 4 ≤ p.channel.toNat ∨
    2 ≤ p.netControl.toNat ∨ 2 ≤ p.kind.toNat ∨ s.BadRelay p ∨ s.BadFallback p

section
variable {s : State} {p : StationBlock} {i : Index}

theorem State.callInUse_iff {c : Call} (index : p.index.toNat = i.val) (call : parseCall p.call.toList = some c) :
    s.CallInUse p ↔ c = s.own.call ∨ s.callTaken i c = true := by
  simp [State.CallInUse, State.callTaken_iff, call, index, Fin.ext_iff]

theorem eq_index_iff {b : Byte} {r : Index} (index : p.index.toNat = i.val) (named : b.toNat = r.val) :
    b = p.index ↔ r = i := by
  rw [← BitVec.toNat_inj, named, index, Fin.ext_iff]

/-- A relay or a fallback is refused when it is out of range, the index being written, or a record that will not do. -/
theorem checkedIndex_eq_none_iff {α : Type} {b : Byte} {good : Index → Bool} (f : Index → α)
    (index : p.index.toNat = i.val) :
    ((parseIndex b).bind fun r => if r ≠ i ∧ good r = true then some (f r) else none) = none ↔
      64 ≤ b.toNat ∨ b = p.index ∨ ∀ r : Index, b.toNat = r.val → good r = false := by
  cases parsed : parseIndex b with
  | none => simp [parseIndex_eq_none_iff.1 parsed]
  | some r =>
    have named := parseIndex_eq_some_iff.1 parsed
    have inRange : ¬ 64 ≤ b.toNat := not_le.2 (named ▸ r.isLt)
    have only : (∀ q : Index, b.toNat = q.val → good q = false) ↔ good r = false := by simp [named, Fin.val_inj]
    rw [eq_index_iff index named, only, or_iff_right inRange]
    by_cases same : r = i
    · simp [same]
    · simp [same]

theorem State.kindOf_eq_none_iff (index : p.index.toNat = i.val) :
    s.kindOf i p.kind p.relay = none ↔ 2 ≤ p.kind.toNat ∨ s.BadRelay p := by
  unfold State.kindOf State.BadRelay
  split
  · next parsed => simp [parseMark_eq_none_iff.1 parsed]
  · next parsed =>
    have direct : p.kind = 0 := BitVec.eq_of_toNat_eq (parseMark_eq_some_iff.1 parsed)
    simp [direct]
  · next parsed =>
    have via : p.kind = 1 := BitVec.eq_of_toNat_eq (parseMark_eq_some_iff.1 parsed)
    rw [checkedIndex_eq_none_iff _ index]
    simp [via]

theorem State.fallbackOf_eq_none_iff (index : p.index.toNat = i.val) :
    s.fallbackOf i p.fallback = none ↔ s.BadFallback p := by
  unfold State.fallbackOf State.BadFallback
  split
  · next absent => simp [absent]
  · next given =>
    rw [checkedIndex_eq_none_iff _ index, and_iff_right given]
    simp only [Option.isSome_eq_false_iff, Option.isNone_iff_eq_none]

/-- SET STATION's parameters give no record exactly when one of the first checks fails (R55). -/
theorem State.parseStation_eq_none_iff : s.parseStation p = none ↔ s.BadStation p := by
  unfold State.parseStation State.BadStation portCall
  cases parsedIndex : parseIndex p.index with
  | none => simp [parseIndex_eq_none_iff.1 parsedIndex]
  | some i =>
    have index := parseIndex_eq_some_iff.1 parsedIndex
    have inRange : ¬ 64 ≤ p.index.toNat := not_le.2 (index ▸ i.isLt)
    cases call : parseCall p.call.toList with
    | none => simp
    | some c =>
      rw [State.callInUse_iff index call, ← parseChannel_eq_none_iff, ← parseMark_eq_none_iff (b := p.netControl),
        ← or_assoc (a := 2 ≤ p.kind.toNat), ← State.kindOf_eq_none_iff index, ← State.fallbackOf_eq_none_iff index]
      simp only [Option.bind_some]
      by_cases inUse : c = s.own.call ∨ s.callTaken i c = true
      · simp [inUse]
      · cases parseChannel p.channel with
        | none => simp [inUse]
        | some channel => cases parseMark p.netControl with
          | none => simp [inUse]
          | some net => cases s.kindOf i p.kind p.relay <;> simp [inUse, inRange]

/-- The record that SET STATION's parameters give, and the parsers that gave it. -/
theorem State.parseStation_eq_some {n : Station} (parsed : s.parseStation p = some (i, n)) :
    ∃ call channel net kind fallback, p.index.toNat = i.val ∧ parseCall p.call.toList = some call ∧
      p.channel.toNat = channel.val ∧ p.netControl.toNat = net.toNat ∧ s.kindOf i p.kind p.relay = some kind ∧
      s.fallbackOf i p.fallback = some fallback ∧
      n = newStation call channel kind fallback net (min 3600 p.interval.toNat) (clampSeven p.sensitivity) := by
  simp only [State.parseStation, Option.bind_eq_some_iff, Option.ite_none_left_eq_some, Option.map_eq_some_iff,
    parseIndex_eq_some_iff, parseChannel_eq_some_iff, parseMark_eq_some_iff] at parsed
  obtain ⟨_, index, call, call_eq, _, channel, channel_eq, net, net_eq, kind, kind_eq, fallback, fallback_eq, record⟩ :=
    parsed
  cases record
  exact ⟨call, channel, net, kind, fallback, index, call_eq, channel_eq, net_eq, kind_eq, fallback_eq, rfl⟩

theorem State.kindOf_direct {relay : Byte} : s.kindOf i 0 relay = some .direct := rfl

theorem State.kindOf_via {relay : Byte} {k : Kind} (given : s.kindOf i 1 relay = some k) :
    ∃ r, k = .via r ∧ r.val = relay.toNat := by
  obtain ⟨r, named, accepted⟩ := Option.bind_eq_some_iff.1 given
  obtain ⟨-, kind⟩ := Option.ite_none_right_eq_some.1 accepted
  exact ⟨r, (Option.some_inj.1 kind).symm, (parseIndex_eq_some_iff.1 named).symm⟩

theorem State.fallbackOf_absent : s.fallbackOf i 0xFF = some none := rfl

theorem State.fallbackOf_given {b : Byte} {f : Option Index} (present : b ≠ 0xFF) (given : s.fallbackOf i b = some f) :
    ∃ j, f = some j ∧ j.val = b.toNat := by
  rw [State.fallbackOf, if_neg present] at given
  obtain ⟨j, named, accepted⟩ := Option.bind_eq_some_iff.1 given
  obtain ⟨-, fallback⟩ := Option.ite_none_right_eq_some.1 accepted
  exact ⟨j, (Option.some_inj.1 fallback).symm, (parseIndex_eq_some_iff.1 named).symm⟩

theorem setStation_badValue (bad : s.BadStation p) : setStation p s = s.answer .badValue [] := by
  simp only [setStation, State.parseStation_eq_none_iff.2 bad]

theorem setStation_inUse {n : Station} (parsed : s.parseStation p = some (i, n)) (via : n.kind ≠ .direct)
    (relay : s.isRelay i = true) : setStation p s = s.answer .inUse [] := by
  simp only [setStation, parsed, if_pos (And.intro relay via)]

end

/-- Settles O12: the two refusals are branches of `setStation`, and a parsed record is what its parsers gave. -/
theorem setStationRefused : Obligations.SetStationRefused := by
  refine fun s p => ⟨fun bad => exec_answers rfl (setStation_badValue bad), ?_, fun i n parsed via relay =>
    exec_answers rfl (setStation_inUse parsed via (State.isRelay_iff.2 relay))⟩
  cases parsed : s.parseStation p with
  | none => exact .inl (State.parseStation_eq_none_iff.1 parsed)
  | some given =>
    obtain ⟨call, channel, net, kind, fallback, index, call_eq, channel_eq, net_eq, kind_eq, fallback_eq, record⟩ :=
      State.parseStation_eq_some parsed
    refine .inr ⟨given.1, given.2, rfl, index.symm, ?_⟩
    rw [record]
    refine ⟨call_eq, channel_eq.symm, ?_, fun direct => ?_, fun via => ?_, fun absent => ?_,
      fun present => State.fallbackOf_given present fallback_eq, rfl, rfl⟩
    · change net = true ↔ _
      rw [← BitVec.toNat_inj, net_eq]
      cases net <;> simp
    · rw [direct, State.kindOf_direct] at kind_eq
      exact (Option.some_inj.1 kind_eq).symm
    · exact State.kindOf_via (via ▸ kind_eq)
    · rw [absent, State.fallbackOf_absent] at fallback_eq
      exact (Option.some_inj.1 fallback_eq).symm

end Sys2Proof.Machine
end

/-! # The test of congestion (R83, R86, R87, R89)

The free counts choose one of three cases: the state stands, CONGESTED is entered, or it is left. Entering and leaving carry
out one change of a record on each channel in turn, and `State.chan_forChans_own` reads what a channel becomes by it. -/

section
namespace Sys2Proof.Machine

/-! ## The own frames of one channel (R86) -/

theorem any_isOwn_eq_false {q : List ControlFrame} (noOwn : ∀ f ∈ q, f.isOwn = false) : q.any (·.isOwn) = false := by
  simpa using noOwn

theorem Channel.queueOwn_joins {x : Channel} {n : Nat} {k : Fin 8} (noOwn : ∀ f ∈ x.control, f.isOwn = false)
    (room : x.control.length < 4) : x.queueOwn n k = { x with control := x.control ++ [.ownHold n k] } := by
  rw [Channel.queueOwn, any_isOwn_eq_false noOwn]
  exact if_pos room

theorem Channel.queueOwn_owes {x : Channel} {n : Nat} {k : Fin 8} (noOwn : ∀ f ∈ x.control, f.isOwn = false)
    (full : 4 ≤ x.control.length) : x.queueOwn n k = { x with owed := some (if n = 0 then .release else .hold) } := by
  rw [Channel.queueOwn, any_isOwn_eq_false noOwn]
  exact if_neg (not_lt.2 full)

/-- A queue without an own frame is left as it is where own frames are replaced. -/
theorem replaceOwn_of_noOwn {q : List ControlFrame} (noOwn : ∀ f ∈ q, f.isOwn = false) (g : ControlFrame) :
    (q.map fun f => if f.isOwn then g else f) = q := by
  rw [List.map_congr_left fun f m => if_neg (Bool.eq_false_iff.1 (noOwn f m)), List.map_id']

theorem Channel.queueOwn_replaces {x : Channel} {n m : Nat} {k j : Fin 8} {a b : List ControlFrame}
    (queue : x.control = a ++ [.ownHold m j] ++ b) (noOwn : ∀ f ∈ a ++ b, f.isOwn = false) :
    x.queueOwn n k = { x with control := a ++ [.ownHold n k] ++ b } := by
  have waits : x.control.any (·.isOwn) = true := by simp [queue, ControlFrame.isOwn]
  have before := replaceOwn_of_noOwn (fun f m => noOwn f (List.mem_append_left b m)) (.ownHold n k)
  have after := replaceOwn_of_noOwn (fun f m => noOwn f (List.mem_append_right a m)) (.ownHold n k)
  rw [Channel.queueOwn, if_pos waits, queue, List.map_append, List.map_append, before, after]
  rfl

/-! ## One change carried out on every channel -/

/-- A channel after four turns, each of which changes its own channel's record in a way that the own-station record fixes. -/
theorem State.chan_forChans_own {f : Chan → State → State} {g : OwnStation → Channel → Channel}
    (turn : ∀ (c : Chan) (s : State), f c s = s.updChan c (g s.own)) (s : State) (c : Chan) :
    (forChans f s).chan c = g s.own (s.chan c) := by
  rcases chan_cases c with rfl | rfl | rfl | rfl <;> simp [forChans, turn]

/-- A change of an enabled channel's record, as a change of every channel's. -/
theorem ifEnabled_eq_updChan {f : Chan → State → State} {g : Channel → Channel} {c : Chan} {s : State}
    (turn : f c s = s.updChan c g) : ifEnabled f c s = s.updChan c fun x => if x.enabled then g x else x := by
  unfold ifEnabled
  split
  · next enabled => rw [turn, State.updChan, State.updChan, if_pos enabled]
  · next disabled => exact (s.updChan_self c _ (if_neg disabled)).symm

/-! ## Entering and leaving CONGESTED (R87, R89) -/

theorem enterCongested_chan (s : State) (c : Chan) : (enterCongested s).chan c =
    if (s.chan c).enabled then (s.chan c).queueOwn s.own.holdTime s.own.holdCutoff else s.chan c :=
  State.chan_forChans_own (f := ifEnabled queueOwnHold)
    (g := fun o x => if x.enabled then x.queueOwn o.holdTime o.holdCutoff else x) (fun _ _ => ifEnabled_eq_updChan rfl) s c

theorem forChans_release_chan (s : State) (c : Chan) : (forChans (ifEnabled queueOwnRelease) s).chan c =
    if (s.chan c).enabled then (s.chan c).queueOwn 0 s.own.holdCutoff else s.chan c :=
  State.chan_forChans_own (f := ifEnabled queueOwnRelease)
    (g := fun o x => if x.enabled then x.queueOwn 0 o.holdCutoff else x) (fun _ _ => ifEnabled_eq_updChan rfl) s c

theorem forChans_stopRehold_chan (s : State) (c : Chan) :
    (forChans stopRehold s).chan c = { s.chan c with rehold := none } :=
  State.chan_forChans_updChan (fun x => { x with rehold := none }) s c

theorem forChans_dropOwn_chan (s : State) (c : Chan) : (forChans dropOwn s).chan c =
    { s.chan c with control := (s.chan c).control.filter (!·.isOwn), owed := none } :=
  State.chan_forChans_updChan (fun x => { x with control := x.control.filter (!·.isOwn), owed := none }) s c

theorem forChans_stopRehold_own (s : State) : (forChans stopRehold s).own = s.own :=
  forChans_field (·.own) (f := stopRehold) (fun _ _ => rfl) s

theorem leaveCongested_of_release {s : State} (release : s.own.releaseMode = true) :
    leaveCongested s = forChans (ifEnabled queueOwnRelease) (forChans stopRehold s) :=
  if_pos (forChans_stopRehold_own s ▸ release)

theorem leaveCongested_of_noRelease {s : State} (noRelease : s.own.releaseMode = false) :
    leaveCongested s = forChans dropOwn (forChans stopRehold s) :=
  if_neg (by rw [forChans_stopRehold_own, noRelease]; exact Bool.false_ne_true)

theorem leaveCongested_chan_of_release {s : State} (release : s.own.releaseMode = true) (c : Chan) :
    (leaveCongested s).chan c =
      if (s.chan c).enabled then Channel.queueOwn 0 s.own.holdCutoff { s.chan c with rehold := none }
      else { s.chan c with rehold := none } := by
  rw [leaveCongested_of_release release, forChans_release_chan, forChans_stopRehold_chan, forChans_stopRehold_own]

theorem leaveCongested_chan_of_noRelease {s : State} (noRelease : s.own.releaseMode = false) (c : Chan) :
    (leaveCongested s).chan c =
      { s.chan c with rehold := none, owed := none, control := (s.chan c).control.filter (!·.isOwn) } := by
  rw [leaveCongested_of_noRelease noRelease, forChans_dropOwn_chan, forChans_stopRehold_chan]

theorem enterCongested_congestionChanged (s : State) : (enterCongested s).congestionChanged = s.congestionChanged :=
  forChans_field (·.congestionChanged) (f := ifEnabled queueOwnHold)
    (ifEnabled_field (·.congestionChanged) (f := queueOwnHold) fun _ _ => rfl) s

theorem leaveCongested_congestionChanged (s : State) : (leaveCongested s).congestionChanged = s.congestionChanged := by
  have stopped : (forChans stopRehold s).congestionChanged = s.congestionChanged :=
    forChans_field (·.congestionChanged) (f := stopRehold) (fun _ _ => rfl) s
  unfold leaveCongested
  dsimp only
  split
  · exact (forChans_field (·.congestionChanged) (f := ifEnabled queueOwnRelease)
      (ifEnabled_field (·.congestionChanged) (f := queueOwnRelease) fun _ _ => rfl) _).trans stopped
  · exact (forChans_field (·.congestionChanged) (f := dropOwn) (fun _ _ => rfl) _).trans stopped

/-! ## The three cases of the test (R83) -/

/-- A free count is below its enter threshold (R83). -/
def State.LowOnRoom (s : State) : Prop := s.freeEntries < s.own.enterEntries ∨ s.freeBlocks < s.own.enterBlocks

/-- Both free counts are at their leave thresholds or above (R83). -/
def State.HasRoom (s : State) : Prop := s.own.leaveEntries ≤ s.freeEntries ∧ s.own.leaveBlocks ≤ s.freeBlocks

theorem testCongestion_stands {s : State} (same : s.congestionNow = s.congestion) : testCongestion s = s := if_pos same

theorem congestionNow_of_normal_low {s : State} (normal : s.congestion = .normal) (low : s.LowOnRoom) :
    s.congestionNow = .congested := by
  rw [State.congestionNow, normal]
  exact if_pos low

theorem congestionNow_of_normal_not_low {s : State} (normal : s.congestion = .normal) (enough : ¬ s.LowOnRoom) :
    s.congestionNow = .normal := by
  rw [State.congestionNow, normal]
  exact if_neg enough

theorem congestionNow_of_congested_high {s : State} (congested : s.congestion = .congested) (high : s.HasRoom) :
    s.congestionNow = .normal := by
  rw [State.congestionNow, congested]
  exact if_pos high

theorem congestionNow_of_congested_not_high {s : State} (congested : s.congestion = .congested) (tight : ¬ s.HasRoom) :
    s.congestionNow = .congested := by
  rw [State.congestionNow, congested]
  exact if_neg tight

/-- The state with a congestion state written and its change noticed. -/
def State.turnedTo (s : State) (x : Congestion) : State := { s with congestion := x, congestionChanged := true }

theorem markCongestion_of_changes {s : State} {x : Congestion} (now : s.congestionNow = x) (changes : x ≠ s.congestion) :
    s.markCongestion = s.turnedTo x := by
  subst now
  exact if_neg changes

theorem testCongestion_enters {s : State} (normal : s.congestion = .normal) (low : s.LowOnRoom) :
    testCongestion s = enterCongested (s.turnedTo .congested) := by
  have now := congestionNow_of_normal_low normal low
  have changes : Congestion.congested ≠ s.congestion := by simp [normal]
  simp only [testCongestion, now, if_neg changes, markCongestion_of_changes now changes]

theorem testCongestion_leaves {s : State} (congested : s.congestion = .congested) (high : s.HasRoom) :
    testCongestion s = leaveCongested (s.turnedTo .normal) := by
  have now := congestionNow_of_congested_high congested high
  have changes : Congestion.normal ≠ s.congestion := by simp [congested]
  simp only [testCongestion, now, if_neg changes, markCongestion_of_changes now changes]

/-- Settles O10: the counts choose the case of the test, and a channel after it is read off the one change that entering or
leaving CONGESTED carries out on each channel. -/
theorem congestionTested : Obligations.CongestionTested := by
  refine ⟨fun s => ⟨(State.Tested.testCongestion s).rest, fun normal low => ?_, fun congested high release => ?_,
    fun congested high noRelease => ?_, fun normal enough => ?_, fun congested tight => ?_⟩,
    fun x n k => ⟨Channel.queueOwn_joins, Channel.queueOwn_owes, fun a b m j => Channel.queueOwn_replaces⟩⟩
  · rw [testCongestion_enters normal low]
    exact ⟨enterCongested_congestion _, enterCongested_congestionChanged _, enterCongested_chan _⟩
  · rw [testCongestion_leaves congested high]
    exact ⟨leaveCongested_congestion _, leaveCongested_congestionChanged _, leaveCongested_chan_of_release release⟩
  · rw [testCongestion_leaves congested high]
    exact ⟨leaveCongested_congestion _, leaveCongested_congestionChanged _, leaveCongested_chan_of_noRelease noRelease⟩
  · exact testCongestion_stands ((congestionNow_of_normal_not_low normal enough).trans normal.symm)
  · exact testCongestion_stands ((congestionNow_of_congested_not_high congested tight).trans congested.symm)

end Sys2Proof.Machine
end

/-! # SET OWN (R60, R82, R181)

A field goes through its check where the mask gives it and stands as it was elsewhere, so the record that SET OWN writes is
told field by field (`State.givenOwn_eq_some`), and there is none exactly when a given field fails its check
(`State.givenOwn_eq_none_iff`). -/

section
namespace Sys2Proof.Machine

/-! ## Fields that the mask gives (R181) -/

section
variable {α : Type} {p : OwnBlock} {bit : Nat} {given : Option α} {old new : α}

theorem givenField_of_given (gives : givesField p bit = true) : givenField p bit given old = given := if_pos gives

theorem givenField_of_kept (keeps : givesField p bit = false) : givenField p bit given old = some old :=
  if_neg (Bool.eq_false_iff.1 keeps)

/-- A field that is not given keeps its value. -/
theorem eq_of_givenField_kept (keeps : givesField p bit = false) (field : givenField p bit given old = some new) :
    new = old :=
  (Option.some_inj.1 ((givenField_of_kept keeps).symm.trans field)).symm

/-- A field that is given holds what its check answers. -/
theorem eq_of_givenField_given (gives : givesField p bit = true) (field : givenField p bit given old = some new) :
    given = some new :=
  (givenField_of_given gives).symm.trans field

theorem givenField_eq_none_iff : givenField p bit given old = none ↔ givesField p bit = true ∧ given = none := by
  cases gives : givesField p bit with
  | true => simp [givenField_of_given gives]
  | false => simp [givenField_of_kept gives]

end

/-! ## The checks of the call and the default route (R181, checks 1 to 3) -/

section
variable {s : State} {p : OwnBlock} {o : OwnStation}

theorem isBlank_iff {f : CallField} : isBlank f = true ↔ ∀ x ∈ f.toList, x = 0x20 := by
  simp only [isBlank, space, List.all_eq_true, beq_iff_eq]

theorem State.givenCall_eq_some {f : CallField} {c : Call} (given : s.givenCall f = some c) :
    (∀ x ∈ f.toList, x = 0x20) ∧ c = [] ∨ parseCall f.toList = some c := by
  unfold State.givenCall at given
  split at given
  · next blank => exact .inl ⟨isBlank_iff.1 blank, (Option.some_inj.1 given).symm⟩
  · exact .inr (Option.filter_eq_some_iff.1 given).1

theorem State.givenCall_eq_none_iff {f : CallField} : s.givenCall f = none ↔ (∃ x ∈ f.toList, x ≠ 0x20) ∧
    (parseCall f.toList = none ∨ ∃ i st, s.station i = some st ∧ parseCall f.toList = some st.call) := by
  have notBlank : (∃ x ∈ f.toList, x ≠ 0x20) ↔ ¬ isBlank f = true := by
    rw [isBlank_iff]
    push Not
    rfl
  rw [notBlank, State.givenCall, portCall]
  split
  · next blank => simp [blank]
  · next given =>
    rw [and_iff_right given]
    cases call : parseCall f.toList with
    | none => simp
    | some c =>
      have held : s.findStation c ≠ none ↔ ∃ i st, s.station i = some st ∧ st.call = c := by
        rw [ne_eq, State.findStation_eq_none_iff]
        push Not
        rfl
      simp only [Option.filter_some, reduceCtorEq, false_or, Option.some_inj, eq_comm (a := c), ← held]
      simp

theorem State.givenRoute_eq_some {b : Byte} {r : Option Index} (given : s.givenRoute b = some r) :
    (b = 0xFF ∧ r = none) ∨ ∃ i, r = some i ∧ i.val = b.toNat := by
  unfold State.givenRoute at given
  split at given
  · next absent => exact .inl ⟨absent, (Option.some_inj.1 given).symm⟩
  · obtain ⟨i, found, route⟩ := Option.map_eq_some_iff.1 given
    exact .inr ⟨i, route.symm, (parseIndex_eq_some_iff.1 (Option.filter_eq_some_iff.1 found).1).symm⟩

theorem State.givenRoute_eq_none_iff {b : Byte} : s.givenRoute b = none ↔
    b ≠ 0xFF ∧ (64 ≤ b.toNat ∨ ∀ i : Index, b.toNat = i.val → s.station i = none) := by
  unfold State.givenRoute
  split
  · next absent => simp [absent]
  · next present =>
    rw [and_iff_right present, Option.map_eq_none_iff]
    cases parsed : parseIndex b with
    | none => simp [parseIndex_eq_none_iff.1 parsed]
    | some i =>
      have named := parseIndex_eq_some_iff.1 parsed
      have inRange : ¬ 64 ≤ b.toNat := not_le.2 (named ▸ i.isLt)
      rw [or_iff_right inRange]
      simp [Option.filter_some, named, Fin.val_inj]

/-! ## The record that SET OWN writes (R82, R181) -/

/-- Each field of the record: call, default route and modes through their checks, the tuning fields clamped, the leave
thresholds against the enter thresholds as written. -/
theorem State.givenOwn_eq_some (given : s.givenOwn p = some o) :
    givenField p 0 (s.givenCall p.call) s.own.call = some o.call ∧
    givenField p 1 (s.givenRoute p.defaultRoute) s.own.defaultRoute = some o.defaultRoute ∧
    givenField p 8 (parseMark p.reholdMode) s.own.reholdMode = some o.reholdMode ∧
    givenField p 9 (parseMark p.releaseMode) s.own.releaseMode = some o.releaseMode ∧
    o.enterEntries = min 255 (tunedField p 2 p.enterEntries.toNat s.own.enterEntries) ∧
    o.enterBlocks = min 2047 (tunedField p 3 p.enterBlocks.toNat s.own.enterBlocks) ∧
    o.leaveEntries = min 256 (max o.enterEntries (tunedField p 4 p.leaveEntries.toNat s.own.leaveEntries)) ∧
    o.leaveBlocks = min 2048 (max o.enterBlocks (tunedField p 5 p.leaveBlocks.toNat s.own.leaveBlocks)) ∧
    o.holdTime = tunedField p 6 (max 1 p.holdTime.toNat) s.own.holdTime ∧
    o.holdCutoff = tunedField p 7 (clampSeven p.holdCutoff) s.own.holdCutoff ∧
    o.reholdLead = tunedField p 10 (max 1 p.reholdLead.toNat) s.own.reholdLead ∧
    o.fullBackoff = tunedField p 11 (max 1 p.fullBackoff.toNat) s.own.fullBackoff := by
  simp only [State.givenOwn, Option.bind_eq_some_iff, Option.map_eq_some_iff] at given
  obtain ⟨call, call_eq, route, route_eq, rehold, rehold_eq, release, release_eq, record⟩ := given
  subst record
  exact ⟨call_eq, route_eq, rehold_eq, release_eq, rfl, rfl, rfl, rfl, rfl, rfl, rfl, rfl⟩

/-- SET OWN's parameters give no record exactly when a given identity field or mode is outside its values (R181). -/
theorem State.givenOwn_eq_none_iff : s.givenOwn p = none ↔
    (givesField p 0 = true ∧ s.givenCall p.call = none) ∨
    (givesField p 1 = true ∧ s.givenRoute p.defaultRoute = none) ∨
    (givesField p 8 = true ∧ 2 ≤ p.reholdMode.toNat) ∨ (givesField p 9 = true ∧ 2 ≤ p.releaseMode.toNat) := by
  rw [← parseMark_eq_none_iff, ← parseMark_eq_none_iff, ← givenField_eq_none_iff (old := s.own.call),
    ← givenField_eq_none_iff (old := s.own.defaultRoute), ← givenField_eq_none_iff (old := s.own.reholdMode),
    ← givenField_eq_none_iff (old := s.own.releaseMode), State.givenOwn]
  cases givenField p 0 (s.givenCall p.call) s.own.call with
  | none => simp
  | some call => cases givenField p 1 (s.givenRoute p.defaultRoute) s.own.defaultRoute with
    | none => simp
    | some route => cases givenField p 8 (parseMark p.reholdMode) s.own.reholdMode with
      | none => simp
      | some rehold => cases givenField p 9 (parseMark p.releaseMode) s.own.releaseMode <;> simp

/-- R82: the thresholds are in order after every SET OWN. -/
theorem State.givenOwn_ordered (given : s.givenOwn p = some o) : o.Ordered := by
  obtain ⟨-, -, -, -, enterEntries, enterBlocks, leaveEntries, leaveBlocks, -⟩ := State.givenOwn_eq_some given
  unfold OwnStation.Ordered
  omega

theorem clampSeven_val (b : Byte) : (clampSeven b).val = min 7 b.toNat := rfl

/-- A mode that is given is on exactly when its byte is 1. -/
theorem mark_eq_true_iff {b : Byte} {v : Bool} (parsed : parseMark b = some v) : v = true ↔ b = 1 := by
  rw [← BitVec.toNat_inj, parseMark_eq_some_iff.1 parsed]
  cases v <;> simp

/-! ## What SET OWN does with the record (R60, R181) -/

theorem State.anyEnabled_iff : s.anyEnabled = true ↔ ∃ c, (s.chan c).enabled = true := by
  rw [State.anyEnabled, ← Option.ne_none_iff_isSome, ne_eq, findChan_none]
  simp

theorem setOwn_badValue (bad : s.givenOwn p = none) : setOwn p s = s.answer .badValue [] := by
  simp only [setOwn, bad]

theorem setOwn_wrongState (given : s.givenOwn p = some o) (differs : o.call ≠ s.own.call)
    (enabled : s.anyEnabled = true) : setOwn p s = s.answer .wrongState [] := by
  simp only [setOwn, given]
  exact if_pos ⟨differs, enabled⟩

theorem setOwn_accepted (given : s.givenOwn p = some o)
    (allowed : o.call = s.own.call ∨ ∀ c, (s.chan c).enabled = false) : setOwn p s =
      considerAll ((sweepIfRouted s.own.defaultRoute (testCongestion (writeOwn o s))).answer .done o.bytes) := by
  have passes : ¬ (o.call ≠ s.own.call ∧ s.anyEnabled = true) := by
    rintro ⟨differs, enabled⟩
    obtain ⟨c, on⟩ := State.anyEnabled_iff.1 enabled
    simp [allowed.resolve_left differs c] at on
  simp only [setOwn, given]
  exact if_neg passes

theorem State.Turned.own {t : State} (h : s.Turned t) : t.own = s.own := by rw [← h.rest]

/-- The test of congestion keeps the own-station record, so the sweep is decided by the record as written (R60). -/
theorem sweepIfRouted_tested (old : Option Index) : sweepIfRouted old (testCongestion (writeOwn o s)) =
    if o.defaultRoute = old then testCongestion { s with own := o } else sweep (testCongestion { s with own := o }) := by
  rw [sweepIfRouted, testCongestion_own]
  rfl

/-- The own-station record stands as written after the test and the sweep. -/
theorem own_of_tested_and_swept (old : Option Index) :
    (if o.defaultRoute = old then testCongestion { s with own := o } else sweep (testCongestion { s with own := o })).own =
      o := by
  have tested : (testCongestion { s with own := o }).own = o := testCongestion_own _
  split
  · exact tested
  · exact (State.Turned.sweep _).own.trans tested

end

/-- Settles O23: the fields are those that `State.givenOwn_eq_some` names, and each refusal is a branch of `setOwn`. -/
theorem setOwnByMask : Obligations.SetOwnByMask := by
  refine ⟨fun s p o given allowed => ?_, fun s p => ⟨fun bad => ?_, fun o c given differs enabled => ?_⟩⟩
  · obtain ⟨call, route, rehold, release, enterEntries, enterBlocks, leaveEntries, leaveBlocks, holdTime, cutoff, lead,
      backoff⟩ := State.givenOwn_eq_some given
    obtain ⟨t, taken, turned⟩ := exec_turned (i := .setOwn p) rfl (setOwn_accepted given allowed) (.considerAll _)
    rw [sweepIfRouted_tested] at turned
    refine ⟨State.givenOwn_ordered given, enterEntries, enterBlocks, leaveEntries, leaveBlocks,
      fun keeps => eq_of_givenField_kept keeps call, fun keeps => eq_of_givenField_kept keeps route, holdTime, ?_,
      fun keeps => eq_of_givenField_kept keeps rehold, fun keeps => eq_of_givenField_kept keeps release, lead, backoff,
      fun gives => State.givenCall_eq_some (eq_of_givenField_given gives call),
      fun gives => State.givenRoute_eq_some (eq_of_givenField_given gives route),
      fun gives => mark_eq_true_iff (eq_of_givenField_given gives rehold),
      fun gives => mark_eq_true_iff (eq_of_givenField_given gives release), t, taken, ?_, turned.response, turned⟩
    · rw [cutoff, tunedField, apply_ite Fin.val, clampSeven_val]
      rfl
    · exact turned.own.trans (own_of_tested_and_swept _)
  · refine exec_answers rfl (setOwn_badValue (State.givenOwn_eq_none_iff.2 ?_))
    rwa [State.givenCall_eq_none_iff, State.givenRoute_eq_none_iff]
  · exact exec_answers rfl (setOwn_wrongState given differs (State.anyEnabled_iff.2 ⟨c, enabled⟩))

end Sys2Proof.Machine
end

/-! # Key-up of an exchange (R99, R136, R145, R162)

The re-test chooses between keying the radio and withdrawing the exchange. Keying damages the frame in reception, which may
end congestion and so queue own frames, and then writes the transmitter and the gate of its own channel alone
(`keyFor_eq`); the considerations after it leave the exchange in progress as it is (`conclude_engine_of_ne_idle`). -/

section
namespace Sys2Proof.Machine

/-! ## The window fit test (R162) -/

theorem Settings.elapsed_of_lt {g : Settings} (within : g.offset < g.period) (n : Nat) :
    g.elapsed n = (n + g.period - g.offset) % g.period := by
  rw [Settings.elapsed, Nat.mod_eq_of_lt within]

theorem Settings.window_fits_iff {g : Settings} {m : Nat} (periodic : g.period ≠ 0) (ms : m ≤ 999) (n need : Nat) :
    (g.window n m).fits need = true ↔
      g.elapsed n < g.length ∧ g.elapsed n * 1000 + m + need ≤ g.length * 1000 := by
  simp only [Settings.window, if_neg periodic]
  split
  · simp only [Window.fits, decide_eq_true_iff]
    omega
  · next closed => simp [Window.fits, closed]

theorem Settings.window_fits_of_period_eq_zero {g : Settings} (aperiodic : g.period = 0) (n m need : Nat) :
    (g.window n m).fits need = true := by
  rw [Settings.window, if_pos aperiodic]
  rfl

/-! ## An exchange in progress through the considerations (R142) -/

theorem forChans_keeps {P : State → Prop} {f : Chan → State → State} (each : ∀ c s, P s → P (f c s))
    {s : State} (h : P s) : P (forChans f s) :=
  each 3 _ (each 2 _ (each 1 _ (each 0 s h)))

section
variable {c d : Chan} {s : State}

theorem engage_engine_other (other : d ≠ c) (h : Handle) : ((engage c h s).chan d).engine = (s.chan d).engine := by
  rw [engage, State.chan_updChan_other _ other.symm]
  exact s.leave_engine h d

/-- A walk of one channel's queue engages that channel's engine at most. -/
theorem walk_engine_other (other : d ≠ c) (q : List Handle) : ((walk c q s).chan d).engine = (s.chan d).engine := by
  induction q generalizing s with
  | nil => rfl
  | cons h q ih =>
    simp only [walk]
    split
    · exact ih
    · split
      · exact ih.trans (s.leave_engine h d)
      · split
        · exact engage_engine_other other h
        · exact ih

theorem consider_engine_of_ne_idle (runs : (s.chan d).engine ≠ .idle) (c : Chan) :
    ((consider c s).chan d).engine = (s.chan d).engine := by
  unfold consider
  split
  · next considers =>
    have other : d ≠ c := by
      rintro rfl
      simp [Channel.considers, runs] at considers
    exact walk_engine_other other _
  · rfl

/-- The end of an event leaves an engine that is not IDLE as it is (R142). -/
theorem conclude_engine_of_ne_idle (runs : (s.chan d).engine ≠ .idle) :
    ((conclude s).chan d).engine = (s.chan d).engine := by
  rw [conclude, arbitrateAll_chan, (Channel.arbitrated_exchange _).2]
  exact forChans_keeps (P := fun t => (t.chan d).engine = (s.chan d).engine)
    (fun c t same => (consider_engine_of_ne_idle (same ▸ runs) c).trans same) rfl

end

/-! ## Damage of a frame in reception (R99, R124, R32) -/

theorem damaged_rest (c : Chan) (s : State) :
    { damaged c s with entries := s.entries, freeEntries := s.freeEntries, freeBlocks := s.freeBlocks,
                       channels := s.channels } = s := by
  unfold damaged
  split <;> rfl

/-- Damage touches the entries and the free counts, what a test of congestion may touch, and the channels. -/
theorem damage_rest (c : Chan) (s : State) :
    { damage c s with entries := s.entries, freeEntries := s.freeEntries, freeBlocks := s.freeBlocks,
                      congestion := s.congestion, congestionChanged := s.congestionChanged,
                      channels := s.channels } = s := by
  have freed := damaged_rest c s
  have tested := (damage_tested c s).rest
  generalize damaged c s = u at freed tested
  generalize damage c s = t at tested
  obtain ⟨⟩ := s; obtain ⟨⟩ := u; obtain ⟨⟩ := t
  simp_all

theorem damage_chan (c d : Chan) (s : State) : ((setReceiver .hunt c s).chan d).SameButOwn ((damage c s).chan d) := by
  have tested := (damage_tested c s).chan d
  rwa [damaged_chan, ← State.chan_updChan s c d fun x => { x with receiver := .hunt }] at tested

/-- The entry that the damaged frame reserved is FREE; every other entry is as it was. -/
theorem damage_entry (c : Chan) (s : State) (k : Handle) :
    (damage c s).entry k = if (s.chan c).receiver.reservation = some k then Entry.free else s.entry k := by
  have entries : (damage c s).entries = (damaged c s).entries :=
    (congrArg State.entries (damage_tested c s).rest :)
  rw [State.entry, entries, ← State.entry, damaged]
  cases (s.chan c).receiver.reservation with
  | none => rfl
  | some h => simp [freeEntry, setReceiver]

/-- Damage touches no table and gives no answer. -/
theorem damage_tables (c : Chan) (s : State) : s.SameTables (damage c s) ∧ (damage c s).response = s.response := by
  have rest := damage_rest c s
  generalize damage c s = t at rest
  obtain ⟨⟩ := s; obtain ⟨⟩ := t
  simp_all [State.SameTables]

theorem Channel.SameButOwn.settings {x y : Channel} (h : x.SameButOwn y) : y.settings = x.settings := by rw [← h]
theorem Channel.SameButOwn.busy {x y : Channel} (h : x.SameButOwn y) : y.busy = x.busy := by rw [← h]
theorem Channel.SameButOwn.receiver {x y : Channel} (h : x.SameButOwn y) : y.receiver = x.receiver := by rw [← h]
theorem Channel.SameButOwn.sampler {x y : Channel} (h : x.SameButOwn y) : y.sampler = x.sampler := by rw [← h]
theorem Channel.SameButOwn.queue {x y : Channel} (h : x.SameButOwn y) : y.queue = x.queue := by rw [← h]
theorem Channel.SameButOwn.engine {x y : Channel} (h : x.SameButOwn y) : y.engine = x.engine := by rw [← h]

theorem setReceiver_exchange (r : Receiver) (c d : Chan) (s : State) :
    ((setReceiver r c s).chan d).queue = (s.chan d).queue ∧
      ((setReceiver r c s).chan d).engine = (s.chan d).engine := by
  rw [setReceiver, State.chan_updChan]
  split
  · next same => exact same ▸ ⟨rfl, rfl⟩
  · exact ⟨rfl, rfl⟩

/-- Damage leaves the collections and the exchanges alone. -/
theorem damage_waits (c : Chan) (s : State) (k : Handle) : (damage c s).Waits k ↔ s.Waits k := by
  refine State.Waits.congr (fun q => ?_)
    (fun d => (damage_chan c d s).engine.trans (setReceiver_exchange _ c d s).2) k
  cases q with
  | unrouted => exact (congrArg State.unrouted (damage_rest c s) :)
  | queue d => exact (damage_chan c d s).queue.trans (setReceiver_exchange _ c d s).1

/-! ## Keying the radio (R99, R136) -/

theorem State.updChan_updChan (s : State) (c : Chan) (f g : Channel → Channel) :
    (s.updChan c f).updChan c g = s.updChan c fun x => g (f x) := by
  simp [State.updChan, State.setChan, State.chan]

/-- The gate of an enabled channel that was clear, once its radio is keyed (R100, R101). -/
theorem gate_of_keyed {c : Chan} {s : State} (enabled : (s.chan c).enabled = true) (clear : (s.chan c).busy = false)
    (keyed : (s.chan c).transmitter.keyed = true) : gate c s = s.updChan c Channel.beginBusy := by
  have now : (s.chan c).busyNow = true := by simp [Channel.busyNow, enabled, keyed]
  simp [gate, now, clear]

/-- Echo suppression: the character being sampled is dropped and the frame in reception damaged (R99). -/
def echoSuppressed (c : Chan) (s : State) : State := damage c (setSampler .lineRecovery c s)

/-- The transmitter that is keyed: SENDING the frame composed now where there is no key-up delay, else KEYING (R136). -/
def State.keyedFor (s : State) (c : Chan) (what : OnAir) : Transmitter :=
  if (s.chan c).settings.keyUpField = 0 then .sending what (s.compose c what) 0
  else .keying what (10 * (s.chan c).settings.keyUpField)

theorem State.keyedFor_keyed (s : State) (c : Chan) (what : OnAir) : (s.keyedFor c what).keyed = true := by
  unfold State.keyedFor
  split <;> rfl

section
variable {c : Chan} {s : State}

/-- Of its channel's record echo suppression writes the sampler and the receiver, and own frames may change. -/
theorem echoSuppressed_chan (c : Chan) (s : State) :
    { s.chan c with sampler := .lineRecovery, receiver := .hunt }.SameButOwn ((echoSuppressed c s).chan c) := by
  have damage := damage_chan c c (setSampler .lineRecovery c s)
  rwa [setReceiver, State.chan_updChan_same, setSampler, State.chan_updChan_same] at damage

/-- Keying is echo suppression, and then the transmitter keyed and busy begun (R99, R101, R136). -/
theorem keyFor_eq (what : OnAir) (enabled : (s.chan c).enabled = true) (clear : (s.chan c).busy = false) :
    keyFor what c s = (echoSuppressed c s).updChan c fun x =>
      { x with transmitter := (echoSuppressed c s).keyedFor c what, busy := true, clearTime := 0 } := by
  have kept := echoSuppressed_chan c s
  have settings : ((echoSuppressed c s).chan c).settings = (s.chan c).settings := kept.settings
  have set : keyFor what c s =
      gate c (setTransmitter ((echoSuppressed c s).keyedFor c what) c (echoSuppressed c s)) := by
    simp only [keyFor, State.keyedFor, startSending, Settings.keyUpDelay, settings, mul_eq_zero,
      OfNat.ofNat_ne_zero, false_or]
    split <;> rfl
  rw [set, setTransmitter, gate_of_keyed, State.updChan_updChan]
  · rfl
  · rw [State.chan_updChan_same]; exact kept.enabled.trans enabled
  · rw [State.chan_updChan_same]; exact kept.busy.trans clear
  · rw [State.chan_updChan_same]; exact State.keyedFor_keyed ..

theorem echoSuppressed_tables (c : Chan) (s : State) :
    s.SameTables (echoSuppressed c s) ∧ (echoSuppressed c s).response = s.response :=
  damage_tables c (setSampler .lineRecovery c s)

theorem echoSuppressed_entry (c : Chan) (s : State) (k : Handle) : (echoSuppressed c s).entry k =
    if (s.chan c).receiver.reservation = some k then Entry.free else s.entry k := by
  rw [echoSuppressed, damage_entry, setSampler, State.chan_updChan_same]
  rfl

/-- Keying touches no table and gives no answer. -/
theorem keyFor_tables (what : OnAir) (enabled : (s.chan c).enabled = true) (clear : (s.chan c).busy = false) :
    s.SameTables (keyFor what c s) ∧ (keyFor what c s).response = s.response := by
  rw [keyFor_eq what enabled clear]
  exact echoSuppressed_tables c s

theorem keyFor_entry (what : OnAir) (enabled : (s.chan c).enabled = true) (clear : (s.chan c).busy = false)
    (k : Handle) :
    (keyFor what c s).entry k = if (s.chan c).receiver.reservation = some k then Entry.free else s.entry k := by
  rw [keyFor_eq what enabled clear]
  exact echoSuppressed_entry c s k

/-- Keying brings no entry to wait. -/
theorem keyFor_not_waits (what : OnAir) (enabled : (s.chan c).enabled = true) (clear : (s.chan c).busy = false)
    {k : Handle} (idle : ¬ s.Waits k) : ¬ (keyFor what c s).Waits k := by
  have sampled : ¬ (setSampler .lineRecovery c s).Waits k :=
    (State.LeavesOthers.of_updChan s c _ ⟨rfl, rfl⟩ k idle).2
  have suppressed : ¬ (echoSuppressed c s).Waits k := fun waits => sampled ((damage_waits c _ k).1 waits)
  rw [keyFor_eq what enabled clear]
  exact (State.LeavesOthers.of_updChan _ c _ ⟨rfl, rfl⟩ k suppressed).2

/-- The channel whose radio is keyed: busy from now, the receiver in HUNT, the sampler in LINE_RECOVERY (R99, R101). -/
theorem keyFor_chan (what : OnAir) (enabled : (s.chan c).enabled = true) (clear : (s.chan c).busy = false) :
    let x := (keyFor what c s).chan c
    x.transmitter = (echoSuppressed c s).keyedFor c what ∧ x.busy = true ∧ x.clearTime = 0 ∧ x.receiver = .hunt ∧
      x.sampler = .lineRecovery ∧ x.engine = (s.chan c).engine := by
  have kept := echoSuppressed_chan c s
  rw [keyFor_eq what enabled clear, State.chan_updChan_same]
  exact ⟨rfl, rfl, rfl, kept.receiver, kept.sampler, kept.engine⟩

theorem State.compose_traffic {h : Handle} (holds : (s.chan c).engine.entry? = some h) :
    s.compose c .traffic = trafficFrame s.own.call (s.entry h) := by
  simp only [State.compose, State.exchangeEntry, holds]

/-- Echo suppression leaves the frame of an exchange whose entry the damaged frame did not reserve. -/
theorem echoSuppressed_keyedFor_traffic {h : Handle} (holds : (s.chan c).engine.entry? = some h)
    (apart : (s.chan c).receiver.reservation ≠ some h) :
    (echoSuppressed c s).keyedFor c .traffic = s.keyedFor c .traffic := by
  have kept := echoSuppressed_chan c s
  have stillHolds : ((echoSuppressed c s).chan c).engine.entry? = some h := by rw [kept.engine]; exact holds
  obtain ⟨-, own, -⟩ := (echoSuppressed_tables c s).1
  rw [State.keyedFor, State.keyedFor, kept.settings, State.compose_traffic holds, State.compose_traffic stillHolds, own,
    echoSuppressed_entry, if_neg apart]

end

/-! ## The end of an event that keyed the radio -/

theorem Transmitter.SameOnAir.eq_of_keyed {a b : Transmitter} (h : a.SameOnAir b) (keyed : a.keyed = true) : b = a := by
  rcases h with same | ⟨notKeyed, -⟩
  · exact same.symm
  · rw [keyed] at notKeyed
    cases notKeyed

theorem Channel.SameLine.busy {x y : Channel} (h : x.SameLine y) : y.busy = x.busy := by rw [← h.rest]
theorem Channel.SameLine.clearTime {x y : Channel} (h : x.SameLine y) : y.clearTime = x.clearTime := by rw [← h.rest]
theorem Channel.SameLine.receiver {x y : Channel} (h : x.SameLine y) : y.receiver = x.receiver := by rw [← h.rest]
theorem Channel.SameLine.sampler {x y : Channel} (h : x.SameLine y) : y.sampler = x.sampler := by rw [← h.rest]

section
variable {c : Chan} {s : State} (what : OnAir) (enabled : (s.chan c).enabled = true) (clear : (s.chan c).busy = false)
include enabled clear

theorem conclude_keyFor_chan :
    let x := (conclude (keyFor what c s)).chan c
    x.transmitter = (echoSuppressed c s).keyedFor c what ∧ x.busy = true ∧ x.clearTime = 0 ∧ x.receiver = .hunt ∧
      x.sampler = .lineRecovery := by
  obtain ⟨transmitter, busy, clearTime, receiver, sampler, -⟩ := keyFor_chan what enabled clear
  have line := (State.Turned.conclude (keyFor what c s)).chan c
  have keyed : ((keyFor what c s).chan c).transmitter.keyed = true := by
    rw [transmitter]
    exact State.keyedFor_keyed ..
  exact ⟨(line.onAir.eq_of_keyed keyed).trans transmitter, line.busy.trans busy, line.clearTime.trans clearTime,
    line.receiver.trans receiver, line.sampler.trans sampler⟩

theorem conclude_keyFor_engine (runs : (s.chan c).engine ≠ .idle) :
    ((conclude (keyFor what c s)).chan c).engine = (s.chan c).engine := by
  obtain ⟨-, -, -, -, -, engine⟩ := keyFor_chan what enabled clear
  exact (conclude_engine_of_ne_idle (engine ▸ runs)).trans engine

theorem conclude_keyFor_entry {k : Handle} (idle : ¬ s.Waits k) : (conclude (keyFor what c s)).entry k =
    if (s.chan c).receiver.reservation = some k then Entry.free else s.entry k := by
  have still := keyFor_not_waits what enabled clear idle
  rw [((State.Turned.conclude _).others k still).1, keyFor_entry what enabled clear]

theorem conclude_keyFor_tables : s.SameTables (conclude (keyFor what c s)) ∧
    (conclude (keyFor what c s)).response = s.response := by
  obtain ⟨tables, response⟩ := keyFor_tables what enabled clear
  have turned := State.Turned.conclude (keyFor what c s)
  exact ⟨tables.trans turned.sameTables, turned.response.trans response⟩

end

/-! ## Key-up of a TRAFFIC claimant (R136, R145) -/

section
variable {s : State} {c : Chan} {h : Handle} {w0 w x : Nat}

/-- A claim whose required wait has passed on a clear channel is taken (R135). -/
theorem exec_keyUp_of_due {k : Claimant} (enabled : (s.chan c).enabled = true) (clear : (s.chan c).busy = false)
    (waited : w0 ≤ (s.chan c).clearTime) (claim : (s.chan c).transmitter = .clearing k w0) :
    exec (.keyUp c) s = .next (conclude (commit k c s)) := by
  have due : (s.chan c).keyUpDue = some k := by simp [Channel.keyUpDue, claim, enabled, clear, waited]
  exact congrArg Host.Outcome.next (by rw [takeKeyUp, due])

/-- The exchange of a channel committed to the air: its engine is SENDING, with no verdict recorded (R145). -/
def commitExchange (c : Chan) (h : Handle) (s : State) : State :=
  s.updChan c fun k => { k with engine := .sending h none }

theorem commit_traffic_of_fits (staged : (s.chan c).engine = .staged h w x) (fits : (s.window c).fits (x - w) = true) :
    commit .traffic c s = keyFor .traffic c (commitExchange c h s) := by
  simp only [commit, staged, if_pos fits]
  rfl

theorem commit_traffic_of_not_fits (staged : (s.chan c).engine = .staged h w x)
    (short : (s.window c).fits (x - w) = false) : commit .traffic c s = withdraw c s := by
  simp only [commit, staged, short]
  rfl

theorem withdraw_of_staged (staged : (s.chan c).engine = .staged h w x) :
    withdraw c s = (idleEngine c s).returnEntry h .withdrawn := by
  simp only [withdraw, staged]

/-- A withdrawal idles the engine and writes the entry as R39 has it, and leaves every other entry. -/
theorem withdraw_spec (staged : (s.chan c).engine = .staged h w x) : let u := withdraw c s
    (u.entry h).state = .ready ∧ (u.entry h).lastOutcome = .withdrawn ∧
      (u.entry h).attemptCount = (s.entry h).attemptCount ∧ (u.chan c).engine = .idle ∧
      ∀ k, k ≠ h → u.entry k = s.entry k := by
  dsimp only
  rw [withdraw_of_staged staged, State.returnEntry_entry, State.returnEntry_engine, idleEngine_chan, if_pos rfl]
  exact ⟨rfl, rfl, rfl, rfl, fun k other => ((State.Only.idleEngine h c s).trans (.returnEntry h _ _) k other).1⟩

theorem commitExchange_chan (c : Chan) (h : Handle) (s : State) :
    (commitExchange c h s).chan c = { s.chan c with engine := .sending h none } := State.chan_updChan_same ..

/-- An exchange committed to the air has the frame that it would have had while STAGED (R115). -/
theorem commitExchange_keyedFor (staged : (s.chan c).engine = .staged h w x) :
    (commitExchange c h s).keyedFor c .traffic = s.keyedFor c .traffic := by
  have before : (s.chan c).engine.entry? = some h := by rw [staged]; rfl
  have after : ((commitExchange c h s).chan c).engine.entry? = some h := by rw [commitExchange_chan]; rfl
  rw [State.keyedFor, State.keyedFor, State.compose_traffic before, State.compose_traffic after, commitExchange_chan]
  rfl

theorem commitExchange_leavesOthers (staged : (s.chan c).engine = .staged h w x) :
    s.LeavesOthers (commitExchange c h s) :=
  (State.Only.setEngine h c (.sending h none) s fun _ held => (Option.some_inj.1 held).symm).leavesOthers
    (State.waits_of_engine (c := c) (by rw [staged]; rfl))

end

/-- Settles O37: a re-test that passes keys the radio for the exchange, whose engine and entry the considerations then
leave; one that fails is a withdrawal, which writes the entry and the engine alone. -/
theorem keyUpOfTraffic : Obligations.KeyUpOfTraffic := by
  refine ⟨fun s c h w0 w x enabled clear apart waited claim staged => ⟨fun fits => ?_, fun short => ?_⟩,
    fun g m n need within ms => ?_, fun g m n need aperiodic =>
      Settings.window_fits_of_period_eq_zero aperiodic n m need⟩
  · have chan := commitExchange_chan c h s
    have on : ((commitExchange c h s).chan c).enabled = true := by rw [chan]; exact enabled
    have quiet : ((commitExchange c h s).chan c).busy = false := by rw [chan]; exact clear
    have reservation : ((commitExchange c h s).chan c).receiver.reservation = (s.chan c).receiver.reservation := by
      rw [chan]
    have engine : ((commitExchange c h s).chan c).engine = .sending h none := by rw [chan]
    obtain ⟨transmitter, busy, clearTime, receiver, sampler⟩ := conclude_keyFor_chan .traffic on quiet
    obtain ⟨tables, response⟩ := conclude_keyFor_tables .traffic on quiet
    have entry (k : Handle) (idle : ¬ s.Waits k) := by
      obtain ⟨same, still⟩ := commitExchange_leavesOthers staged k idle
      have keyed := conclude_keyFor_entry .traffic on quiet still
      rwa [reservation, same] at keyed
    have runs : ((commitExchange c h s).chan c).engine ≠ .idle := by rw [engine]; exact Engine.noConfusion
    refine ⟨_, (exec_keyUp_of_due enabled clear waited claim).trans (by rw [commit_traffic_of_fits staged fits]),
      (conclude_keyFor_engine .traffic on quiet runs).trans engine, ?_, busy, clearTime, receiver, sampler,
      fun k idle other => (entry k idle).trans (if_neg other),
      fun k reserved idle => (entry k idle).trans (if_pos reserved), tables, response⟩
    rw [transmitter, echoSuppressed_keyedFor_traffic (by rw [engine]; rfl) (by rwa [reservation]),
      commitExchange_keyedFor staged, State.keyedFor]
  · have withdrawn := State.Turned.withdraw c s
    have turned := State.Turned.conclude (withdraw c s)
    have notKeyed := ((withdrawn.trans turned).chan c).onAir.keyed
    rw [claim] at notKeyed
    obtain ⟨ready, outcome, attempts, idle, others⟩ := withdraw_spec staged
    exact ⟨withdraw c s, _, (exec_keyUp_of_due enabled clear waited claim).trans
      (by rw [commit_traffic_of_not_fits staged short]), rfl, turned, ready, outcome, attempts, idle, notKeyed, others,
      withdrawn.sameTables.trans turned.sameTables, turned.response.trans withdrawn.response⟩
  · rw [Settings.window_fits_iff (Nat.ne_zero_of_lt within) ms, Settings.elapsed_of_lt within]

end Sys2Proof.Machine
end

/-! # SET CHANNEL (R104, R180)

The settings block is told field by field: a selector goes through its parser and a tuning field through its clamp, so
there are settings to store exactly when the four selectors name a choice. Writing the settings of a disabled channel
gives its arbiter nothing to do, so it leaves a part at rest at rest. -/

section
namespace Sys2Proof.Machine

/-! ## The selectors (Table 10-2) -/

theorem parseParity_eq_none_iff {b : Byte} : parseParity b = none ↔ 3 ≤ b.toNat := by
  unfold parseParity
  split
  · decide
  · decide
  · decide
  · next notZero notOne notTwo =>
    rw [imp_false] at notZero notOne notTwo
    exact iff_of_true rfl (by bv_omega)

theorem parseStops_eq_none_iff {b : Byte} : parseStops b = none ↔ b.toNat = 0 ∨ 3 ≤ b.toNat := by
  unfold parseStops
  split
  · decide
  · decide
  · next notOne notTwo =>
    rw [imp_false] at notOne notTwo
    exact iff_of_true rfl (by bv_omega)

theorem parseSource_eq_none_iff {b : Byte} : parseSource b = none ↔ 3 ≤ b.toNat := by
  unfold parseSource
  split
  · decide
  · decide
  · decide
  · next notZero notOne notTwo =>
    rw [imp_false] at notZero notOne notTwo
    exact iff_of_true rfl (by bv_omega)

theorem parsePolarity_eq_none_iff {b : Byte} : parsePolarity b = none ↔ 2 ≤ b.toNat := by
  unfold parsePolarity
  split
  · decide
  · decide
  · next notZero notOne =>
    rw [imp_false] at notZero notOne
    exact iff_of_true rfl (by bv_omega)

theorem eq_of_parseParity {b : Byte} {v : Parity} (named : parseParity b = some v) :
    v = if b = 0 then .none else if b = 1 then .even else .odd := by
  unfold parseParity at named
  split at named <;> cases named <;> rfl

theorem eq_of_parseStops {b : Byte} {v : Bool} (named : parseStops b = some v) : v = (b == 2) := by
  unfold parseStops at named
  split at named <;> cases named <;> rfl

theorem eq_of_parseSource {b : Byte} {v : Source} (named : parseSource b = some v) :
    v = if b = 0 then .cd else if b = 1 then .activity else .either := by
  unfold parseSource at named
  split at named <;> cases named <;> rfl

theorem eq_of_parsePolarity {b : Byte} {v : Polarity} (named : parsePolarity b = some v) :
    v = if b = 0 then .activeHigh else .activeLow := by
  unfold parsePolarity at named
  split at named <;> cases named <;> rfl

/-! ## The window fields (R171) -/

theorem clampPeriod_of_ne_zero {p : Nat} (given : p ≠ 0) : clampPeriod p = min 86400 (max 60 p) := if_neg given

theorem clampPeriod_ne_zero {p : Nat} (given : p ≠ 0) : clampPeriod p ≠ 0 := by
  rw [clampPeriod_of_ne_zero given]
  omega

/-! ## The settings as stored (R93, R103, R138, R157, R171, R180) -/

section
variable {p : SettingsBlock} {g : Settings}

theorem storedSettings_eq_none_iff : storedSettings p = none ↔ parseParity p.parity = none ∨
    parseStops p.stopBits = none ∨ parseSource p.source = none ∨ parsePolarity p.polarity = none := by
  unfold storedSettings
  cases parseParity p.parity with
  | none => simp
  | some _ => cases parseStops p.stopBits with
    | none => simp
    | some _ => cases parseSource p.source with
      | none => simp
      | some _ => cases parsePolarity p.polarity <;> simp

/-- The settings that a block stores: the choices its selectors name, its tuning fields clamped, and its window, the
period first and the offset and the length against it (R171, R180). -/
theorem storedSettings_eq_some (stored : storedSettings p = some g) :
    (parseParity p.parity = some g.parity ∧ parseStops p.stopBits = some g.twoStops ∧
      parseSource p.source = some g.source ∧ parsePolarity p.polarity = some g.polarity) ∧
    (g.divisor = min 511 p.divisor.toNat ∧ g.jamLimit = p.jamLimit.toNat ∧ g.keyUpField = p.keyUpField.toNat ∧
      g.turnField = p.turnField.toNat ∧ g.slotField = max 1 p.slotField.toNat ∧ g.stagger = min 7 p.stagger.toNat ∧
      g.retryBase = max 1 p.retryBase.toNat ∧ g.beaconInterval = min 3600 p.beaconInterval.toNat) ∧
    g.period = clampPeriod p.period.toNat ∧ g.offset = clampOffset g.period p.offset.toNat ∧
      g.length = clampLength g.period p.length.toNat := by
  unfold storedSettings at stored
  split at stored
  · next parity stops source polarity =>
    cases stored
    exact ⟨⟨parity, stops, source, polarity⟩, ⟨rfl, rfl, rfl, rfl, rfl, rfl, rfl, rfl⟩, rfl, rfl, rfl⟩
  · cases stored

theorem storedSettings_noWindow (stored : storedSettings p = some g) (aperiodic : p.period.toNat = 0) :
    g.period = 0 ∧ g.offset = 0 ∧ g.length = 0 := by
  obtain ⟨-, -, period, offset, length⟩ := storedSettings_eq_some stored
  have noPeriod : g.period = 0 := period.trans (if_pos aperiodic)
  exact ⟨noPeriod, offset.trans (if_pos noPeriod), length.trans (if_pos noPeriod)⟩

theorem storedSettings_hasWindow (stored : storedSettings p = some g) (given : p.period.toNat ≠ 0) :
    g.period = min 86400 (max 60 p.period.toNat) ∧ g.offset = min 86399 p.offset.toNat % g.period ∧
      g.length = min g.period (max 1 p.length.toNat) := by
  obtain ⟨-, -, period, offset, length⟩ := storedSettings_eq_some stored
  have hasPeriod : g.period ≠ 0 := period ▸ clampPeriod_ne_zero given
  exact ⟨period.trans (clampPeriod_of_ne_zero given), offset.trans (if_neg hasPeriod), length.trans (if_neg hasPeriod)⟩

end

/-! ## The settings of a disabled channel written (R104) -/

theorem Channel.granted_of_disabled {x : Channel} (disabled : x.enabled = false) : x.granted = .idle := by
  simp only [Channel.granted, disabled]

/-- The arbiter of a disabled channel does not read its settings. -/
theorem Channel.arbitrated_settings {x : Channel} (disabled : x.enabled = false) (g : Settings) :
    { x with settings := g }.arbitrated = { x.arbitrated with settings := g } := by
  cases keyed : x.transmitter.keyed with
  | false =>
    rw [Channel.arbitrated_of_notKeyed keyed, Channel.arbitrated_of_notKeyed (x := { x with settings := g }) keyed,
      Channel.granted_of_disabled disabled, Channel.granted_of_disabled (x := { x with settings := g }) disabled]
  | true => rw [Channel.arbitrated_of_keyed keyed, Channel.arbitrated_of_keyed (x := { x with settings := g }) keyed]

theorem State.AtRest.writeSettings {s : State} {c : Chan} (h : s.AtRest) (disabled : (s.chan c).enabled = false)
    (g : Settings) : (writeSettings g c s).AtRest := fun d => by
  obtain ⟨pause, arbitrated⟩ := h d
  by_cases same : c = d
  · subst same
    rw [Machine.writeSettings, State.chan_updChan_same]
    exact ⟨pause, by rw [Channel.arbitrated_settings disabled, arbitrated]⟩
  · rw [Machine.writeSettings, State.chan_updChan_other s same]
    exact ⟨pause, arbitrated⟩

/-- How a request ends whose effect, whatever it writes, leaves a part at rest at rest (R149, R175). -/
theorem exec_ends_of_keeps_atRest {i : Instr} {effect : State → State} {s u : State}
    (taken : exec i s = .next (takeRequest effect s)) (effect_eq : effect s = u) (keeps : s.AtRest → u.AtRest) :
    ∃ t, exec i s = .next t ∧ s.Ends u t :=
  ⟨_, taken, effect_eq ▸ takeRequest_turned effect s,
    fun rest => (takeRequest_atRest_of_atRest rest (effect_eq ▸ keeps rest)).trans effect_eq⟩

/-! ## Requests on a channel (R104 to R106, R109, R148) -/

theorem onChannel_outside {b : Byte} {s : State} (f : Chan → State → State) (outside : 4 ≤ b.toNat) :
    onChannel b f s = s.answer .badValue [] := by
  simp only [onChannel, parseChannel_eq_none_iff.2 outside]

theorem onChannel_named {b : Byte} {c : Chan} {s : State} (f : Chan → State → State) (channel : b.toNat = c.val) :
    onChannel b f s = f c s := by
  simp only [onChannel, parseChannel_eq_some channel]

/-! ## SET CHANNEL (R104, R180) -/

section
variable {p : SettingsBlock} {g : Settings} {c : Chan} {s : State}

theorem setChannel_badSelector (bad : storedSettings p = none) : setChannel p c s = s.answer .badValue [] := by
  simp only [setChannel, bad]

theorem setChannel_enabled (stored : storedSettings p = some g) (enabled : (s.chan c).enabled = true) :
    setChannel p c s = s.answer .wrongState [] := by
  simp only [setChannel, stored, if_pos enabled]

theorem setChannel_disabled (stored : storedSettings p = some g) (disabled : (s.chan c).enabled = false) :
    setChannel p c s = (writeSettings g c s).answer .done g.bytes := by
  simp only [setChannel, stored, disabled, Bool.false_eq_true, if_false]

/-- Either check of BAD_VALUE refuses SET CHANNEL, whatever the state of the channel (R180). -/
theorem onChannel_setChannel_badValue {b : Byte} (bad : 4 ≤ b.toNat ∨ storedSettings p = none) :
    onChannel b (setChannel p) s = s.answer .badValue [] := by
  cases parsed : parseChannel b with
  | none => exact onChannel_outside _ (parseChannel_eq_none_iff.1 parsed)
  | some c =>
    have channel := parseChannel_eq_some_iff.1 parsed
    have inRange : ¬ 4 ≤ b.toNat := not_le.2 (channel ▸ c.isLt)
    exact (onChannel_named _ channel).trans (setChannel_badSelector (bad.resolve_left inRange))

end

/-- Settles O16: each answer is a branch of `setChannel`, the write keeps a part at rest at rest, and the settings are
told field by field. -/
theorem setChannelWritesSettings : Obligations.SetChannelWritesSettings := by
  refine ⟨fun s b p => ⟨fun c g channel stored disabled => ?_, fun c channel accepted enabled => ?_, fun bad => ?_⟩,
    fun p g stored => ?_⟩
  · exact exec_ends_of_keeps_atRest rfl ((onChannel_named _ channel).trans (setChannel_disabled stored disabled))
      fun rest => rest.writeSettings disabled g
  · obtain ⟨g, stored⟩ := Option.ne_none_iff_exists'.1 accepted
    exact exec_answers rfl ((onChannel_named _ channel).trans (setChannel_enabled stored enabled))
  · rw [← or_assoc (a := p.stopBits.toNat = 0), ← parseParity_eq_none_iff,
      ← parseStops_eq_none_iff, ← parseSource_eq_none_iff, ← parsePolarity_eq_none_iff,
      ← storedSettings_eq_none_iff] at bad
    exact exec_answers rfl (onChannel_setChannel_badValue bad)
  · obtain ⟨⟨parity, stops, source, polarity⟩, ⟨divisor, jamLimit, keyUp, turn, slot, stagger, retryBase, beacon⟩, -⟩ :=
      storedSettings_eq_some stored
    exact ⟨eq_of_parseParity parity, eq_of_parseStops stops, eq_of_parseSource source, eq_of_parsePolarity polarity,
      divisor, jamLimit, keyUp, turn, slot, stagger, retryBase, beacon, storedSettings_noWindow stored,
      storedSettings_hasWindow stored⟩

end Sys2Proof.Machine
end

/-! # What no command touches: the queue of commands; what every command keeps: control frames, tables, directory
(R52 to R60, R82, R86, R129, R158, R168, R169)

`State.standing` is the part of a state that routing, exchanges, gates and receivers leave alone: the directory, the
own-station record, the class table, the Time Base, the queue of commands, and each channel's control frames. Most operations
keep it as it is; an `Invariant` is a predicate that the few others keep as well, and so every command keeps it. -/

section
namespace Sys2Proof.Machine

/-! ## The part of a state that few operations write -/

/-- What only requests, good frames, control frames and the Time Base write. -/
structure Standing where
  stations : Vector (Option Station) 64
  own : OwnStation
  classes : Vector ClassRow 8
  time : TimeBase
  pending : List Instr
  frames : Chan → List ControlFrame × Option Owed

/-- The standing part of a state. -/
def State.standing (s : State) : Standing where
  stations := s.stations
  own := s.own
  classes := s.classes
  time := s.time
  pending := s.pending
  frames c := ((s.chan c).control, (s.chan c).owed)

theorem State.standing_updChan {s : State} {c : Chan} {f : Channel → Channel}
    (same : (f (s.chan c)).control = (s.chan c).control ∧ (f (s.chan c)).owed = (s.chan c).owed) :
    (s.updChan c f).standing = s.standing := by
  have frames : (s.updChan c f).standing.frames = s.standing.frames := funext fun d => by
    by_cases e : c = d
    · subst e
      simp [State.standing, same]
    · simp [State.standing, e]
  exact congrArg (fun g => { s.standing with frames := g }) frames

theorem State.Moved.standing {s t : State} (h : s.Moved t) : t.standing = s.standing := by
  have frames : t.standing.frames = s.standing.frames := funext fun c => by
    have same : (s.chan c).control = (t.chan c).control ∧ (s.chan c).owed = (t.chan c).owed := by rw [← h.chan c]; exact ⟨rfl, rfl⟩
    exact Prod.ext same.1.symm same.2.symm
  rw [show t.standing = { s.standing with frames := t.standing.frames } by
    rw [State.standing, State.standing, ← h.rest], frames]

theorem State.Turned.standing {s t : State} (h : s.Turned t) : t.standing = s.standing := by
  have frames : t.standing.frames = s.standing.frames := funext fun c => by
    have same : (s.chan c).control = (t.chan c).control ∧ (s.chan c).owed = (t.chan c).owed := by
      rw [← (h.chan c).rest]; exact ⟨rfl, rfl⟩
    exact Prod.ext same.1.symm same.2.symm
  rw [show t.standing = { s.standing with frames := t.standing.frames } by
    rw [State.standing, State.standing, ← h.rest], frames]

theorem conclude_standing (s : State) : (conclude s).standing = s.standing := (State.Turned.conclude s).standing

theorem sweep_standing (s : State) : (sweep s).standing = s.standing := (State.Moved.sweep s).standing

theorem considerAll_standing (s : State) : (considerAll s).standing = s.standing := (State.Moved.considerAll s).standing

theorem withdraw_standing (c : Chan) (s : State) : (withdraw c s).standing = s.standing :=
  (State.Moved.withdraw c s).standing

theorem takeRequest_standing (effect : State → State) (s : State) :
    (takeRequest effect s).standing = (effect s).standing := (takeRequest_turned effect s).standing

theorem Channel.gated_frames (x : Channel) : x.gated.control = x.control ∧ x.gated.owed = x.owed := by
  unfold Channel.gated
  split
  · exact ⟨rfl, rfl⟩
  · split <;> exact ⟨rfl, rfl⟩

theorem gate_standing (c : Chan) (s : State) : (gate c s).standing = s.standing :=
  (gate_moved c s).standing.trans (State.standing_updChan (Channel.gated_frames _))

theorem takeJam_standing (c : Chan) (s : State) : (takeJam c s).standing = s.standing := by
  unfold takeJam
  split
  · rw [conclude_standing, sweep_standing, withdraw_standing]
    exact State.standing_updChan ⟨rfl, rfl⟩
  · rfl

theorem concludeLine_standing (c : Chan) (s : State) : (concludeLine c s).standing = s.standing :=
  (conclude_standing _).trans (gate_standing c s)

theorem damaged_standing (c : Chan) (s : State) : (damaged c s).standing = s.standing := by
  have hunt : (setReceiver .hunt c s).standing = s.standing := State.standing_updChan ⟨rfl, rfl⟩
  unfold damaged
  split <;> exact hunt

theorem settleWindow_standing (c : Chan) (s : State) : (settleWindow c s).standing = s.standing := by
  have cleared : (clearWindowDue c s).standing = s.standing := State.standing_updChan ⟨rfl, rfl⟩
  have applied (e : WindowEvent) : (applyWindow e c (clearWindowDue c s)).standing = s.standing := by
    unfold applyWindow
    split
    · split
      · rw [withdraw_standing, cleared]
      · exact cleared
    · exact cleared
  unfold settleWindow
  split
  · exact (conclude_standing _).trans (applied _)
  · rfl

/-! ## Records of the directory whose runtime fields are written (Table 3-1) -/

/-- The counts of a record within their ranges (Table 3-1). -/
def Station.InRange (st : Station) : Prop :=
  st.interval ≤ 3600 ∧ st.heardAge ≤ 65535 ∧ st.confirmCount ≤ 2 ∧ st.holdRemaining ≤ 65535

/-- A record of which only runtime fields are written, the counts kept within their ranges. -/
structure Station.Runs (st r : Station) : Prop where
  call : r.call = st.call
  kind : r.kind = st.kind
  fallback : r.fallback = st.fallback
  inRange : st.InRange → r.InRange

theorem Station.Runs.refl (st : Station) : st.Runs st := ⟨rfl, rfl, rfl, id⟩

theorem Station.ordered_runs {time : Nat} (le : time ≤ 65535) (cutoff : Fin 8) (st : Station) :
    st.Runs (st.ordered time cutoff) := by
  unfold Station.ordered
  split
  · exact ⟨rfl, rfl, rfl, fun ⟨h1, h2, h3, _⟩ => ⟨h1, h2, h3, Nat.zero_le _⟩⟩
  · exact ⟨rfl, rfl, rfl, fun ⟨h1, h2, h3, _⟩ => ⟨h1, h2, h3, le⟩⟩

theorem Station.confirmed_le (st : Station) (gap : Nat) : st.confirmed gap ≤ 2 := by
  unfold Station.confirmed
  split
  · omega
  · split <;> omega

theorem Station.refreshed_runs (st : Station) : st.Runs st.refreshed := by
  unfold Station.refreshed
  split
  · exact ⟨rfl, rfl, rfl, fun ⟨h1, _, h3, h4⟩ => ⟨h1, Nat.zero_le _, h3, h4⟩⟩
  · exact ⟨rfl, rfl, rfl, fun ⟨h1, _, _, h4⟩ => ⟨h1, Nat.zero_le _, st.confirmed_le _, h4⟩⟩

theorem Station.atQuantum_runs (st : Station) : st.Runs st.atQuantum :=
  ⟨rfl, rfl, rfl, fun ⟨h1, h2, h3, h4⟩ => ⟨h1, h2, h3, (Nat.sub_le _ _).trans h4⟩⟩

theorem Station.atSecond_runs (st : Station) : st.Runs st.atSecond :=
  ⟨rfl, rfl, rfl, fun ⟨h1, _, h3, h4⟩ => ⟨h1, Nat.min_le_left _ _, h3, h4⟩⟩

/-- Two states differ in the runtime fields of directory records at most, as far as `State.standing` goes. -/
structure State.StationsRun (s t : State) : Prop where
  rest : { t.standing with stations := s.stations } = s.standing
  records : ∀ i, Option.Rel Station.Runs (s.station i) (t.station i)

/-! ## Invariants -/

/-- A predicate of the standing part of a state that every operation on it keeps. -/
structure Invariant (P : State → Prop) : Prop where
  congr : ∀ {s t : State}, t.standing = s.standing → P s → P t
  tested : ∀ {s t : State}, s.Tested t → P s → P t
  queueOwnHold : ∀ (c : Chan) {s : State}, P s → P (queueOwnHold c s)
  queueReceipt : ∀ (to_ : Call) (key : Key) (v : Verdict) (c : Chan) {s : State}, P s → P (queueReceipt to_ key v c s)
  sendHead : ∀ {c : Chan} {s : State} {f : ControlFrame} {rest : List ControlFrame}, (s.chan c).control = f :: rest →
    P s → P (s.updChan c (Channel.sendHead s.own rest))
  emptied : ∀ (c : Chan) {s : State}, P s → P (s.updChan c fun x => { x with control := [], owed := none })
  runs : ∀ {s t : State}, s.StationsRun t → P s → P t
  backoff : ∀ (i : Index) {s : State}, P s → P (s.updStation i (Station.ordered s.own.fullBackoff 0))
  written : ∀ {s : State} {p : StationBlock} {i : Index} {n : Station}, s.parseStation p = some (i, n) →
    (s.isRelay i = true → n.kind = .direct) → P s → P (s.setStation i (some (writtenStation (s.station i) n)))
  dropped : ∀ {s : State} {i : Index}, s.isRelay i = false → s.isFallback i = false → s.own.defaultRoute ≠ some i →
    P s → P (s.setStation i none)
  own : ∀ {s : State} {p : OwnBlock} {o : OwnStation}, s.givenOwn p = some o → P s → P (writeOwn o s)
  classes : ∀ (p : Fin 8) (limit wait : Nat) {s : State}, P s → P (writeClass p (clampClass limit wait) s)
  time : ∀ {s : State} {x : TimeBase}, (s.time.Kept → x.Kept) → P s → P { s with time := x }
  reset : ∀ {s : State}, P s → P s.resetParts

theorem State.StationsRun.of_updStation (s : State) (i : Index) {f : Station → Station}
    (each : ∀ st, s.station i = some st → st.Runs (f st)) : s.StationsRun (s.updStation i f) := by
  refine ⟨rfl, fun j => ?_⟩
  rw [State.station_updStation]
  split
  · next same =>
    subst same
    cases record : s.station i with
    | none => exact .none
    | some st => exact .some (each st record)
  · cases s.station j with
    | none => exact .none
    | some st => exact .some (.refl st)

theorem State.StationsRun.of_mapVector {s t : State} {f : Station → Station} (each : ∀ st : Station, st.Runs (f st))
    (rest : { t.standing with stations := s.stations } = s.standing)
    (stations : t.stations = mapVector (Option.map f) s.stations) : s.StationsRun t := by
  refine ⟨rest, fun i => ?_⟩
  have record : t.station i = (s.station i).map f := by simp [State.station, stations]
  rw [record]
  cases s.station i with
  | none => exact .none
  | some st => exact .some (each st)

namespace Invariant
variable {P : State → Prop} (inv : Invariant P)
include inv

theorem of_moved {s t : State} (h : s.Moved t) (p : P s) : P t := inv.congr h.standing p

theorem of_turned {s t : State} (h : s.Turned t) (p : P s) : P t := inv.congr h.standing p

theorem updChan {s : State} {c : Chan} {f : Channel → Channel}
    (same : (f (s.chan c)).control = (s.chan c).control ∧ (f (s.chan c)).owed = (s.chan c).owed) (p : P s) :
    P (s.updChan c f) := inv.congr (State.standing_updChan same) p

theorem updStation {s : State} {i : Index} {f : Station → Station} (each : ∀ st, s.station i = some st → st.Runs (f st))
    (p : P s) : P (s.updStation i f) := inv.runs (.of_updStation s i each) p

theorem conclude {s : State} (p : P s) : P (conclude s) := inv.congr (conclude_standing s) p

/-! ### Reception -/

theorem releaseEntry (h : Handle) {s : State} (p : P s) : P (releaseEntry h s) :=
  inv.tested (releaseEntry_tested h s) (inv.congr (s := s) rfl p)

theorem damage (c : Chan) {s : State} (p : P s) : P (damage c s) :=
  inv.tested (damage_tested c s) (inv.congr (damaged_standing c s) p)

theorem setReceiver (r : Receiver) (c : Chan) {s : State} (p : P s) : P (setReceiver r c s) :=
  inv.updChan ⟨rfl, rfl⟩ p

theorem takeGap (c : Chan) {s : State} (p : P s) : P (takeGap c s) := by
  unfold Machine.takeGap
  split
  · exact inv.conclude (inv.congr (gate_standing c _) (inv.damage c (inv.congr (takeJam_standing c s) p)))
  · exact p

theorem settleLine (c : Chan) {s : State} (p : P s) : P (settleLine c s) :=
  inv.takeGap c (inv.congr (takeJam_standing c s) p)

theorem reachChange {s : State} (p : P s) : P (reachChange s) :=
  inv.congr (sweep_standing _) (inv.congr (s := s) rfl p)

theorem loseStation (i : Index) {s : State} (p : P s) : P (loseStation i s) := by
  unfold Machine.loseStation
  split
  · exact inv.reachChange
      (inv.updStation (fun _ _ => ⟨rfl, rfl, rfl, fun ⟨h1, h2, _, h4⟩ => ⟨h1, h2, Nat.zero_le _, h4⟩⟩) p)
  · exact inv.updStation (fun _ _ => ⟨rfl, rfl, rfl, id⟩) p

theorem refreshSender (from_ : Call) {s : State} (p : P s) : P (refreshSender from_ s) := by
  unfold Machine.refreshSender
  split
  · next i _ =>
    have refreshed := inv.updStation (i := i) (fun st _ => st.refreshed_runs) (inv.loseStation i p)
    unfold goodFrameFrom
    simp only
    split
    · exact inv.reachChange refreshed
    · exact refreshed
  · exact p

theorem withdrawIf (test : State → Entry → Bool) (c : Chan) {s : State} (p : P s) : P (withdrawIf test c s) :=
  inv.of_moved (.withdrawIf test c s) p

theorem writeHold {i : Index} {time : Nat} {cutoff : Fin 8} {s : State}
    (p : P (s.updStation i (Station.ordered time cutoff))) : P (writeHold i time cutoff s) :=
  inv.of_moved (writeHold_moved i time cutoff s) p

theorem implicitHold (from_ : Call) {s : State} (p : P s) : P (implicitHold from_ s) := by
  unfold Machine.implicitHold
  split
  · next i _ => exact inv.writeHold (inv.backoff i p)
  · exact p

theorem writeSilence (c : Chan) (time : Nat) (cutoff : Fin 8) {s : State} (p : P s) :
    P (writeSilence c time cutoff s) := by
  have frames (x : Channel) : (x.silenced time cutoff s.time.counter).control = x.control ∧
      (x.silenced time cutoff s.time.counter).owed = x.owed := by
    unfold Channel.silenced
    split
    · exact ⟨rfl, rfl⟩
    · dsimp only
      split <;> exact ⟨rfl, rfl⟩
  unfold Machine.writeSilence
  exact inv.withdrawIf _ c (inv.updChan (frames _) p)

theorem applyHold (c : Chan) (toAll : Bool) (from_ : Call) {time : Nat} (le : time ≤ 65535) (cutoff : Fin 8) {s : State}
    (p : P s) : P (applyHold c toAll from_ time cutoff s) := by
  unfold Machine.applyHold
  split
  · exact p
  · split
    · exact inv.writeSilence c time cutoff p
    · exact inv.writeHold (inv.updStation (fun st _ => st.ordered_runs le cutoff) p)

theorem applyReceipt (key : Key) (v : Verdict) (from_ : Call) {s : State} (p : P s) : P (applyReceipt key v from_ s) := by
  have idle (c : Chan) : P (idleEngine c s) := inv.of_moved (.idleEngine c s) p
  have closes {t : State} {h : Handle} {x : EntryState} {o : LastOutcome} (q : P t) : P (t.closeEntry h x o) :=
    inv.of_moved (.closeEntry t h x o) q
  have awaiting (c : Chan) (h : Handle) : P (receiptAwaiting c h v from_ s) := by
    cases v with
    | accept | duplicate => exact closes (idle c)
    | noroute => exact inv.of_moved (.endRefused _ h) (idle c)
    | full => exact inv.of_moved (.endReturned _ h .full) (inv.implicitHold from_ (idle c))
  have staged (c : Chan) (h : Handle) : P (receiptStaged c h v s) := by
    cases v with
    | accept | duplicate | noroute => exact closes (idle c)
    | full => exact p
  have engaged (h : Handle) : P (receiptEngaged h v from_ s) := by
    unfold receiptEngaged
    split
    · exact p
    · split
      · exact p
      · exact staged _ h
      · exact inv.updChan ⟨rfl, rfl⟩ p
      · exact awaiting _ h
  have late (h : Handle) : P (receiptLate h v s) := by
    have left : P (s.leave h) := inv.of_moved (.leave s h) p
    unfold receiptLate
    split
    · exact closes left
    · exact closes left
    · exact closes left
    all_goals first | exact closes p | exact p
  unfold Machine.applyReceipt
  split
  · exact p
  · split
    · split
      · exact engaged _
      · exact late _
    · exact p

theorem applyTraffic (c : Chan) (r : Receiver) (from_ : Call) (key : Key) {s : State} (p : P s) :
    P (applyTraffic c r from_ key s) := by
  have arrives (h : Handle) : P (arrive h c from_ key s) := by
    unfold arrive
    split
    · split
      · exact inv.queueReceipt _ _ _ _ (inv.of_moved (.place s h) p)
      · exact inv.queueReceipt _ _ _ _ (inv.releaseEntry h p)
    · exact inv.queueReceipt _ _ _ _ (inv.congr (s := s) rfl p)
  unfold Machine.applyTraffic
  split
  · exact arrives _
  · exact inv.queueReceipt _ _ _ _ p
  · exact p

end Invariant

/-- A digit field within a range holds a number in it (R113). -/
theorem parseDigitsIn_range {lo hi n : Nat} {f : List Byte} (parsed : parseDigitsIn lo hi f = some n) :
    lo ≤ n ∧ n ≤ hi := by
  simpa using (Option.filter_eq_some_iff.1 parsed).2

/-- The header of a HOLD carries a time of at most 65,535 (Table 6-1). -/
theorem parsed_hold_le {r : Receiver} {to_ : Address} {from_ : Call} {t : Nat} {k : Fin 8}
    (parsed : r.parsed = some ⟨to_, from_, .hold t k⟩) : t ≤ 65535 := by
  simp only [Receiver.parsed, Option.bind_eq_some_iff, parseHeader, Option.map_eq_some_iff] at parsed
  obtain ⟨kind, -, _, -, _, -, fields, parsedFields, eq⟩ := parsed
  cases eq
  cases kind <;> simp [parseFields, Option.bind_eq_some_iff] at parsedFields
  case hold => exact (parseDigitsIn_range parsedFields.1).2

namespace Invariant
variable {P : State → Prop} (inv : Invariant P)
include inv

theorem completeFrame (c : Chan) {s : State} (p : P s) : P (completeFrame c s) := by
  unfold Machine.completeFrame
  dsimp only
  split
  · exact inv.damage c p
  · next x parsed =>
    have refreshed := inv.refreshSender x.fromCall p
    refine inv.setReceiver _ c ?_
    split
    · unfold applyFrame
      split
      · exact inv.applyTraffic c _ _ _ refreshed
      · exact inv.applyReceipt _ _ _ refreshed
      · next time cutoff fields =>
        have le : time ≤ 65535 := parsed_hold_le (to_ := x.toCall) (from_ := x.fromCall) (k := cutoff) (by
          rw [parsed, ← fields])
        exact inv.applyHold c _ _ le _ refreshed
      · exact refreshed
    · exact refreshed

theorem decideTraffic (c : Chan) (r : Receiver) (prec : Fin 8) (key : Key) (d : Call) (n : Nat) (from_ : Call)
    {s : State} (p : P s) : P (decideTraffic c r prec key d n from_ s) := by
  unfold Machine.decideTraffic
  dsimp only
  split
  · exact inv.setReceiver _ c p
  split
  · exact inv.setReceiver _ c p
  split
  · exact inv.setReceiver _ c p
  split
  · exact inv.setReceiver _ c p
  · next h s1 a =>
    have kept : s1.standing = s.standing := by
      rw [State.standing, State.standing, ← allocate_kept a]
      rfl
    exact inv.tested (.testCongestion _) (inv.setReceiver _ c (inv.congr kept p))

theorem receiveCharacter (c : Chan) (b : Byte) {s : State} (p : P s) : P (receiveCharacter c b s) := by
  have restarts : P (restartFrame c s) := inv.setReceiver _ c (inv.damage c p)
  unfold Machine.receiveCharacter
  split
  · split
    · exact inv.setReceiver _ c p
    · exact p
  · split
    · exact restarts
    · unfold collectHeader
      dsimp only
      split
      · exact inv.damage c p
      · split
        · unfold completeHeader
          split
          · exact inv.damage c p
          · split
            · exact inv.decideTraffic c _ _ _ _ _ _ p
            · exact inv.setReceiver _ c p
          · exact inv.setReceiver _ c p
        · exact inv.setReceiver _ c p
  · split
    · exact restarts
    · unfold collectBody
      dsimp only
      split
      · refine inv.setReceiver _ c (inv.congr ?_ p)
        unfold writeBody
        split <;> rfl
      · exact inv.damage c p
  · split
    · exact restarts
    · unfold collectTail
      dsimp only
      split
      · split
        · exact inv.setReceiver _ c p
        · exact inv.damage c p
      · split
        · exact inv.completeFrame c p
        · exact inv.damage c p

theorem setSampler (x : Sampler) (c : Chan) {s : State} (p : P s) : P (setSampler x c s) := inv.updChan ⟨rfl, rfl⟩ p

theorem damageInProgress (c : Chan) {s : State} (p : P s) : P (damageInProgress c s) := by
  unfold Machine.damageInProgress
  split
  · exact inv.damage c p
  · exact p

theorem concludeLine (c : Chan) {s : State} (p : P s) : P (concludeLine c s) := inv.congr (concludeLine_standing c s) p

/-! ### The transmitter -/

theorem keyFor (what : OnAir) (c : Chan) {s : State} (p : P s) : P (keyFor what c s) := by
  have quiet := inv.damage c (inv.setSampler .lineRecovery c p)
  refine inv.congr (gate_standing c _) ?_
  split
  · exact inv.updChan (f := fun x => { x with transmitter := _ }) ⟨rfl, rfl⟩ quiet
  · exact inv.updChan (f := fun x => { x with transmitter := _ }) ⟨rfl, rfl⟩ quiet

theorem commit (k : Claimant) (c : Chan) {s : State} (p : P s) : P (commit k c s) := by
  unfold Machine.commit
  split
  · split
    · exact p
    · next head => exact inv.keyFor _ c (inv.sendHead head p)
  · exact inv.keyFor _ c (inv.updChan ⟨rfl, rfl⟩ p)
  · split
    · split
      · exact inv.keyFor _ c (inv.updChan ⟨rfl, rfl⟩ p)
      · exact inv.of_moved (.withdraw c s) p
    · exact p

theorem takeKeyUp (c : Chan) {s : State} (p : P s) : P (takeKeyUp c s) := by
  unfold Machine.takeKeyUp
  split
  · exact inv.conclude (inv.commit _ c p)
  · exact p

theorem takeDelayEnd (c : Chan) {s : State} (p : P s) : P (takeDelayEnd c s) := by
  unfold Machine.takeDelayEnd
  split
  · exact inv.updChan (f := fun x => { x with transmitter := _ }) ⟨rfl, rfl⟩ p
  · exact p

theorem releaseKey (c : Chan) {s : State} (p : P s) : P (releaseKey c s) :=
  inv.congr (gate_standing c _) (inv.updChan ⟨rfl, rfl⟩ p)

theorem completeSending (what : OnAir) (c : Chan) {s : State} (p : P s) : P (completeSending what c s) := by
  unfold Machine.completeSending
  split
  · exact p
  · exact inv.updChan ⟨rfl, rfl⟩ p
  · exact inv.updChan ⟨rfl, rfl⟩ p
  · split
    · exact inv.of_moved (.endRecorded _ _ _) (inv.of_moved (.idleEngine c s) p)
    · exact inv.updChan ⟨rfl, rfl⟩ p
    · exact p

theorem takeFrameEnd (c : Chan) {s : State} (p : P s) : P (takeFrameEnd c s) := by
  unfold Machine.takeFrameEnd
  split
  · exact inv.conclude (inv.completeSending _ c (inv.releaseKey c p))
  · exact p

theorem takeBreakEnd (c : Chan) {s : State} (p : P s) : P (takeBreakEnd c s) := by
  unfold Machine.takeBreakEnd
  split
  · split
    · exact inv.conclude (inv.releaseKey c p)
    · exact inv.updChan ⟨rfl, rfl⟩ p
  · exact p

/-! ### Expiries -/

theorem takeTimeout (c : Chan) {s : State} (p : P s) : P (takeTimeout c s) := by
  unfold Machine.takeTimeout
  split
  · next h _ =>
    rw [timeOut_eq]
    exact inv.conclude (inv.congr (s := idleEngine c s) rfl (inv.of_moved (.idleEngine c s) p))
  · exact p

theorem takeRetry (h : Handle) {s : State} (p : P s) : P (takeRetry h s) := by
  unfold Machine.takeRetry
  split
  · exact inv.conclude (inv.of_moved (.place s h) p)
  · exact p

theorem takeBeacon (c : Chan) {s : State} (p : P s) : P (takeBeacon c s) := by
  unfold Machine.takeBeacon
  split
  · refine inv.conclude (inv.updChan ?_ p)
    unfold Channel.beaconFalls
    split <;> exact ⟨rfl, rfl⟩
  · exact p

theorem takeHoldEnd (i : Index) {s : State} (p : P s) : P (takeHoldEnd i s) := by
  unfold Machine.takeHoldEnd
  split
  · exact inv.conclude (inv.updStation (fun _ _ => ⟨rfl, rfl, rfl, id⟩) p)
  · exact p

theorem takeSilenceEnd (c : Chan) {s : State} (p : P s) : P (takeSilenceEnd c s) := by
  unfold Machine.takeSilenceEnd
  split
  · exact inv.conclude (inv.updChan ⟨rfl, rfl⟩ p)
  · exact p

theorem takeRehold (c : Chan) {s : State} (p : P s) : P (takeRehold c s) := by
  have stopped : P (stopRehold c s) := inv.updChan ⟨rfl, rfl⟩ p
  unfold Machine.takeRehold
  split
  · refine inv.conclude ?_
    split
    · exact inv.queueOwnHold c stopped
    · exact stopped
  · exact p

theorem takeOverLimit (i : Index) {s : State} (p : P s) : P (takeOverLimit i s) := by
  unfold Machine.takeOverLimit
  split
  · exact inv.conclude (inv.loseStation i p)
  · exact p

/-! ### The Time Base -/

theorem takeQuantum {s : State} (p : P s) : P (takeQuantum s) := by
  let ended : State := { s with time := { s.time with quantumDue := false } }
  have timed : P ended := inv.time id p
  have frames : (Machine.takeQuantum s).standing.frames = s.standing.frames := funext fun c => by
    simp [State.standing, Machine.takeQuantum, State.chan, Channel.atQuantum]
  have rest : { (Machine.takeQuantum s).standing with stations := ended.stations } = ended.standing :=
    congrArg (fun g => { ended.standing with frames := g }) frames
  exact inv.runs (State.StationsRun.of_mapVector Station.atQuantum_runs rest rfl) timed

theorem takeSecond {s : State} (p : P s) : P (takeSecond s) := by
  let ended : State := { s with time := { s.time with secondDue := false } }
  have timed : P ended := inv.time id p
  have aged : P { ended with stations := mapVector (Option.map Station.atSecond) s.stations } :=
    inv.runs (State.StationsRun.of_mapVector (s := ended) Station.atSecond_runs rfl rfl) timed
  exact inv.of_turned (.arbitrateAll _) (inv.of_turned (.forChans (fun c t => .endPause _ c t) _) aged)

theorem takeClockSecond {s : State} (p : P s) : P (takeClockSecond s) := by
  have timed : P { s with time := { s.time with clockDue := false } } := inv.time id p
  unfold Machine.takeClockSecond
  dsimp only
  split
  · have clocked : P (writeClock (nextSecond s.time.clockSecond) 0 { s with time := { s.time with clockDue := false } }) := by
      refine inv.time (fun ⟨h1, h2, _, _⟩ => ⟨h1, h2, ?_, Nat.zero_le _⟩) timed
      unfold nextSecond
      dsimp only
      split <;> omega
    exact forChans_keeps (fun c t q => inv.updChan ⟨rfl, rfl⟩ q) clocked
  · exact inv.time (fun ⟨h1, h2, h3, h4⟩ => ⟨h1, h2, h3, by simp only at h4 ⊢; omega⟩) timed

theorem settleOnce {s t : State} (p : P s) (e : settleOnce s = some t) : P t :=
  settleOnce_keeps (P := P) (inv.takeClockSecond p) (inv.takeQuantum p) (inv.takeSecond p)
    (fun c => inv.congr (settleWindow_standing c s) p) (fun i => inv.takeHoldEnd i p) (fun c => inv.takeSilenceEnd c p)
    (fun c => inv.takeRehold c p) (fun i => inv.takeOverLimit i p) (fun h => inv.takeRetry h p)
    (fun c => inv.takeBeacon c p) (fun c => inv.takeGap c p) (fun c => inv.congr (takeJam_standing c s) p)
    (fun c => inv.takeTimeout c p) (fun c => inv.takeDelayEnd c p) (fun c => inv.takeFrameEnd c p)
    (fun c => inv.takeBreakEnd c p) (fun c => inv.takeKeyUp c p) t e

end Invariant

theorem TimeBase.Kept.atMs {x : TimeBase} (kept : x.Kept) : x.atMs.Kept := by
  obtain ⟨h1, h2, h3, h4⟩ := kept
  refine ⟨?_, ?_, h3, ?_⟩ <;>
  · unfold TimeBase.atMs
    dsimp only
    split <;> omega

end Sys2Proof.Machine
end

section
namespace Sys2Proof.Machine

namespace Invariant
variable {P : State → Prop} (inv : Invariant P)
include inv

/-! ### Requests on messages -/

theorem answer (r : Result) (d : List Byte) {s : State} (p : P s) : P (s.answer r d) := inv.congr (s := s) rfl p

theorem considerAll {s : State} (p : P s) : P (considerAll s) := inv.congr (considerAll_standing s) p

theorem sweep {s : State} (p : P s) : P (sweep s) := inv.congr (sweep_standing s) p

theorem takeRequest {effect : State → State} {s : State} (p : P (effect s)) : P (takeRequest effect s) :=
  inv.congr (takeRequest_standing effect s) p

theorem onEntry {f : Handle → State → State} (each : ∀ h s, P s → P (f h s)) (b : Byte) {s : State} (p : P s) :
    P (onEntry b f s) := by
  unfold Machine.onEntry
  split
  · exact inv.answer _ _ p
  · exact each _ s p

theorem onChannel {f : Chan → State → State} (each : ∀ c s, P s → P (f c s)) (b : Byte) {s : State} (p : P s) :
    P (onChannel b f s) := by
  unfold Machine.onChannel
  split
  · exact inv.answer _ _ p
  · exact each _ s p

theorem onStation {f : Index → Station → State → State} (each : ∀ i st s, P s → P (f i st s)) (b : Byte) {s : State}
    (p : P s) : P (onStation b f s) := by
  unfold Machine.onStation
  split
  · exact inv.answer _ _ p
  · split
    · exact inv.answer _ _ p
    · exact each _ _ s p

theorem file (b : Byte) (f : CallField) (body : List Byte) {s : State} (p : P s) : P (file b f body s) := by
  unfold Machine.file
  split
  · split
    · exact inv.answer _ _ p
    split
    · exact inv.answer _ _ p
    unfold fileMessage
    split
    · exact inv.answer _ _ p
    · next h s1 a =>
      have kept : s1.standing = s.standing := by
        rw [State.standing, State.standing, ← allocate_kept a]
        rfl
      have tested : P (testCongestion s1) := inv.tested (.testCongestion s1) (inv.congr kept p)
      have given : P (giveSerial h (testCongestion s1)) := inv.congr (s := testCongestion s1) rfl tested
      exact inv.considerAll (inv.answer _ _ (inv.of_moved (.place _ h) given))
  · exact inv.answer _ _ p

theorem amend (b : Byte) (f : CallField) (h : Handle) {s : State} (p : P s) : P (amend b f h s) := by
  unfold Machine.amend
  split
  · split
    · unfold amendEntry
      split
      · have left : P (s.leave h) := inv.of_moved (.leave s h) p
        exact inv.considerAll (inv.answer _ _ (inv.of_moved (.place _ h) (inv.congr (s := s.leave h) rfl left)))
      · exact inv.congr (s := s) rfl p
    · exact inv.answer _ _ p
  · exact inv.answer _ _ p

theorem cancel (h : Handle) {s : State} (p : P s) : P (cancel h s) := by
  have left : P (s.leave h) := inv.of_moved (.leave s h) p
  have idle (c : Chan) : P (idleEngine c s) := inv.of_moved (.idleEngine c s) p
  unfold Machine.cancel
  split
  · exact inv.congr (s := s.leave h) rfl left
  · exact inv.congr (s := s) rfl p
  · unfold cancelEngaged
    split
    · exact inv.answer _ _ p
    · next c _ =>
      split
      · exact inv.considerAll (inv.congr (s := idleEngine c s) rfl (idle c))
      · exact inv.congr (s := s) rfl p
  · exact inv.answer _ _ p

theorem renew (h : Handle) {s : State} (p : P s) : P (renew h s) := by
  unfold Machine.renew
  split
  · exact inv.considerAll (inv.answer _ _ (inv.of_moved (.place _ h) (inv.congr (s := s) rfl p)))
  · exact inv.answer _ _ p

theorem retire (h : Handle) {s : State} (p : P s) : P (retire h s) := by
  unfold Machine.retire
  split
  · exact inv.answer _ _ (inv.tested (retireEntry_tested h s) (inv.congr (s := s) rfl p))
  · exact inv.answer _ _ p

theorem listQueue (b : Byte) (n : Half) {s : State} (p : P s) : P (listQueue b n s) := by
  unfold Machine.listQueue
  split
  · exact inv.answer _ _ p
  · split <;> exact inv.answer _ _ p

theorem find (f : CallField) (n : Half) {s : State} (p : P s) : P (find f n s) := by
  unfold Machine.find
  split
  · exact inv.answer _ _ p
  · split
    · exact inv.answer _ _ p
    · split <;> exact inv.answer _ _ p

theorem nextChanged {s : State} (p : P s) : P (nextChanged s) := by
  unfold Machine.nextChanged
  split
  · exact inv.answer _ _ p
  · exact inv.congr (s := s) rfl p

theorem readText (offset count : Nat) (h : Handle) {s : State} (p : P s) : P (readText offset count h s) := by
  unfold Machine.readText
  split <;> exact inv.answer _ _ p

/-! ### Requests on stations -/

theorem setStation (b : StationBlock) {s : State} (p : P s) : P (setStation b s) := by
  unfold Machine.setStation
  split
  · exact inv.answer _ _ p
  · next i n parsed =>
    split
    · exact inv.answer _ _ p
    · next allowed =>
      have direct : s.isRelay i = true → n.kind = .direct := fun relay => by
        by_contra via
        exact allowed ⟨relay, via⟩
      have written := inv.written parsed direct p
      have flagged (b : Bool) : P { s.setStation i (some (writtenStation (s.station i) n)) with reachChanged := b } :=
        inv.congr (s := s.setStation i (some (writtenStation (s.station i) n))) rfl written
      unfold writeStation answerStation
      refine inv.considerAll ?_
      split <;>
      · refine inv.answer _ _ (inv.sweep ?_)
        split
        · exact flagged true
        · exact written

theorem dropStation (i : Index) {s : State} (p : P s) : P (dropStation i s) := by
  unfold Machine.dropStation
  split
  · exact inv.answer _ _ p
  · next free =>
    simp only [not_or, Bool.not_eq_true] at free
    obtain ⟨noRelay, noFallback, noRoute⟩ := free
    exact inv.considerAll (inv.answer _ _ (inv.sweep (inv.dropped noRelay noFallback noRoute p)))

theorem forceStation (v : Bool) (i : Index) (st : Station) {s : State} (p : P s) : P (forceStation v i st s) := by
  unfold Machine.forceStation
  split
  · exact inv.answer _ _ p
  · exact inv.considerAll (inv.answer _ _ (inv.sweep (inv.updStation (fun _ _ => ⟨rfl, rfl, rfl, id⟩) p)))

/-! ### Requests on channels -/

theorem setChannel (b : SettingsBlock) (c : Chan) {s : State} (p : P s) : P (setChannel b c s) := by
  unfold Machine.setChannel
  split
  · exact inv.answer _ _ p
  · split
    · exact inv.answer _ _ p
    · exact inv.answer _ _ (inv.updChan ⟨rfl, rfl⟩ p)

theorem readChannel (c : Chan) {s : State} (p : P s) : P (readChannel c s) := by
  refine inv.answer _ _ ?_
  unfold drawBeacon
  split
  · exact inv.congr (s := s) rfl p
  · exact p

theorem enableChannel (c : Chan) {s : State} (p : P s) : P (enableChannel c s) := by
  unfold Machine.enableChannel
  split
  · exact inv.answer _ _ p
  split
  · exact inv.answer _ _ p
  have started : P (s.updChan c (Channel.started s.time.counter)) := inv.updChan ⟨rfl, rfl⟩ p
  refine inv.answer _ _ (inv.considerAll (inv.sweep ?_))
  unfold holdIfCongested
  split
  · exact inv.queueOwnHold c started
  · exact started

theorem endExchange (c : Chan) {s : State} (p : P s) : P (endExchange c s) := inv.of_moved (.endExchange c s) p

theorem cutTransmitter (c : Chan) {s : State} (p : P s) : P (cutTransmitter c s) := inv.updChan ⟨rfl, rfl⟩ p

/-- An update that empties a channel's control frames, whatever else it writes. -/
theorem empties {s : State} {c : Chan} {f : Channel → Channel}
    (empty : (f (s.chan c)).control = [] ∧ (f (s.chan c)).owed = none) (p : P s) : P (s.updChan c f) := by
  refine inv.congr ?_ (inv.emptied c p)
  have same : (s.updChan c f).standing.frames =
      (s.updChan c fun x => { x with control := [], owed := none }).standing.frames := funext fun d => by
    by_cases e : c = d
    · subst e
      simp [State.standing, empty]
    · simp [State.standing, e]
  exact congrArg (fun g => { s.standing with frames := g }) same

theorem disableChannel (c : Chan) {s : State} (p : P s) : P (disableChannel c s) := by
  unfold Machine.disableChannel
  split
  · have marked : P (markDisabled c (takeJam c s)) := inv.updChan ⟨rfl, rfl⟩ (inv.congr (takeJam_standing c s) p)
    have damaged := inv.damage c (inv.cutTransmitter c (inv.endExchange c marked))
    exact inv.considerAll (inv.answer _ _ (inv.sweep (inv.empties ⟨rfl, rfl⟩ damaged)))
  · exact inv.answer _ _ p

theorem abortChannel (c : Chan) {s : State} (p : P s) : P (abortChannel c s) := by
  have cut : P (cutExchange c s) := by
    unfold cutExchange
    split
    · exact inv.cutTransmitter c p
    · exact p
  have paused : P (setPause c (Machine.endExchange c (cutExchange c s))) :=
    inv.updChan ⟨rfl, rfl⟩ (inv.endExchange c cut)
  unfold Machine.abortChannel
  split
  · exact inv.answer _ _ p
  · exact inv.considerAll (inv.answer _ _ (inv.congr (gate_standing c _) paused))

theorem clearChannels {s : State} (p : P s) : P (clearChannels s) := by
  have jams : P (forChans takeJam s) := forChans_keeps (fun c t q => inv.congr (takeJam_standing c t) q) p
  have clears (c : Chan) (t : State) (q : P t) : P (ifEnabled clearChannel c t) := by
    unfold ifEnabled
    split
    · refine inv.empties ⟨rfl, rfl⟩ ?_
      have cut := inv.cutTransmitter c (inv.endExchange c q)
      unfold releaseQuietly
      split
      · exact inv.tested (.markCongestion _) (inv.congr (s := Machine.cutTransmitter c (Machine.endExchange c t)) rfl cut)
      · exact cut
    · exact q
  unfold Machine.clearChannels
  split
  · refine inv.considerAll (inv.answer _ _ (inv.sweep ?_))
    have cleared := forChans_keeps clears jams
    unfold clearFrames
    split
    · exact inv.tested (.forChans (State.Tested.ifEnabled fun _ _ en => .queueOwnHold en) _) cleared
    split
    · exact inv.tested (.forChans (State.Tested.ifEnabled fun _ _ en => .queueOwnRelease en) _) cleared
    · exact cleared
  · exact inv.answer _ _ p

/-! ### Requests on the part -/

theorem setClass (b l w : Byte) {s : State} (p : P s) : P (setClass b l w s) := by
  unfold Machine.setClass
  split
  · exact inv.answer _ _ p
  · exact inv.considerAll (inv.answer _ _ (inv.classes _ _ _ p))

theorem setOwn (b : OwnBlock) {s : State} (p : P s) : P (setOwn b s) := by
  unfold Machine.setOwn
  split
  · exact inv.answer _ _ p
  · next given =>
    split
    · exact inv.answer _ _ p
    · refine inv.considerAll (inv.answer _ _ ?_)
      have tested := inv.tested (.testCongestion _) (inv.own given p)
      unfold sweepIfRouted
      split
      · exact tested
      · exact inv.sweep tested

theorem readStatus {s : State} (p : P s) : P (readStatus s) :=
  inv.answer _ _ (forChans_keeps (fun _ _ q => inv.updChan ⟨rfl, rfl⟩ q) (inv.congr (s := s) rfl p))

theorem applyWindow (e : WindowEvent) (c : Chan) {s : State} (p : P s) : P (applyWindow e c s) := by
  unfold Machine.applyWindow
  split
  · split
    · exact inv.of_moved (.withdraw c s) p
    · exact p
  · exact p

theorem setClock (n : Quad) {s : State} (p : P s) : P (setClock n s) := by
  unfold Machine.setClock
  split
  · exact inv.answer _ _ p
  · next within =>
    have settled : P (Machine.forChans settleWindow s) :=
      forChans_keeps (fun c t q => inv.congr (settleWindow_standing c t) q) p
    have clocked : P (writeClock n.toNat 0 (Machine.forChans settleWindow s)) :=
      inv.time (fun ⟨h1, h2, _, _⟩ => ⟨h1, h2, not_lt.1 within, Nat.zero_le _⟩) settled
    refine inv.considerAll (inv.answer _ _ (forChans_keeps (fun c t q => ?_) clocked))
    split
    · exact inv.applyWindow _ c q
    · exact q

theorem clearAll {s : State} (p : P s) : P (clearAll s) := by
  refine inv.congr ?_ (inv.reset p)
  have frames : (Machine.clearAll s).standing.frames = s.resetParts.standing.frames := funext fun c => by
    simp [State.standing, Machine.clearAll, State.resetParts, State.chan, Channel.afterClearAll]
  exact congrArg (fun g => { s.resetParts.standing with frames := g }) frames

theorem tick {s : State} (p : P s) : P (tick s) := by
  have timed : P { s with time := s.time.atMs } := inv.time TimeBase.Kept.atMs p
  refine inv.congr (s := { s with time := s.time.atMs }) ?_ timed
  have frames : (Machine.tick s).standing.frames = s.standing.frames := funext fun c => by
    simp [State.standing, Machine.tick, State.chan, Channel.atMs]
  exact congrArg (fun g => { s.standing with time := s.time.atMs, frames := g }) frames

/-! ### Commands -/

/-- Every command keeps an invariant. -/
theorem exec {i : Instr} {s t : State} (p : P s) (run : exec i s = .next t) : P t := by
  have settled : P (settle s) := settle_keeps (fun _ _ q e => inv.settleOnce q e) p
  cases i <;> obtain rfl := Host.Outcome.next.inj run
  case file => exact inv.takeRequest (inv.file _ _ _ p)
  case readEntry => exact inv.takeRequest (inv.onEntry (fun _ _ q => inv.answer _ _ q) _ p)
  case readText => exact inv.takeRequest (inv.onEntry (fun _ _ q => inv.readText _ _ _ q) _ p)
  case find => exact inv.takeRequest (inv.find _ _ p)
  case nextChanged => exact inv.takeRequest (inv.nextChanged p)
  case listQueue => exact inv.takeRequest (inv.listQueue _ _ p)
  case amend => exact inv.takeRequest (inv.onEntry (fun _ _ q => inv.amend _ _ _ q) _ p)
  case cancel => exact inv.takeRequest (inv.onEntry (fun _ _ q => inv.cancel _ q) _ p)
  case renew => exact inv.takeRequest (inv.onEntry (fun _ _ q => inv.renew _ q) _ p)
  case retire => exact inv.takeRequest (inv.onEntry (fun _ _ q => inv.retire _ q) _ p)
  case setStation => exact inv.takeRequest (inv.setStation _ p)
  case readStation => exact inv.takeRequest (inv.onStation (fun _ _ _ q => inv.answer _ _ q) _ p)
  case dropStation => exact inv.takeRequest (inv.onStation (fun _ _ _ q => inv.dropStation _ q) _ p)
  case forceStation =>
    refine inv.takeRequest ?_
    split
    · exact inv.answer _ _ p
    · exact inv.onStation (fun _ _ _ q => inv.forceStation _ _ _ q) _ p
  case setChannel => exact inv.takeRequest (inv.onChannel (fun _ _ q => inv.setChannel _ _ q) _ p)
  case readChannel => exact inv.takeRequest (inv.onChannel (fun _ _ q => inv.readChannel _ q) _ p)
  case enableChannel => exact inv.takeRequest (inv.onChannel (fun _ _ q => inv.enableChannel _ q) _ p)
  case disableChannel => exact inv.takeRequest (inv.onChannel (fun _ _ q => inv.disableChannel _ q) _ p)
  case abortChannel => exact inv.takeRequest (inv.onChannel (fun _ _ q => inv.abortChannel _ q) _ p)
  case setClass => exact inv.takeRequest (inv.setClass _ _ _ p)
  case setOwn => exact inv.takeRequest (inv.setOwn _ p)
  case readStatus => exact inv.takeRequest (inv.readStatus p)
  case setClock => exact inv.takeRequest (inv.setClock _ p)
  case readClock => exact inv.takeRequest (inv.answer _ _ p)
  case clearChannels => exact inv.takeRequest (inv.clearChannels p)
  case clearAll => exact inv.takeRequest (inv.clearAll p)
  case readFrame => exact p
  case badFrame => exact inv.answer _ _ p
  case powerOn => exact inv.reset p
  case resetPin => exact inv.reset p
  case goodCharacter c x =>
    split
    · exact inv.concludeLine c (inv.receiveCharacter c _ (inv.setSampler _ c (inv.settleLine c p)))
    · exact p
  case characterError c x =>
    split
    · exact inv.concludeLine c (inv.damageInProgress c (inv.setSampler _ c (inv.settleLine c p)))
    · exact p
  case breakReceived c =>
    split
    · exact inv.concludeLine c (inv.damageInProgress c (inv.setSampler _ c (inv.settleLine c p)))
    · exact p
  case cdInputChange c v =>
    exact inv.concludeLine c (inv.updChan ⟨rfl, rfl⟩ (inv.congr (takeJam_standing c s) p))
  case millisecondAdvance => exact inv.tick settled
  case quantum =>
    split
    · exact inv.takeQuantum p
    · exact p
  case timeBaseSecond =>
    split
    · exact inv.takeSecond p
    · exact p
  case clockSecond =>
    split
    · exact inv.takeClockSecond p
    · exact p
  case windowOpenEvent c | windowCloseEvent c =>
    unfold takeWindowIf
    split
    · exact inv.conclude (inv.applyWindow _ c (inv.updChan ⟨rfl, rfl⟩ p))
    · exact p
  case keyUp => exact inv.takeKeyUp _ p
  case keyUpDelayEnd => exact inv.takeDelayEnd _ p
  case frameEnd => exact inv.takeFrameEnd _ p
  case breakEnd => exact inv.takeBreakEnd _ p
  case receiptTimeout => exact inv.takeTimeout _ p
  case retryWaitExpiry => exact inv.takeRetry _ p
  case beaconDue => exact inv.takeBeacon _ p
  case holdExpiry => exact inv.takeHoldEnd _ p
  case silenceExpiry => exact inv.takeSilenceEnd _ p
  case reHoldExpiry => exact inv.takeRehold _ p
  case gapExpiry => exact inv.takeGap _ p
  case jammed c => exact inv.congr (takeJam_standing c s) p
  case heardAgeOverLimit => exact inv.takeOverLimit _ p
  case startBit =>
    split
    · exact inv.setSampler _ _ p
    · exact p
  case shortPulse =>
    split
    · exact inv.setSampler _ _ p
    · exact p
  case lineRecoveryEnd =>
    split
    · exact inv.setSampler _ _ p
    · exact p

/-- Every step keeps an invariant that does not read the queue of commands. -/
theorem step (apart : ∀ {s : State} {q : List Instr}, P s → P (s.withPending q)) {s t : State} (p : P s)
    (run : step s = .next t) : P t := by
  unfold Machine.step at run
  split at run
  · exact Host.Outcome.next.inj run ▸ p
  · exact inv.exec (apart p) run

end Invariant
end Sys2Proof.Machine
end

section
namespace Sys2Proof.Machine

/-! ## The queue of commands (note 1) -/

/-- The queue of commands is part of what only arrivals write. -/
theorem invariant_pending (q : List Instr) : Invariant fun s => s.pending = q where
  congr same p := (congrArg Standing.pending same).trans p
  tested h p := by rw [← p, ← h.rest]
  queueOwnHold _ _ p := p
  queueReceipt _ _ _ _ _ p := p
  sendHead _ p := p
  emptied _ _ p := p
  runs h p := (congrArg Standing.pending h.rest :).trans p
  backoff _ _ p := p
  written _ _ p := p
  dropped _ _ _ p := p
  own _ p := p
  classes _ _ _ _ p := p
  time _ p := p
  reset p := p

/-- Every command answers a next state. -/
theorem exec_next (i : Instr) (s : State) : ∃ t, exec i s = .next t := by
  cases i <;> exact ⟨_, rfl⟩

/-- Settles O54: no command is refused, and the queue of commands is an invariant. -/
theorem everyCommandCompletes : Obligations.EveryCommandCompletes := by
  intro i s
  obtain ⟨t, run⟩ := exec_next i s
  exact ⟨t, run, (invariant_pending s.pending).exec rfl run⟩

/-- Settles O53: both sides are `step` with its queue written out. -/
theorem stepRunsFrontCommand : Obligations.StepRunsFrontCommand := fun _ _ _ => ⟨rfl, rfl⟩

/-! ## Control frames (R86, R129) -/

theorem State.ControlKept.of_frames {s t : State} (h : s.ControlKept)
    (same : ∀ c, (t.chan c).control = (s.chan c).control ∧ (t.chan c).owed = (s.chan c).owed) : t.ControlKept :=
  fun c => by
    obtain ⟨control, owed⟩ := same c
    rw [Channel.ControlKept, control, owed]
    exact h c

theorem State.ControlKept.updChan {s : State} (h : s.ControlKept) {c : Chan} {f : Channel → Channel}
    (kept : (s.chan c).ControlKept → (f (s.chan c)).ControlKept) : (s.updChan c f).ControlKept := fun d => by
  rw [State.chan_updChan]
  split
  · exact kept (h c)
  · exact h d

theorem ownCount_cons (f : ControlFrame) (q : List ControlFrame) :
    ownCount (f :: q) = ownCount q + (if f.isOwn then 1 else 0) := by
  cases own : f.isOwn <;> simp [ownCount, own]

/-- A receipt joins behind fewer than four frames, and the owed mark then is not set (R128, R129). -/
theorem Channel.ControlKept.receipt {x : Channel} (h : x.ControlKept) (to_ : Call) (key : Key) (v : Verdict)
    (room : x.control.length < Config.controlRoom) :
    ({ x with control := x.control ++ [.receipt to_ key v] } : Channel).ControlKept := by
  obtain ⟨length, own, owed⟩ := h
  refine ⟨?_, ?_, fun mark => ?_⟩
  · simp only [List.length_append, List.length_singleton]
    exact room
  · rw [ownCount_append]
    exact own
  · have full := (owed mark).1
    omega

/-- The frame that leaves the queue makes room for the one owed (R86, R129). -/
theorem Channel.ControlKept.sendHead {x : Channel} {f : ControlFrame} {rest : List ControlFrame} (h : x.ControlKept)
    (head : x.control = f :: rest) (own : OwnStation) : (x.sendHead own rest).ControlKept := by
  obtain ⟨length, count, owed⟩ := h
  have shorter : rest.length + 1 ≤ Config.controlRoom := by simpa [head] using length
  rw [head, ownCount_cons] at count
  have joins (time : Nat) (mark : x.owed ≠ none) :
      ({ x with control := rest ++ [.ownHold time own.holdCutoff], owed := none } : Channel).ControlKept := by
    have none : ownCount rest = 0 := by
      have all := (owed mark).2
      rw [head, ownCount_cons] at all
      omega
    refine ⟨by simpa using shorter, ?_, fun set => absurd rfl set⟩
    rw [ownCount_append, none]
    exact Nat.le_refl 1
  unfold Channel.sendHead
  split
  · next mark =>
    refine ⟨by dsimp only; omega, by dsimp only; omega, fun set => absurd mark set⟩
  · next mark => exact joins _ (by rw [mark]; exact nofun)
  · next mark => exact joins _ (by rw [mark]; exact nofun)

theorem Channel.controlKept_of_empty {x : Channel} (control : x.control = []) (owed : x.owed = none) :
    x.ControlKept := by
  rw [Channel.ControlKept, control, owed]
  exact ⟨Nat.zero_le _, Nat.zero_le _, fun set => absurd rfl set⟩

theorem State.resetParts_chan (s : State) (c : Chan) :
    s.resetParts.chan c = { Channel.reset with cdPin := (s.chan c).cdPin } := by
  simp [State.resetParts, State.chan]

theorem invariant_controlKept : Invariant State.ControlKept where
  congr same h := h.of_frames fun c =>
    have pair := congrFun (congrArg Standing.frames same) c
    ⟨congrArg Prod.fst pair, congrArg Prod.snd pair⟩
  tested tested h := fun c => tested.kept c (h c)
  queueOwnHold _ _ h := h.updChan (Channel.queueOwn_controlKept _ _ _)
  queueReceipt to_ key v _ _ h := h.updChan fun kept => by
    split
    · exact kept.receipt to_ key v ‹_›
    · exact kept
  sendHead head h := h.updChan fun kept => kept.sendHead head _
  emptied _ _ h := h.updChan fun _ => Channel.controlKept_of_empty rfl rfl
  runs run h := h.of_frames fun c =>
    have pair := congrFun (congrArg Standing.frames run.rest) c
    ⟨congrArg Prod.fst pair, congrArg Prod.snd pair⟩
  backoff _ _ h := h
  written _ _ h := h
  dropped _ _ _ h := h
  own _ h := h
  classes _ _ _ _ h := h
  time _ h := h
  reset _ := fun c => by
    rw [State.resetParts_chan]
    exact Channel.controlKept_of_empty rfl rfl

/-- Settles O56: the rules of the control frames are an invariant. -/
theorem controlFramesKept : Obligations.ControlFramesKept := fun _ _ kept run =>
  invariant_controlKept.step (fun h => h) kept run

/-! ## Thresholds, class rows and the Time Base (R82, R158, R168, R169) -/

theorem State.TablesKept.of_same {s t : State} (h : s.TablesKept) (own : t.own = s.own) (classes : t.classes = s.classes)
    (time : t.time = s.time) : t.TablesKept := by
  obtain ⟨ordered, rows, counts⟩ := h
  refine ⟨own ▸ ordered, fun p => ?_, time ▸ counts⟩
  have row : t.classRow p = s.classRow p := by rw [State.classRow, classes, State.classRow]
  rw [row]
  exact rows p

theorem State.TablesKept.of_standing {s t : State} (h : s.TablesKept) (same : t.standing = s.standing) : t.TablesKept :=
  h.of_same (congrArg Standing.own same) (congrArg Standing.classes same) (congrArg Standing.time same)

theorem clampClass_kept (limit wait : Nat) : 1 ≤ (clampClass limit wait).retryLimit ∧
    (clampClass limit wait).retryLimit ≤ 15 ∧ (clampClass limit wait).baseWait ≤ 15 := by
  unfold clampClass
  dsimp only
  omega

theorem State.classRow_writeClass (s : State) (p q : Fin 8) (r : ClassRow) :
    (writeClass p r s).classRow q = if p = q then r else s.classRow q := by
  simp [State.classRow, writeClass, Vector.getElem_set, Fin.ext_iff]

theorem reset_tablesKept : State.reset.TablesKept := by
  refine ⟨by simp [OwnStation.Ordered, State.reset, OwnStation.reset], fun p => ?_, ?_⟩
  · revert p
    decide
  · simp [TimeBase.Kept, State.reset, TimeBase.reset]

theorem invariant_tablesKept : Invariant State.TablesKept where
  congr same h := h.of_standing same
  tested tested h := by
    have rest := tested.rest
    exact h.of_same (congrArg State.own rest :) (congrArg State.classes rest :) (congrArg State.time rest :)
  queueOwnHold _ _ h := h
  queueReceipt _ _ _ _ _ h := h
  sendHead _ h := h
  emptied _ _ h := h
  runs run h := h.of_same (congrArg Standing.own run.rest :) (congrArg Standing.classes run.rest :)
    (congrArg Standing.time run.rest :)
  backoff _ _ h := h
  written _ _ h := h
  dropped _ _ _ h := h
  own given h := ⟨State.givenOwn_ordered given, h.2.1, h.2.2⟩
  classes p limit wait s h := ⟨h.1, fun q => by
    rw [State.classRow_writeClass]
    split
    · exact clampClass_kept limit wait
    · exact h.2.1 q, h.2.2⟩
  time kept h := ⟨h.1, h.2.1, kept h.2.2⟩
  reset _ := reset_tablesKept.of_same rfl rfl rfl

/-! ## The Station Directory (R52 to R57, R60) -/

/-- What the directory's rules read of a state (Tables 3-1 and 3-2). -/
theorem State.DirectoryKept.of_same {s t : State} (h : s.DirectoryKept) (stations : t.stations = s.stations)
    (own : t.own = s.own) : t.DirectoryKept := by
  have station : t.station = s.station := funext fun i => by rw [State.station, stations, State.station]
  obtain ⟨h1, h2, h3, h4, h5, h6, h7, h8⟩ := h
  constructor <;> simp only [station, own] <;> assumption

/-- A record before and after runtime fields were written. -/
theorem State.StationsRun.before {s t : State} (run : s.StationsRun t) {i : Index} {r : Station}
    (record : t.station i = some r) : ∃ st, s.station i = some st ∧ st.Runs r := by
  have related := run.records i
  rw [record] at related
  cases before : s.station i with
  | none => rw [before] at related; cases related
  | some st =>
    rw [before] at related
    cases related with
    | some runs => exact ⟨st, rfl, runs⟩

theorem State.StationsRun.after {s t : State} (run : s.StationsRun t) {i : Index} {st : Station}
    (record : s.station i = some st) : ∃ r, t.station i = some r ∧ st.Runs r := by
  have related := run.records i
  rw [record] at related
  cases after : t.station i with
  | none => rw [after] at related; cases related
  | some r =>
    rw [after] at related
    cases related with
    | some runs => exact ⟨r, rfl, runs⟩

theorem State.DirectoryKept.of_runs {s t : State} (h : s.DirectoryKept) (run : s.StationsRun t) : t.DirectoryKept := by
  have own : t.own = s.own := (congrArg Standing.own run.rest :)
  constructor
  case calls =>
    intro i r record
    obtain ⟨st, before, runs⟩ := run.before record
    rw [runs.call, own]
    exact h.calls i st before
  case distinct =>
    intro i j r q record record' same
    obtain ⟨st, before, runs⟩ := run.before record
    obtain ⟨st', before', runs'⟩ := run.before record'
    exact h.distinct i j st st' before before' (by rw [← runs.call, ← runs'.call, same])
  case relays =>
    intro i r relay record via
    obtain ⟨st, before, runs⟩ := run.before record
    obtain ⟨d, direct, kind⟩ := h.relays i st relay before (runs.kind ▸ via)
    obtain ⟨d', after, runs'⟩ := run.after direct
    exact ⟨d', after, runs'.kind.trans kind⟩
  case fallbacks =>
    intro i r j record fallback
    obtain ⟨st, before, runs⟩ := run.before record
    obtain ⟨other, d, occupied⟩ := h.fallbacks i st j before (runs.fallback ▸ fallback)
    obtain ⟨d', after, -⟩ := run.after occupied
    exact ⟨other, d', after⟩
  case defaultRoute =>
    intro i route
    obtain ⟨st, occupied⟩ := h.defaultRoute i (own ▸ route)
    obtain ⟨d', after, -⟩ := run.after occupied
    exact ⟨d', after⟩
  case ownCall => exact own ▸ h.ownCall
  case ranges =>
    intro i r record
    obtain ⟨st, before, runs⟩ := run.before record
    exact runs.inRange (h.ranges i st before)
  case ownRanges => exact own ▸ h.ownRanges

/-- A call that a field parses to is valid (R112). -/
theorem parseCall_valid {f : List Byte} {c : Call} (parsed : parseCall f = some c) : c.valid = true := by
  simp only [parseCall, Option.ite_none_right_eq_some] at parsed
  obtain ⟨⟨length, nonempty, chars, -⟩, eq⟩ := parsed
  cases eq
  have short : (f.takeWhile (· ≠ space)).length ≤ 8 :=
    (List.takeWhile_prefix _).length_le.trans length.le
  simp only [Call.valid, Bool.and_eq_true, decide_eq_true_eq]
  exact ⟨⟨nonempty, short⟩, chars⟩

theorem valid_ne_nil {c : Call} (valid : c.valid = true) : c ≠ [] := by
  rintro rfl
  exact absurd valid (by decide)

/-- The record that SET STATION leaves has the configured fields of the new one, and runtime counts in range (R56). -/
theorem writtenStation_fields (old : Option Station) (n : Station) :
    (writtenStation old n).call = n.call ∧ (writtenStation old n).kind = n.kind ∧
      (writtenStation old n).fallback = n.fallback ∧ (writtenStation old n).interval = n.interval := by
  unfold writtenStation
  split
  · split <;> exact ⟨rfl, rfl, rfl, rfl⟩
  · exact ⟨rfl, rfl, rfl, rfl⟩

theorem writtenStation_inRange {old : Option Station} {n : Station} (before : ∀ st, old = some st → st.InRange)
    (new_ : n.InRange) : (writtenStation old n).InRange := by
  have interval := new_.1
  unfold writtenStation
  split
  · next st =>
    obtain ⟨-, age, count, hold⟩ := before st rfl
    split
    · refine ⟨interval, age, ?_, hold⟩
      unfold Station.rewritten
      dsimp only
      split
      · exact Nat.zero_le _
      · exact count
    · exact new_
  · exact new_

/-- What the parsers of SET STATION check of a new record against the directory (R55, Table 3-3). -/
theorem State.parseStation_fits {s : State} {p : StationBlock} {i : Index} {n : Station}
    (parsed : s.parseStation p = some (i, n)) : n.call.valid = true ∧ n.call ≠ s.own.call ∧
      (∀ j st, s.station j = some st → st.call = n.call → j = i) ∧
      (∀ r, n.kind = .via r → r ≠ i ∧ ∃ d, s.station r = some d ∧ d.kind = .direct) ∧
      (∀ j, n.fallback = some j → j ≠ i ∧ ∃ r, s.station j = some r) ∧ n.InRange := by
  simp only [State.parseStation, Option.bind_eq_some_iff, Option.ite_none_left_eq_some, Option.map_eq_some_iff, not_or,
    Bool.not_eq_true] at parsed
  obtain ⟨_, index, call, call_eq, ⟨notOwn, notTaken⟩, channel, -, net, -, kind, kind_eq, fallback, fallback_eq, record⟩ :=
    parsed
  cases record
  refine ⟨parseCall_valid call_eq, notOwn, fun j st occupied same => ?_, fun r via => ?_, fun j given => ?_,
    Nat.min_le_left _ _, Nat.zero_le _, Nat.zero_le _, Nat.zero_le _⟩
  · by_contra other
    have taken : s.callTaken i call = true := State.callTaken_iff.2 ⟨j, st, occupied, same, other⟩
    rw [taken] at notTaken
    cases notTaken
  · unfold State.kindOf at kind_eq
    split at kind_eq
    · cases kind_eq
    · rw [← Option.some_inj.1 kind_eq] at via
      cases via
    · obtain ⟨relay, -, accepted⟩ := Option.bind_eq_some_iff.1 kind_eq
      obtain ⟨⟨other, direct⟩, eq⟩ := Option.ite_none_right_eq_some.1 accepted
      have same : relay = r := by
        rw [← Option.some_inj.1 eq] at via
        exact Kind.via.inj via
      subst same
      obtain ⟨d, occupied, kind⟩ := Option.any_eq_true _ _ |>.1 direct
      exact ⟨other, d, occupied, by simpa using kind⟩
  · unfold State.fallbackOf at fallback_eq
    split at fallback_eq
    · rw [← Option.some_inj.1 fallback_eq] at given
      cases given
    · obtain ⟨k, -, accepted⟩ := Option.bind_eq_some_iff.1 fallback_eq
      obtain ⟨⟨other, occupied⟩, eq⟩ := Option.ite_none_right_eq_some.1 accepted
      have same : k = j := by
        rw [← Option.some_inj.1 eq] at given
        exact Option.some_inj.1 given
      subst same
      exact ⟨other, Option.isSome_iff_exists.1 occupied⟩

theorem State.DirectoryKept.written {s : State} (h : s.DirectoryKept) {p : StationBlock} {i : Index} {n : Station}
    (parsed : s.parseStation p = some (i, n)) (direct : s.isRelay i = true → n.kind = .direct) :
    (s.setStation i (some (writtenStation (s.station i) n))).DirectoryKept := by
  obtain ⟨valid, notOwn, alone, relay, fallback, inRange⟩ := State.parseStation_fits parsed
  obtain ⟨call, kind, back, -⟩ := writtenStation_fields (s.station i) n
  have written := writtenStation_inRange (h.ranges i) inRange
  generalize writtenStation (s.station i) n = w at call kind back written
  have read (j : Index) (r : Station) (record : (s.setStation i (some w)).station j = some r) :
      (j = i ∧ r = w) ∨ (j ≠ i ∧ s.station j = some r) := by
    rw [State.station_setStation] at record
    split at record
    · next e => exact .inl ⟨e.symm, (Option.some_inj.1 record).symm⟩
    · next e => exact .inr ⟨fun same => e same.symm, record⟩
  have stays (j : Index) (occupied : ∃ r, s.station j = some r) : ∃ r, (s.setStation i (some w)).station j = some r := by
    rw [State.station_setStation]
    split
    · exact ⟨w, rfl⟩
    · exact occupied
  constructor
  case calls =>
    intro j r record
    rcases read j r record with ⟨-, rfl⟩ | ⟨-, record⟩
    · rw [call]
      exact ⟨valid, notOwn⟩
    · exact h.calls j r record
  case distinct =>
    intro j k r q record record' same
    rcases read j r record with ⟨rfl, rfl⟩ | ⟨other, before⟩
    · rcases read k q record' with ⟨rfl, rfl⟩ | ⟨-, before'⟩
      · rfl
      · exact (alone k q before' (same.symm.trans call)).symm
    · rcases read k q record' with ⟨rfl, rfl⟩ | ⟨-, before'⟩
      · exact absurd (alone j r before (same.trans call)) other
      · exact h.distinct j k r q before before' same
  case relays =>
    intro j r k record via
    rcases read j r record with ⟨rfl, rfl⟩ | ⟨-, record⟩
    · obtain ⟨other, d, occupied, direct'⟩ := relay k (kind ▸ via)
      exact ⟨d, by rw [State.station_setStation, if_neg (Ne.symm other), occupied], direct'⟩
    · obtain ⟨d, occupied, direct'⟩ := h.relays j r k record via
      rw [State.station_setStation]
      split
      · next same =>
        subst same
        exact ⟨w, rfl, kind.trans (direct (State.isRelay_iff.2 ⟨j, r, record, via⟩))⟩
      · exact ⟨d, occupied, direct'⟩
  case fallbacks =>
    intro j r k record given
    rcases read j r record with ⟨rfl, rfl⟩ | ⟨-, record⟩
    · obtain ⟨other, occupied⟩ := fallback k (back ▸ given)
      exact ⟨other, stays k occupied⟩
    · obtain ⟨other, occupied⟩ := h.fallbacks j r k record given
      exact ⟨other, stays k occupied⟩
  case defaultRoute => exact fun j route => stays j (h.defaultRoute j route)
  case ownCall => exact h.ownCall
  case ranges =>
    intro j r record
    rcases read j r record with ⟨-, rfl⟩ | ⟨-, record⟩
    · exact written
    · exact h.ranges j r record
  case ownRanges => exact h.ownRanges

theorem State.isFallback_iff {s : State} {i : Index} :
    s.isFallback i = true ↔ ∃ j st, s.station j = some st ∧ st.fallback = some i := by
  simp only [State.isFallback, List.any_eq_true, Option.any_eq_true, decide_eq_true_eq, Vector.mem_toList_iff,
    Vector.mem_iff_getElem, State.station]
  exact ⟨fun ⟨_, ⟨j, lt, e⟩, st, record, given⟩ => ⟨⟨j, lt⟩, st, by rw [← record, ← e], given⟩,
    fun ⟨j, st, record, given⟩ => ⟨_, ⟨j.val, j.isLt, rfl⟩, st, record, given⟩⟩

theorem State.DirectoryKept.dropped {s : State} (h : s.DirectoryKept) {i : Index} (noRelay : s.isRelay i = false)
    (noFallback : s.isFallback i = false) (noRoute : s.own.defaultRoute ≠ some i) :
    (s.setStation i none).DirectoryKept := by
  have read {j : Index} {r : Station} (record : (s.setStation i none).station j = some r) : s.station j = some r := by
    rw [State.station_setStation] at record
    split at record
    · cases record
    · exact record
  have stays {j : Index} (other : j ≠ i) : (s.setStation i none).station j = s.station j := by
    rw [State.station_setStation, if_neg (Ne.symm other)]
  constructor
  case calls => exact fun j r record => h.calls j r (read record)
  case distinct => exact fun j k r q record record' => h.distinct j k r q (read record) (read record')
  case relays =>
    intro j r k record via
    have other : k ≠ i := by
      rintro rfl
      rw [State.isRelay_iff.2 ⟨j, r, read record, via⟩] at noRelay
      cases noRelay
    rw [stays other]
    exact h.relays j r k (read record) via
  case fallbacks =>
    intro j r k record given
    have other : k ≠ i := by
      rintro rfl
      rw [State.isFallback_iff.2 ⟨j, r, read record, given⟩] at noFallback
      cases noFallback
    rw [stays other]
    exact h.fallbacks j r k (read record) given
  case defaultRoute =>
    intro j route
    rw [stays fun same => noRoute (same ▸ route)]
    exact h.defaultRoute j route
  case ownCall => exact h.ownCall
  case ranges => exact fun j r record => h.ranges j r (read record)
  case ownRanges => exact h.ownRanges

theorem tunedField_range {p : OwnBlock} {bit lo hi given old : Nat} (new_ : lo ≤ given ∧ given ≤ hi)
    (stands : lo ≤ old ∧ old ≤ hi) : lo ≤ tunedField p bit given old ∧ tunedField p bit given old ≤ hi := by
  unfold tunedField
  split
  · exact new_
  · exact stands

theorem State.DirectoryKept.own {s : State} (h : s.DirectoryKept) {p : OwnBlock} {o : OwnStation}
    (given : s.givenOwn p = some o) : (writeOwn o s).DirectoryKept := by
  obtain ⟨call, route, -, -, -, -, -, -, time, -, lead, backoff⟩ := State.givenOwn_eq_some given
  have calls : (o.call = [] ∨ o.call.valid = true) ∧ ∀ i st, s.station i = some st → st.call ≠ o.call := by
    cases gives : givesField p 0 with
    | false =>
      rw [eq_of_givenField_kept gives call]
      exact ⟨h.ownCall, fun i st record => (h.calls i st record).2⟩
    | true =>
      have field := eq_of_givenField_given gives call
      unfold State.givenCall at field
      split at field
      · rw [← Option.some_inj.1 field]
        exact ⟨.inl rfl, fun i st record => valid_ne_nil (h.calls i st record).1⟩
      · obtain ⟨parsed, free⟩ := Option.filter_eq_some_iff.1 field
        exact ⟨.inr (parseCall_valid parsed), State.findStation_eq_none_iff.1 (Option.isNone_iff_eq_none.1 free)⟩
  have routes : ∀ i, o.defaultRoute = some i → ∃ st, s.station i = some st := by
    intro i named
    cases gives : givesField p 1 with
    | false =>
      rw [eq_of_givenField_kept gives route] at named
      exact h.defaultRoute i named
    | true =>
      have field := eq_of_givenField_given gives route
      rw [named] at field
      unfold State.givenRoute at field
      split at field
      · cases field
      · obtain ⟨j, parsed, eq⟩ := Option.map_eq_some_iff.1 field
        cases eq
        exact Option.isSome_iff_exists.1 (Option.filter_eq_some_iff.1 parsed).2
  obtain ⟨times, leads, low, high⟩ := h.ownRanges
  have half (x : Half) : 1 ≤ max 1 x.toNat ∧ max 1 x.toNat ≤ 65535 := by omega
  have byte (x : Byte) : 1 ≤ max 1 x.toNat ∧ max 1 x.toNat ≤ 255 := by omega
  exact ⟨fun i st record => ⟨(h.calls i st record).1, calls.2 i st record⟩, h.distinct, h.relays, h.fallbacks, routes,
    calls.1, h.ranges, time ▸ tunedField_range (half _) times, lead ▸ tunedField_range (byte _) leads,
    backoff ▸ tunedField_range (half _) ⟨low, high⟩⟩

theorem reset_directoryKept : State.reset.DirectoryKept := by
  have empty (i : Index) : State.reset.station i = none := by simp [State.station, State.reset]
  have none (i : Index) (st : Station) : State.reset.station i ≠ some st := by rw [empty]; exact nofun
  exact ⟨fun i st record => absurd record (none i st), fun i _ st _ record => absurd record (none i st),
    fun i st _ record => absurd record (none i st), fun i st _ record => absurd record (none i st), nofun, .inl rfl,
    fun i st record => absurd record (none i st), by decide⟩

theorem invariant_directoryKept : Invariant State.DirectoryKept where
  congr same h := h.of_same (congrArg Standing.stations same) (congrArg Standing.own same)
  tested tested h := by
    have rest := tested.rest
    exact h.of_same (congrArg State.stations rest :) (congrArg State.own rest :)
  queueOwnHold _ _ h := h.of_same rfl rfl
  queueReceipt _ _ _ _ _ h := h.of_same rfl rfl
  sendHead _ h := h.of_same rfl rfl
  emptied _ _ h := h.of_same rfl rfl
  runs run h := h.of_runs run
  backoff i s h := h.of_runs (.of_updStation s i fun st _ => st.ordered_runs h.ownRanges.2.2.2 0)
  written parsed direct h := h.written parsed direct
  dropped noRelay noFallback noRoute h := h.dropped noRelay noFallback noRoute
  own given h := h.own given
  classes _ _ _ _ h := h.of_same rfl rfl
  time _ h := h.of_same rfl rfl
  reset _ := reset_directoryKept.of_same rfl rfl

/-- The next hop through a station is a DIRECT record: the station itself or its relay (R53, R62). -/
theorem State.DirectoryKept.hopVia {s : State} (h : s.DirectoryKept) {i j : Index} (hop : s.hopVia i = some j) :
    ∃ st, s.station j = some st ∧ st.kind = .direct := by
  obtain ⟨st, record, usable⟩ := Option.bind_eq_some_iff.1 hop
  obtain ⟨-, eq⟩ := Option.ite_none_right_eq_some.1 usable
  cases kind : st.kind with
  | direct =>
    rw [hopOf, kind] at eq
    exact Option.some_inj.1 eq ▸ ⟨st, record, kind⟩
  | via r =>
    rw [hopOf, kind] at eq
    exact Option.some_inj.1 eq ▸ h.relays i st r record kind

/-- Settles O58: both parts are invariants, and a resolution answers the hop of a candidate or of its fallback. -/
theorem tablesKept : Obligations.TablesKept := by
  refine ⟨fun s t kept run => invariant_tablesKept.step (fun h => h.of_same rfl rfl rfl) kept run,
    fun s t kept run => invariant_directoryKept.step (fun h => h.of_same rfl rfl) kept run, fun s d i kept found => ?_⟩
  unfold State.resolve at found
  split at found
  · cases found
  · obtain ⟨j, -, found⟩ := Option.bind_eq_some_iff.1 found
    split at found
    · next hop => exact kept.hopVia (hop.trans found)
    · obtain ⟨k, -, hop⟩ := Option.bind_eq_some_iff.1 found
      exact kept.hopVia hop

end Sys2Proof.Machine
end

/-! # A disabled channel stays quiet, and an enabled one listens as it must (R99 to R103, R107)

Inside a command one channel's gate may still have to be evaluated: `Channel.Ajar` is what such a channel keeps, and
`State.ListensBut` is `State.Listening` with one channel ajar. The gate closes it. -/

section
namespace Sys2Proof.Machine

/-! ## One channel -/

/-- What a channel keeps while its gate has still to be evaluated: all of `Channel.Quiet` and `Channel.Listening` but busy as
the inputs stand. -/
def Channel.Ajar (x : Channel) : Prop :=
  x.Quiet ∧ (x.enabled = true →
    (x.busy = true → x.clearTime = 0) ∧ (x.busy = false → x.busyLength = 0) ∧ (x.jammed = true → x.busy = true) ∧
    (x.transmitter.keyed = true → x.receiver = .hunt ∧ x.sampler = .lineRecovery))

theorem Channel.busyNow_of_disabled {x : Channel} (off : x.enabled = false) : x.busyNow = false := by
  simp [Channel.busyNow, off]

/-- A channel with its gate evaluated is one that listens as it must. -/
theorem Channel.listens_iff {x : Channel} : x.Quiet ∧ x.Listening ↔ x.Ajar ∧ x.busy = x.busyNow := by
  constructor
  · intro ⟨quiet, listening⟩
    refine ⟨⟨quiet, fun on => (listening on).2⟩, ?_⟩
    cases enabled : x.enabled with
    | true => exact (listening enabled).1
    | false =>
      rw [(quiet enabled).2.2.1, Channel.busyNow_of_disabled enabled]
  · rintro ⟨⟨quiet, rest⟩, busy⟩
    exact ⟨quiet, fun on => ⟨busy, rest on⟩⟩

/-- An enabled channel need not be quiet. -/
theorem Channel.Ajar.of_enabled {x : Channel} (enabled : x.enabled = true)
    (kept : (x.busy = true → x.clearTime = 0) ∧ (x.busy = false → x.busyLength = 0) ∧ (x.jammed = true → x.busy = true) ∧
      (x.transmitter.keyed = true → x.receiver = .hunt ∧ x.sampler = .lineRecovery)) : x.Ajar :=
  ⟨fun off => absurd (enabled.symm.trans off) (by decide), fun _ => kept⟩

theorem Channel.Ajar.clear {x : Channel} (h : x.Ajar) (off : x.enabled = false) : x.busy = false := by
  obtain ⟨-, -, clear, -⟩ := h.1 off
  exact clear

theorem Channel.Ajar.hunts {x : Channel} (h : x.Ajar) (off : x.enabled = false) : x.receiver = .hunt := by
  obtain ⟨-, hunt, -⟩ := h.1 off
  exact hunt

/-- A keyed radio that does not send a break is an enabled channel's (R107). -/
theorem Channel.Ajar.enabled_of_keyed {x : Channel} (h : x.Ajar) (keyed : x.transmitter.keyed = true)
    (noBreak : x.transmitter.breakRemaining = none) : x.enabled = true := by
  by_contra off
  obtain ⟨-, -, -, -, -, -, -, -, -, -, -, -, -, -, brk⟩ := h.1 (Bool.not_eq_true _ ▸ off)
  have some := brk keyed
  rw [noBreak] at some
  cases some

theorem Channel.Ajar.enabled_of_engine {x : Channel} (h : x.Ajar) (runs : x.engine ≠ .idle) : x.enabled = true := by
  by_contra off
  obtain ⟨-, -, -, -, -, -, -, -, -, -, -, -, idle, -⟩ := h.1 (Bool.not_eq_true _ ▸ off)
  exact runs idle

theorem Channel.Ajar.enabled_of_rehold {x : Channel} (h : x.Ajar) (runs : x.rehold ≠ none) : x.enabled = true := by
  by_contra off
  obtain ⟨-, -, -, -, -, -, -, -, -, -, stopped, -⟩ := h.1 (Bool.not_eq_true _ ▸ off)
  exact runs stopped

/-- The end of a command keeps what a channel keeps (R107, R142). -/
theorem Channel.Ajar.sameLine {x y : Channel} (h : x.Ajar) (line : x.SameLine y)
    (idle : x.enabled = false → x.engine = .idle → y.engine = .idle) : y.Ajar := by
  obtain ⟨rest, onAir, pause⟩ := line
  have keyed := onAir.keyed
  obtain ⟨quiet, gate⟩ := h
  have onBreak : y.transmitter.keyed = true → x.transmitter = y.transmitter := fun on => by
    rcases onAir with same | ⟨-, off⟩
    · exact same
    · rw [off] at on; cases on
  have enabled : x.enabled = y.enabled := by rw [← rest]
  refine ⟨fun off => ?_, fun on => ?_⟩
  · obtain ⟨h1, h2, h3, h4, h5, h6, h7, h8, h9, h10, h11, h12, h13, h14, h15⟩ := quiet (enabled.trans off)
    have engine := idle (enabled.trans off) h13
    have noPause : y.abortPause = false := by
      rw [← Bool.not_eq_true]
      intro set
      rw [pause set] at h14
      cases h14
    clear idle pause
    rw [← rest] at h1 h2 h3 h4 h5 h6 h7 h8 h9 h10 h11 h12
    exact ⟨h1, h2, h3, h4, h5, h6, h7, h8, h9, h10, h11, h12, engine, noPause, fun set => by
      rw [← onBreak set]
      exact h15 (keyed ▸ set)⟩
  · obtain ⟨h1, h2, h3, h4⟩ := gate (enabled.trans on)
    rw [← keyed] at h4
    rw [← rest] at h1 h2 h3 h4
    exact ⟨h1, h2, h3, h4⟩

theorem Channel.SameLine.busyNow {x y : Channel} (h : x.SameLine y) : y.busyNow = x.busyNow := by
  have keyed := h.onAir.keyed
  rw [Channel.busyNow, keyed, ← h.rest]
  rfl

/-- The test of congestion keeps what a channel keeps (R107). -/
theorem Channel.Ajar.sameButOwn {x y : Channel} (h : x.Ajar) (own : x.SameButOwn y) (bare : x.StaysBare y) : y.Ajar := by
  obtain ⟨quiet, gate⟩ := h
  have enabled : x.enabled = y.enabled := own.enabled.symm
  refine ⟨fun off => ?_, fun on => ?_⟩
  · obtain ⟨h1, h2, h3, h4, h5, h6, h7, h8, h9, h10, h11, h12, h13, h14, h15⟩ := quiet (enabled.trans off)
    obtain ⟨control, owed, rehold⟩ := bare (enabled.trans off) h7 h8 h11
    clear bare
    rw [← own] at h1 h2 h3 h4 h5 h6 h9 h10 h12 h13 h14 h15
    exact ⟨h1, h2, h3, h4, h5, h6, control, owed, h9, h10, rehold, h12, h13, h14, h15⟩
  · have kept := gate (enabled.trans on)
    rw [← own] at kept
    exact kept

theorem Channel.SameButOwn.busyNow {x y : Channel} (h : x.SameButOwn y) : y.busyNow = x.busyNow := by rw [← h]; rfl

/-- What an enabled channel's gate reads and writes, the CD pin and the carrier's settings among it. -/
structure Channel.SameGate (x y : Channel) : Prop where
  enabled : y.enabled = x.enabled
  settings : y.settings = x.settings
  cdPin : y.cdPin = x.cdPin
  sampler : y.sampler = x.sampler
  busy : y.busy = x.busy
  clearTime : y.clearTime = x.clearTime
  busyLength : y.busyLength = x.busyLength
  jammed : y.jammed = x.jammed
  receiver : y.receiver = x.receiver
  keyed : y.transmitter.keyed = x.transmitter.keyed

theorem Channel.SameGate.ajar {x y : Channel} (same : x.SameGate y) (on : x.enabled = true) (h : x.Ajar) : y.Ajar := by
  obtain ⟨enabled, -, -, sampler, busy, clearTime, busyLength, jammed, receiver, keyed⟩ := same
  refine .of_enabled (enabled.trans on) ?_
  rw [sampler, busy, clearTime, busyLength, jammed, receiver, keyed]
  exact h.2 on

theorem Channel.SameGate.busyNow {x y : Channel} (same : x.SameGate y) : y.busyNow = x.busyNow := by
  obtain ⟨enabled, settings, cdPin, -, -, -, -, -, receiver, keyed⟩ := same
  simp only [Channel.busyNow, Channel.carrier, Channel.cdActive, Channel.receiving, enabled, settings, cdPin, receiver,
    keyed]

/-! ## The part -/

/-- `State.Listening`, but for the gate of one channel, which has still to be evaluated. -/
def State.ListensBut (ajar : Option Chan) (s : State) : Prop :=
  ∀ d, (s.chan d).Ajar ∧ (ajar ≠ some d → (s.chan d).busy = (s.chan d).busyNow)

theorem State.listensBut_none {s : State} : s.ListensBut none ↔ s.Listening := by
  refine forall_congr' fun d => Iff.trans ?_ Channel.listens_iff.symm
  exact and_congr_right fun _ => ⟨fun h => h nofun, fun h _ => h⟩

namespace State.ListensBut
variable {o : Option Chan} {s t : State}

theorem ajar (h : s.ListensBut o) (d : Chan) : (s.chan d).Ajar := (h d).1

theorem but (h : s.ListensBut none) (c : Chan) : s.ListensBut (some c) := fun d => ⟨(h d).1, fun _ => (h d).2 nofun⟩

theorem congr (h : s.ListensBut o) (same : t.channels = s.channels) : t.ListensBut o := fun d => by
  rw [State.chan, same]
  exact h d

theorem turned (h : s.ListensBut o) (turned : s.Turned t) : t.ListensBut o := fun d => by
  have line := turned.chan d
  refine ⟨(h d).1.sameLine line (turned.idle d), fun shut => ?_⟩
  rw [line.busy, line.busyNow]
  exact (h d).2 shut

theorem moved (h : s.ListensBut o) (moved : s.Moved t) : t.ListensBut o := fun d => by
  have line := (moved.chan d).sameLine
  refine ⟨(h d).1.sameLine line (moved.idle d), fun shut => ?_⟩
  rw [line.busy, line.busyNow]
  exact (h d).2 shut

theorem tested (h : s.ListensBut o) (tested : s.Tested t) : t.ListensBut o := fun d => by
  have own := tested.chan d
  refine ⟨(h d).1.sameButOwn own (tested.bare d), fun shut => ?_⟩
  rw [own.busy, own.busyNow]
  exact (h d).2 shut

/-- An update of one channel that keeps what it keeps, and its gate evaluated unless it stands ajar. -/
theorem updChan (h : s.ListensBut o) {c : Chan} {f : Channel → Channel} (kept : (s.chan c).Ajar → (f (s.chan c)).Ajar)
    (shut : o ≠ some c → (s.chan c).busy = (s.chan c).busyNow → (f (s.chan c)).busy = (f (s.chan c)).busyNow) :
    (s.updChan c f).ListensBut o := fun d => by
  rw [State.chan_updChan]
  split
  · next same =>
    subst same
    exact ⟨kept (h c).1, fun other => shut other ((h c).2 other)⟩
  · exact h d

/-- An update of an enabled channel that leaves its gate alone. -/
theorem enabledChan (h : s.ListensBut o) {c : Chan} {f : Channel → Channel} (on : (s.chan c).enabled = true)
    (same : (s.chan c).SameGate (f (s.chan c))) : (s.updChan c f).ListensBut o :=
  h.updChan (same.ajar on) fun _ busy => by rw [same.busy, same.busyNow]; exact busy

/-- An update of the channel that stands ajar. -/
theorem ajarChan {c : Chan} (h : s.ListensBut (some c)) {f : Channel → Channel}
    (kept : (s.chan c).Ajar → (f (s.chan c)).Ajar) : (s.updChan c f).ListensBut (some c) :=
  h.updChan kept fun other => absurd rfl other

/-- An update with which the gate of the channel that stood ajar is evaluated. -/
theorem shuts {c : Chan} (h : s.ListensBut (some c)) {f : Channel → Channel}
    (kept : (s.chan c).Ajar → (f (s.chan c)).Ajar) (busy : (f (s.chan c)).busy = (f (s.chan c)).busyNow) :
    (s.updChan c f).ListensBut none := fun d => by
  rw [State.chan_updChan]
  split
  · next same =>
    subst same
    exact ⟨kept (h c).1, fun _ => busy⟩
  · next other => exact ⟨(h d).1, fun _ => (h d).2 fun same => other (Option.some_inj.1 same)⟩

end State.ListensBut

theorem Channel.Ajar.gated {x : Channel} (h : x.Ajar) : x.gated.Ajar := by
  unfold Channel.gated
  split
  · exact h
  · next differs =>
    have on : x.enabled = true := by
      by_contra off
      have off' := Bool.not_eq_true _ ▸ off
      exact differs ((Channel.busyNow_of_disabled off').trans (h.clear off').symm)
    obtain ⟨-, -, -, echo⟩ := h.2 on
    split
    · exact .of_enabled on ⟨fun _ => rfl, nofun, fun _ => rfl, echo⟩
    · exact .of_enabled on ⟨nofun, fun _ => rfl, nofun, echo⟩

/-- The gate evaluated: the channel that stood ajar listens as it must (R100 to R103). -/
theorem State.ListensBut.gate {c : Chan} {s : State} (h : s.ListensBut (some c)) : (gate c s).ListensBut none :=
  (h.shuts (fun kept => kept.gated) ((Channel.gated_busy _).trans (Channel.gated_busyNow _).symm)).moved (gate_moved c s)

namespace State.ListensBut
variable {o : Option Chan} {s t : State}

theorem conclude (h : s.ListensBut o) : (conclude s).ListensBut o := h.turned (.conclude s)

theorem sweep (h : s.ListensBut o) : (sweep s).ListensBut o := h.moved (.sweep s)

theorem considerAll (h : s.ListensBut o) : (considerAll s).ListensBut o := h.moved (.considerAll s)

theorem takeRequest {effect : State → State} (h : (effect s).ListensBut o) : (takeRequest effect s).ListensBut o :=
  h.turned (takeRequest_turned effect s)

/-- A receiver in HUNT is what every channel may have, as long as its gate is evaluated after it. -/
theorem damaged {c : Chan} (h : s.ListensBut (some c)) : (damaged c s).ListensBut (some c) := by
  have hunts : (setReceiver .hunt c s).ListensBut (some c) := h.ajarChan fun kept => by
    obtain ⟨quiet, gate⟩ := kept
    refine ⟨fun off => ?_, fun on => ?_⟩
    · obtain ⟨h1, -, rest⟩ := quiet off
      exact ⟨h1, rfl, rest⟩
    · obtain ⟨h1, h2, h3, h4⟩ := gate on
      exact ⟨h1, h2, h3, fun keyed => ⟨rfl, (h4 keyed).2⟩⟩
  unfold Machine.damaged
  split
  · exact hunts.congr rfl
  · exact hunts

theorem damage {c : Chan} (h : s.ListensBut (some c)) : (damage c s).ListensBut (some c) :=
  h.damaged.tested (damage_tested c s)

theorem takeJam (h : s.ListensBut none) (c : Chan) : (takeJam c s).ListensBut none := by
  unfold Machine.takeJam
  split
  · next reached =>
    simp only [Channel.jamReached, Bool.and_eq_true] at reached
    obtain ⟨⟨⟨on, busy⟩, -⟩, -⟩ := reached
    have marked : (s.updChan c Channel.jam).ListensBut none := by
      refine h.updChan (fun kept => ?_) fun _ busy => busy
      obtain ⟨h1, h2, -, h4⟩ := kept.2 on
      exact .of_enabled on ⟨h1, h2, fun _ => busy, h4⟩
    exact ((marked.moved (.withdraw c _)).moved (.sweep _)).conclude
  · exact h

theorem takeGap (h : s.ListensBut none) (c : Chan) : (takeGap c s).ListensBut none := by
  unfold Machine.takeGap
  split
  · exact ((h.takeJam c).but c).damage.gate.conclude
  · exact h

theorem settleLine (h : s.ListensBut none) (c : Chan) : (settleLine c s).ListensBut none := (h.takeJam c).takeGap c

end State.ListensBut

/-! ## What settling a line leaves of its sampler -/

/-- The sampler of a channel, and whether it is enabled. -/
def State.side (s : State) (c : Chan) : Bool × Sampler := ((s.chan c).enabled, (s.chan c).sampler)

theorem State.Turned.side {s t : State} (h : s.Turned t) (c : Chan) : t.side c = s.side c :=
  Prod.ext (h.chan c).enabled (h.chan c).sampler

theorem State.Moved.side {s t : State} (h : s.Moved t) (c : Chan) : t.side c = s.side c :=
  Prod.ext (h.chan c).enabled (h.chan c).sameLine.sampler

theorem State.side_updChan {s : State} {c d : Chan} {f : Channel → Channel}
    (same : (f (s.chan c)).enabled = (s.chan c).enabled ∧ (f (s.chan c)).sampler = (s.chan c).sampler) :
    (s.updChan c f).side d = s.side d := by
  rw [State.side, State.chan_updChan]
  split
  · next e => exact e ▸ Prod.ext same.1 same.2
  · rfl

theorem damage_side (c d : Chan) (s : State) : (damage c s).side d = s.side d := by
  have own := damage_chan c d s
  have hunt : (setReceiver .hunt c s).side d = s.side d := State.side_updChan ⟨rfl, rfl⟩
  exact (Prod.ext own.enabled own.sampler : _ = (setReceiver .hunt c s).side d).trans hunt

theorem gate_side (c d : Chan) (s : State) : (gate c s).side d = s.side d := by
  refine ((gate_moved c s).side d).trans (State.side_updChan ?_)
  unfold Channel.gated
  split
  · exact ⟨rfl, rfl⟩
  · split <;> exact ⟨rfl, rfl⟩

theorem takeJam_side (c d : Chan) (s : State) : (takeJam c s).side d = s.side d := by
  unfold takeJam
  split
  · rw [(State.Turned.conclude _).side, (State.Moved.sweep _).side, (State.Moved.withdraw c _).side]
    exact State.side_updChan ⟨rfl, rfl⟩
  · rfl

theorem settleLine_side (c d : Chan) (s : State) : (settleLine c s).side d = s.side d := by
  unfold settleLine takeGap
  split
  · rw [(State.Turned.conclude _).side, gate_side, damage_side, takeJam_side, takeJam_side]
  · exact takeJam_side c d s

/-! ## Reception -/

/-- A channel ajar whose receive side takes a character: enabled, and its radio not keyed (R99). -/
structure State.Receives (c : Chan) (s : State) : Prop where
  listens : s.ListensBut (some c)
  enabled : (s.chan c).enabled = true
  unkeyed : (s.chan c).transmitter.keyed = false

namespace State.Receives
variable {c : Chan} {s t : State}

theorem moved (h : s.Receives c) (moved : s.Moved t) : t.Receives c :=
  ⟨h.listens.moved moved, (moved.chan c).enabled.trans h.enabled,
    ((moved.chan c).sameLine.onAir.keyed).trans h.unkeyed⟩

theorem tested (h : s.Receives c) (tested : s.Tested t) : t.Receives c :=
  ⟨h.listens.tested tested, (tested.chan c).enabled.trans h.enabled, by rw [← h.unkeyed, ← tested.chan c]⟩

theorem congr (h : s.Receives c) (same : t.channels = s.channels) : t.Receives c :=
  ⟨h.listens.congr same, by rw [State.chan, same]; exact h.enabled, by rw [State.chan, same]; exact h.unkeyed⟩

theorem updChan (h : s.Receives c) {f : Channel → Channel}
    (same : ({ s.chan c with receiver := (f (s.chan c)).receiver } : Channel).SameGate (f (s.chan c))) :
    (s.updChan c f).Receives c := by
  obtain ⟨enabled, -, -, -, busy, clearTime, busyLength, jammed, -, keyed⟩ := same
  have unkeyed := keyed.trans h.unkeyed
  refine ⟨h.listens.ajarChan fun kept => ?_, ?_, ?_⟩
  · obtain ⟨h1, h2, h3, -⟩ := kept.2 h.enabled
    refine .of_enabled (enabled.trans h.enabled) ⟨?_, ?_, ?_, fun on => by rw [unkeyed] at on; cases on⟩
    · rw [busy, clearTime]; exact h1
    · rw [busy, busyLength]; exact h2
    · rw [busy, jammed]; exact h3
  · rw [State.chan_updChan_same]; exact enabled.trans h.enabled
  · rw [State.chan_updChan_same]; exact unkeyed

theorem setReceiver (h : s.Receives c) (r : Receiver) : (setReceiver r c s).Receives c :=
  h.updChan ⟨rfl, rfl, rfl, rfl, rfl, rfl, rfl, rfl, rfl, rfl⟩

theorem damage (h : s.Receives c) : (damage c s).Receives c := by
  have freed : (damaged c s).Receives c := by
    unfold damaged
    split
    · exact (h.setReceiver .hunt).congr rfl
    · exact h.setReceiver .hunt
  exact freed.tested (damage_tested c s)

theorem releaseEntry (h : s.Receives c) (k : Handle) : (releaseEntry k s).Receives c :=
  State.Receives.tested (s := freeEntry k s) (h.congr rfl) (releaseEntry_tested k s)

theorem queueReceipt (h : s.Receives c) (to_ : Call) (key : Key) (v : Verdict) : (queueReceipt to_ key v c s).Receives c := by
  refine h.updChan ?_
  split <;> exact ⟨rfl, rfl, rfl, rfl, rfl, rfl, rfl, rfl, rfl, rfl⟩

theorem updStation (h : s.Receives c) (i : Index) (f : Station → Station) : (s.updStation i f).Receives c := h.congr rfl

theorem reachChange (h : s.Receives c) : (reachChange s).Receives c :=
  State.Receives.moved (s := { s with reachChanged := true }) (h.congr rfl) (.sweep _)

theorem loseStation (h : s.Receives c) (i : Index) : (loseStation i s).Receives c := by
  unfold Machine.loseStation
  split
  · exact (h.updStation i _).reachChange
  · exact h.updStation i _

theorem refreshSender (h : s.Receives c) (from_ : Call) : (refreshSender from_ s).Receives c := by
  unfold Machine.refreshSender
  split
  · next i _ =>
    have refreshed := (h.loseStation i).updStation i Station.refreshed
    unfold goodFrameFrom
    simp only
    split
    · exact refreshed.reachChange
    · exact refreshed
  · exact h

theorem writeHold (h : s.Receives c) (i : Index) (time : Nat) (cutoff : Fin 8) :
    (writeHold i time cutoff s).Receives c := (h.updStation i _).moved (writeHold_moved i time cutoff s)

theorem implicitHold (h : s.Receives c) (from_ : Call) : (implicitHold from_ s).Receives c := by
  unfold Machine.implicitHold
  split
  · exact h.writeHold _ _ _
  · exact h

theorem applyHold (h : s.Receives c) (toAll : Bool) (from_ : Call) (time : Nat) (cutoff : Fin 8) :
    (applyHold c toAll from_ time cutoff s).Receives c := by
  unfold Machine.applyHold
  split
  · exact h
  · split
    · unfold writeSilence
      have silenced : (s.updChan c (Channel.silenced time cutoff s.time.counter)).Receives c := by
        refine h.updChan ?_
        unfold Channel.silenced
        split
        · exact ⟨rfl, rfl, rfl, rfl, rfl, rfl, rfl, rfl, rfl, rfl⟩
        · dsimp only
          split <;> exact ⟨rfl, rfl, rfl, rfl, rfl, rfl, rfl, rfl, rfl, rfl⟩
      exact silenced.moved (.withdrawIf _ c _)
    · exact h.writeHold _ _ _

/-- A receipt ends or records the verdict of an exchange; of the other operations on it none but the implicit hold of a FULL
is more than a move (R44 to R46). -/
theorem applyReceipt (h : s.Receives c) (key : Key) (v : Verdict) (from_ : Call) :
    (applyReceipt key v from_ s).Receives c := by
  have idle (d : Chan) : (idleEngine d s).Receives c := h.moved (.idleEngine d s)
  have awaiting (d : Chan) (k : Handle) : (receiptAwaiting d k v from_ s).Receives c := by
    cases v with
    | accept | duplicate => exact (idle d).moved (.closeEntry ..)
    | noroute => exact (idle d).moved (.endRefused _ k)
    | full => exact ((idle d).implicitHold from_).moved (.endReturned _ k .full)
  have staged (d : Chan) (k : Handle) : (receiptStaged d k v s).Receives c := by
    cases v with
    | accept | duplicate | noroute => exact (idle d).moved (.closeEntry ..)
    | full => exact h
  have engaged (k : Handle) : (receiptEngaged k v from_ s).Receives c := by
    unfold receiptEngaged
    split
    · exact h
    · next d _ =>
      split
      · exact h
      · exact staged d k
      · next sending =>
        exact h.moved (.of_updChan s d _ (by simp [Channel.SameButExchange]) fun _ idle => by
          rw [sending] at idle; cases idle)
      · exact awaiting d k
  have late (k : Handle) : (receiptLate k v s).Receives c := by
    have left : (s.leave k).Receives c := h.moved (.leave s k)
    unfold receiptLate
    split
    · exact left.moved (.closeEntry ..)
    · exact left.moved (.closeEntry ..)
    · exact left.moved (.closeEntry ..)
    all_goals first | exact h.moved (.closeEntry ..) | exact h
  unfold Machine.applyReceipt
  split
  · exact h
  · split
    · split
      · exact engaged _
      · exact late _
    · exact h

theorem applyTraffic (h : s.Receives c) (r : Receiver) (from_ : Call) (key : Key) :
    (applyTraffic c r from_ key s).Receives c := by
  have arrives (k : Handle) : (arrive k c from_ key s).Receives c := by
    unfold arrive
    split
    · split
      · exact (h.moved (.place s k)).queueReceipt _ _ _
      · exact (h.releaseEntry k).queueReceipt _ _ _
    · exact State.Receives.queueReceipt (s := arriveLocal k s) (h.congr rfl) _ _ _
  unfold Machine.applyTraffic
  split
  · exact arrives _
  · exact h.queueReceipt _ _ _
  · exact h

theorem completeFrame (h : s.Receives c) : (completeFrame c s).Receives c := by
  unfold Machine.completeFrame
  dsimp only
  split
  · exact h.damage
  · next x _ =>
    have refreshed := h.refreshSender x.fromCall
    refine setReceiver ?_ .hunt
    split
    · unfold applyFrame
      split
      · exact refreshed.applyTraffic _ _ _
      · exact refreshed.applyReceipt _ _ _
      · exact refreshed.applyHold _ _ _ _
      · exact refreshed
    · exact refreshed

theorem decideTraffic (h : s.Receives c) (r : Receiver) (p : Fin 8) (key : Key) (d : Call) (n : Nat) (from_ : Call) :
    (decideTraffic c r p key d n from_ s).Receives c := by
  unfold Machine.decideTraffic
  dsimp only
  split
  · exact h.setReceiver _
  split
  · exact h.setReceiver _
  split
  · exact h.setReceiver _
  split
  · exact h.setReceiver _
  · next k s1 a =>
    have kept : s1.channels = s.channels := (congrArg State.channels (allocate_kept a) :)
    exact ((h.congr kept).setReceiver _).tested (.testCongestion _)

theorem receiveCharacter (h : s.Receives c) (b : Byte) : (receiveCharacter c b s).Receives c := by
  have restarts : (restartFrame c s).Receives c := h.damage.setReceiver _
  unfold Machine.receiveCharacter
  split
  · split
    · exact h.setReceiver _
    · exact h
  · split
    · exact restarts
    · unfold collectHeader
      dsimp only
      split
      · exact h.damage
      · split
        · unfold completeHeader
          split
          · exact h.damage
          · split
            · exact h.decideTraffic _ _ _ _ _ _
            · exact h.setReceiver _
          · exact h.setReceiver _
        · exact h.setReceiver _
  · split
    · exact restarts
    · unfold collectBody
      dsimp only
      split
      · refine setReceiver (h.congr ?_) _
        unfold writeBody
        split <;> rfl
      · exact h.damage
  · split
    · exact restarts
    · unfold collectTail
      dsimp only
      split
      · split
        · exact h.setReceiver _
        · exact h.damage
      · split
        · exact h.completeFrame
        · exact h.damage

end State.Receives

end Sys2Proof.Machine
end

section
namespace Sys2Proof.Machine

/-- Updates of a channel's record that the gate does not read. -/
theorem Channel.sameGate_of_rest {x y : Channel} (same : { y with
    jamChanged := x.jamChanged, control := x.control, owed := x.owed, silenceRemaining := x.silenceRemaining,
    silenceCutoff := x.silenceCutoff, silenceEndDue := x.silenceEndDue, rehold := x.rehold, beacon := x.beacon,
    engine := x.engine, abortPause := x.abortPause, queue := x.queue, windowDue := x.windowDue } = x) :
    x.SameGate y := by
  constructor <;> rw [← same]

/-- A disabled channel is clear, and no input makes it busy (R107). -/
theorem Channel.Ajar.clear_busyNow {x y : Channel} (h : x.Ajar) (off : x.enabled = false) (off' : y.enabled = false) :
    x.busy = y.busyNow := (h.clear off).trans (Channel.busyNow_of_disabled off').symm

theorem Channel.restartBeacon_sameGate (now : Quad) (x : Channel) : x.SameGate (x.restartBeacon now) :=
  sameGate_of_rest rfl

theorem Channel.queueOwn_sameGate (t : Nat) (k : Fin 8) (x : Channel) : x.SameGate (x.queueOwn t k) := by
  unfold Channel.queueOwn
  split
  · exact sameGate_of_rest rfl
  · split <;> exact sameGate_of_rest rfl

theorem Channel.sendHead_sameGate (own : OwnStation) (rest : List ControlFrame) (x : Channel) :
    x.SameGate (x.sendHead own rest) := by
  unfold Channel.sendHead
  split <;> exact sameGate_of_rest rfl

namespace State.ListensBut
variable {s t : State}

/-! ## The transmitter -/

/-- Keying the radio of an enabled channel that is clear shuts its receive side and begins busy (R99, R101, R136). -/
theorem keyFor (h : s.ListensBut none) {c : Chan} (on : (s.chan c).enabled = true) (clear : (s.chan c).busy = false)
    (what : OnAir) : (keyFor what c s).ListensBut none := by
  have sampler : (setSampler .lineRecovery c s).ListensBut (some c) := (h.but c).ajarChan fun kept => by
    obtain ⟨h1, h2, h3, h4⟩ := kept.2 on
    exact .of_enabled on ⟨h1, h2, h3, fun keyed => ⟨(h4 keyed).1, rfl⟩⟩
  have own := echoSuppressed_chan c s
  have still : ((echoSuppressed c s).chan c).enabled = true := own.enabled.trans on
  rw [keyFor_eq what on clear]
  refine sampler.damage.shuts (fun kept => ?_) ?_
  · refine .of_enabled still ⟨fun _ => rfl, nofun, fun _ => rfl, fun _ => ⟨own.receiver, own.sampler⟩⟩
  · have keyed := State.keyedFor_keyed (echoSuppressed c s) c what
    have still' : ((Machine.damage c (setSampler .lineRecovery c s)).chan c).enabled = true := still
    simp [Channel.busyNow, still', keyed]

theorem commit (h : s.ListensBut none) {c : Chan} (on : (s.chan c).enabled = true) (clear : (s.chan c).busy = false)
    (k : Claimant) : (commit k c s).ListensBut none := by
  have keys {f : Channel → Channel} (same : (s.chan c).SameGate (f (s.chan c))) (what : OnAir) :
      (Machine.keyFor what c (s.updChan c f)).ListensBut none := by
    refine (h.enabledChan on same).keyFor ?_ ?_ what
    · rw [State.chan_updChan_same]; exact same.enabled.trans on
    · rw [State.chan_updChan_same]; exact same.busy.trans clear
  unfold Machine.commit
  split
  · split
    · exact h
    · exact keys (Channel.sendHead_sameGate _ _ _) _
  · exact keys (Channel.sameGate_of_rest rfl) _
  · split
    · split
      · exact keys (Channel.sameGate_of_rest rfl) _
      · exact h.moved (.withdraw c s)
    · exact h

theorem takeKeyUp (h : s.ListensBut none) (c : Chan) : (takeKeyUp c s).ListensBut none := by
  unfold Machine.takeKeyUp
  split
  · next k due =>
    unfold Channel.keyUpDue at due
    split at due
    · obtain ⟨ready, -⟩ := Option.ite_none_right_eq_some.1 due
      simp only [Bool.and_eq_true, Bool.not_eq_true'] at ready
      exact (h.commit ready.1.1 ready.1.2 k).conclude
    · cases due
  · exact h

theorem takeDelayEnd (h : s.ListensBut none) (c : Chan) : (takeDelayEnd c s).ListensBut none := by
  unfold Machine.takeDelayEnd
  split
  · next what ended =>
    unfold Channel.delayOver at ended
    split at ended
    · next keying =>
      have keyed : (s.chan c).transmitter.keyed = true := by rw [keying]; rfl
      have on := (h.ajar c).enabled_of_keyed keyed (by rw [keying]; rfl)
      exact h.enabledChan (f := fun x => { x with transmitter := _ }) on
        ⟨rfl, rfl, rfl, rfl, rfl, rfl, rfl, rfl, rfl, keyed.symm⟩
    · cases ended
  · exact h

/-- A channel whose radio is released, before its gate. -/
theorem setIdle (h : s.ListensBut none) (c : Chan) : (setTransmitter .idle c s).ListensBut (some c) :=
  (h.but c).ajarChan fun kept => by
    obtain ⟨quiet, gate⟩ := kept
    refine ⟨fun off => ?_, fun on => ?_⟩
    · obtain ⟨h1, h2, h3, h4, h5, h6, h7, h8, h9, h10, h11, h12, h13, h14, -⟩ := quiet off
      exact ⟨h1, h2, h3, h4, h5, h6, h7, h8, h9, h10, h11, h12, h13, h14, nofun⟩
    · obtain ⟨h1, h2, h3, -⟩ := gate on
      exact ⟨h1, h2, h3, nofun⟩

theorem releaseKey (h : s.ListensBut none) (c : Chan) : (releaseKey c s).ListensBut none := (h.setIdle c).gate

theorem releaseKey_enabled (c : Chan) (s : State) : ((Machine.releaseKey c s).chan c).enabled = (s.chan c).enabled := by
  have side := (gate_side c c (setTransmitter .idle c s)).trans (State.side_updChan ⟨rfl, rfl⟩)
  exact congrArg Prod.fst side

theorem completeSending (h : s.ListensBut none) {c : Chan} (on : (s.chan c).enabled = true) (what : OnAir) :
    (completeSending what c s).ListensBut none := by
  unfold Machine.completeSending
  split
  · exact h
  · exact h.enabledChan on (Channel.sameGate_of_rest rfl)
  · exact h.enabledChan on (Channel.restartBeacon_sameGate _ _)
  · split
    · exact (h.moved (.idleEngine c s)).moved (.endRecorded ..)
    · exact h.enabledChan on (Channel.sameGate_of_rest rfl)
    · exact h

theorem takeFrameEnd (h : s.ListensBut none) (c : Chan) : (takeFrameEnd c s).ListensBut none := by
  unfold Machine.takeFrameEnd
  split
  · next what sent =>
    unfold Channel.frameSent at sent
    split at sent
    · next sending =>
      have on := (h.ajar c).enabled_of_keyed (by rw [sending]; rfl) (by rw [sending]; rfl)
      exact ((h.releaseKey c).completeSending ((releaseKey_enabled c s).trans on) what).conclude
    · cases sent
  · exact h

theorem takeBreakEnd (h : s.ListensBut none) (c : Chan) : (takeBreakEnd c s).ListensBut none := by
  unfold Machine.takeBreakEnd
  split
  · split
    · exact (h.releaseKey c).conclude
    · next off =>
      refine State.ListensBut.updChan h (fun kept => ((h.setIdle c).ajar c |> fun k => ?_)) fun _ _ => ?_
      · rwa [setTransmitter, State.chan_updChan_same] at k
      · have off' := Bool.not_eq_true _ ▸ off
        exact (h.ajar c).clear_busyNow off' off'
  · exact h

/-! ## Expiries -/

theorem takeTimeout (h : s.ListensBut none) (c : Chan) : (takeTimeout c s).ListensBut none := by
  unfold Machine.takeTimeout
  split
  · rw [timeOut_eq]
    exact State.ListensBut.conclude ((h.moved (.idleEngine c s)).congr rfl)
  · exact h

theorem takeRetry (h : s.ListensBut none) (k : Handle) : (takeRetry k s).ListensBut none := by
  unfold Machine.takeRetry
  split
  · exact (h.moved (.place s k)).conclude
  · exact h

theorem takeBeacon (h : s.ListensBut none) (c : Chan) : (takeBeacon c s).ListensBut none := by
  unfold Machine.takeBeacon
  split
  · next reached =>
    have on : (s.chan c).enabled = true := by
      unfold Channel.beaconReached at reached
      split at reached
      · simp only [Bool.and_eq_true] at reached
        exact reached.1.1
      · cases reached
    have falls : (s.chan c).SameGate ((s.chan c).beaconFalls s.time.counter) := by
      unfold Channel.beaconFalls
      split
      · exact Channel.restartBeacon_sameGate _ _
      · exact Channel.sameGate_of_rest rfl
    exact (h.enabledChan on falls).conclude
  · exact h

theorem takeHoldEnd (h : s.ListensBut none) (i : Index) : (takeHoldEnd i s).ListensBut none := by
  unfold Machine.takeHoldEnd
  split
  · exact State.ListensBut.conclude (h.congr rfl)
  · exact h

theorem takeSilenceEnd (h : s.ListensBut none) (c : Chan) : (takeSilenceEnd c s).ListensBut none := by
  unfold Machine.takeSilenceEnd
  split
  · exact (h.updChan (c := c) (f := fun x => { x with silenceEndDue := false }) (fun kept => kept) fun _ busy => busy).conclude
  · exact h

theorem takeRehold (h : s.ListensBut none) (c : Chan) : (takeRehold c s).ListensBut none := by
  unfold Machine.takeRehold
  split
  · next due =>
    have on := (h.ajar c).enabled_of_rehold (by rw [due]; exact nofun)
    have stopped : (stopRehold c s).ListensBut none := h.enabledChan on (Channel.sameGate_of_rest rfl)
    refine State.ListensBut.conclude ?_
    split
    · refine stopped.enabledChan ?_ (Channel.queueOwn_sameGate _ _ _)
      rw [stopRehold, State.chan_updChan_same]
      exact on
    · exact stopped
  · exact h

theorem takeOverLimit (h : s.ListensBut none) (i : Index) : (takeOverLimit i s).ListensBut none := by
  unfold Machine.takeOverLimit
  split
  · refine State.ListensBut.conclude ?_
    unfold loseStation
    split
    · unfold reachChange
      exact State.ListensBut.sweep (h.congr rfl)
    · exact h.congr rfl
  · exact h

/-! ## The Time Base -/

/-- A change of every channel alike. -/
theorem mapChannels (h : s.ListensBut none) {f : Channel → Channel} (channels : t.channels = mapVector f s.channels)
    (kept : ∀ x : Channel, x.Ajar → (f x).Ajar) (busy : ∀ x : Channel, x.Ajar → x.busy = x.busyNow → (f x).busy = (f x).busyNow) :
    t.ListensBut none := fun d => by
  have chan : t.chan d = f (s.chan d) := by simp [State.chan, channels]
  rw [chan]
  exact ⟨kept _ (h d).1, fun _ => busy _ (h d).1 ((h d).2 nofun)⟩

theorem takeQuantum (h : s.ListensBut none) : (takeQuantum s).ListensBut none := by
  refine h.mapChannels (t := Machine.takeQuantum s) rfl (fun x ⟨quiet, gate⟩ => ⟨fun off => ?_, gate⟩) fun _ _ busy => busy
  obtain ⟨h1, h2, h3, h4, h5, h6, h7, h8, h9, h10, h11, rest⟩ := quiet off
  refine ⟨h1, h2, h3, h4, h5, h6, h7, h8, ?_, h10, ?_, rest⟩
  · simp [Channel.atQuantum, h9]
  · simp [Channel.atQuantum, h11]

theorem takeSecond (h : s.ListensBut none) : (takeSecond s).ListensBut none := by
  have aged : ({ s with stations := mapVector (Option.map Station.atSecond) s.stations
                        time := { s.time with secondDue := false } } : State).ListensBut none := h.congr rfl
  exact (aged.turned (.forChans (fun c t => .endPause _ c t) _)).turned (.arbitrateAll _)

/-- A window event left as a mark, or taken off. -/
theorem windowDue (h : s.ListensBut none) (c : Chan) (g : Channel → Option WindowEvent) :
    (s.updChan c fun x => { x with windowDue := g x }).ListensBut none := h.updChan (fun kept => kept) fun _ busy => busy

theorem takeClockSecond (h : s.ListensBut none) : (takeClockSecond s).ListensBut none := by
  unfold Machine.takeClockSecond
  dsimp only
  split
  · exact forChans_keeps (P := State.ListensBut none) (fun c t k => k.windowDue c _) (h.congr rfl)
  · exact h.congr rfl

theorem applyWindow (h : s.ListensBut none) (e : WindowEvent) (c : Chan) : (applyWindow e c s).ListensBut none := by
  unfold Machine.applyWindow
  split
  · split
    · exact h.moved (.withdraw c s)
    · exact h
  · exact h

theorem takeWindow (h : s.ListensBut none) (e : WindowEvent) (c : Chan) : (takeWindow e c s).ListensBut none :=
  ((h.windowDue c fun _ => none).applyWindow e c).conclude

theorem settleWindow (h : s.ListensBut none) (c : Chan) : (settleWindow c s).ListensBut none := by
  unfold Machine.settleWindow
  split
  · exact h.takeWindow _ c
  · exact h

theorem settleOnce (h : s.ListensBut none) (e : settleOnce s = some t) : t.ListensBut none :=
  settleOnce_keeps (P := State.ListensBut none) h.takeClockSecond h.takeQuantum h.takeSecond h.settleWindow h.takeHoldEnd
    h.takeSilenceEnd h.takeRehold h.takeOverLimit h.takeRetry h.takeBeacon h.takeGap h.takeJam h.takeTimeout
    h.takeDelayEnd h.takeFrameEnd h.takeBreakEnd h.takeKeyUp t e

theorem settle (h : s.ListensBut none) : (settle s).ListensBut none := settle_keeps (fun _ _ k e => k.settleOnce e) h

end State.ListensBut

theorem Transmitter.atMs_keyed (x : Transmitter) : x.atMs.keyed = x.keyed := by cases x <;> rfl

theorem Receiver.atMs_phase (r : Receiver) : r.atMs.phase = r.phase := by
  unfold Receiver.atMs
  split <;> rfl

theorem Channel.atMs_busyNow (x : Channel) : x.atMs.busyNow = x.busyNow := by
  simp only [Channel.busyNow, Channel.carrier, Channel.cdActive, Channel.receiving, Channel.atMs,
    Transmitter.atMs_keyed, Receiver.atMs_phase]

theorem Channel.Ajar.atMs {x : Channel} (h : x.Ajar) : x.atMs.Ajar := by
  obtain ⟨quiet, gate⟩ := h
  refine ⟨fun off => ?_, fun on => ?_⟩
  · obtain ⟨h1, h2, h3, h4, h5, h6, h7, h8, h9, h10, h11, h12, h13, h14, h15⟩ := quiet off
    have off' : x.enabled = false := off
    refine ⟨h1, ?_, h3, ?_, ?_, h6, h7, h8, h9, h10, h11, h12, ?_, h14, ?_⟩
    · simp [Channel.atMs, h2, Receiver.atMs, Receiver.hunt]
    · simp [Channel.atMs, off', h4]
    · simp [Channel.atMs, off', h5]
    · simp [Channel.atMs, h13, Engine.atMs]
    · intro keyed
      have some := h15 ((Transmitter.atMs_keyed _).symm.trans keyed)
      cases transmitter : x.transmitter <;> simp_all [Channel.atMs, Transmitter.atMs, Transmitter.breakRemaining]
  · obtain ⟨h1, h2, h3, h4⟩ := gate on
    refine ⟨fun busy => ?_, fun clear => ?_, h3, fun keyed => ?_⟩
    · have busy' : x.busy = true := busy
      simp [Channel.atMs, busy', h1 busy']
    · have clear' : x.busy = false := clear
      simp [Channel.atMs, clear', h2 clear']
    · obtain ⟨hunt, sampler⟩ := h4 ((Transmitter.atMs_keyed _).symm.trans keyed)
      exact ⟨by simp [Channel.atMs, hunt, Receiver.atMs, Receiver.hunt], sampler⟩

theorem State.ListensBut.tick {s : State} (h : s.ListensBut none) : (tick s).ListensBut none :=
  h.mapChannels (t := Machine.tick s) rfl (fun _ kept => kept.atMs) fun _ _ busy => busy.trans (Channel.atMs_busyNow _).symm

/-! ## Requests -/

namespace State.ListensBut
variable {s : State}

theorem answer (h : s.ListensBut none) (r : Result) (d : List Byte) : (s.answer r d).ListensBut none := h.congr rfl

theorem onEntry {f : Handle → State → State} (each : ∀ h (s : State), s.ListensBut none → (f h s).ListensBut none)
    (h : s.ListensBut none) (b : Byte) : (onEntry b f s).ListensBut none := by
  unfold Machine.onEntry
  split
  · exact h.answer _ _
  · exact each _ s h

theorem onChannel {f : Chan → State → State} (each : ∀ c (s : State), s.ListensBut none → (f c s).ListensBut none)
    (h : s.ListensBut none) (b : Byte) : (onChannel b f s).ListensBut none := by
  unfold Machine.onChannel
  split
  · exact h.answer _ _
  · exact each _ s h

theorem onStation {f : Index → Station → State → State}
    (each : ∀ i st (s : State), s.ListensBut none → (f i st s).ListensBut none) (h : s.ListensBut none) (b : Byte) :
    (onStation b f s).ListensBut none := by
  unfold Machine.onStation
  split
  · exact h.answer _ _
  · split
    · exact h.answer _ _
    · exact each _ _ s h

theorem file (h : s.ListensBut none) (b : Byte) (f : CallField) (body : List Byte) : (file b f body s).ListensBut none := by
  unfold Machine.file
  split
  · split
    · exact h.answer _ _
    split
    · exact h.answer _ _
    unfold fileMessage
    split
    · exact h.answer _ _
    · next k s1 a =>
      have kept : s1.channels = s.channels := (congrArg State.channels (allocate_kept a) :)
      have given : (giveSerial k (testCongestion s1)).ListensBut none :=
        State.ListensBut.congr ((h.congr kept).tested (.testCongestion s1)) rfl
      exact ((given.moved (.place _ k)).answer _ _).considerAll
  · exact h.answer _ _

theorem amend (h : s.ListensBut none) (b : Byte) (f : CallField) (k : Handle) : (amend b f k s).ListensBut none := by
  unfold Machine.amend
  split
  · split
    · unfold amendEntry
      split
      · have changed {g : Entry → Entry} : ((s.leave k).updEntry k g).ListensBut none :=
          (h.moved (.leave s k)).congr rfl
        exact ((changed.moved (.place _ k)).answer _ _).considerAll
      · exact h.congr rfl
    · exact h.answer _ _
  · exact h.answer _ _

theorem cancel (h : s.ListensBut none) (k : Handle) : (cancel k s).ListensBut none := by
  unfold Machine.cancel
  split
  · exact (h.moved (.leave s k)).congr rfl
  · exact h.congr rfl
  · unfold cancelEngaged
    split
    · exact h.answer _ _
    · next c _ =>
      split
      · exact State.ListensBut.considerAll ((h.moved (.idleEngine c s)).congr rfl)
      · exact h.congr rfl
  · exact h.answer _ _

theorem renew (h : s.ListensBut none) (k : Handle) : (renew k s).ListensBut none := by
  unfold Machine.renew
  split
  · have changed {g : Entry → Entry} : (s.updEntry k g).ListensBut none := h.congr rfl
    exact ((changed.moved (.place _ k)).answer _ _).considerAll
  · exact h.answer _ _

theorem retire (h : s.ListensBut none) (k : Handle) : (retire k s).ListensBut none := by
  unfold Machine.retire
  split
  · refine answer ?_ _ _
    exact State.ListensBut.tested
      (s := (s.setEntry k (s.entry k).spent).countFreed (s.entry k).blockCount) (h.congr rfl) (retireEntry_tested k s)
  · exact h.answer _ _

theorem setStation (h : s.ListensBut none) (p : StationBlock) : (Machine.setStation p s).ListensBut none := by
  unfold Machine.setStation
  split
  · exact h.answer _ _
  · split
    · exact h.answer _ _
    · unfold writeStation answerStation
      refine considerAll ?_
      split <;>
      · refine answer (sweep ?_) _ _
        split <;> exact h.congr rfl

theorem dropStation (h : s.ListensBut none) (i : Index) : (dropStation i s).ListensBut none := by
  have dropped : (s.setStation i none).ListensBut none := h.congr rfl
  unfold Machine.dropStation
  split
  · exact h.answer _ _
  · exact (dropped.sweep.answer _ _).considerAll

theorem forceStation (h : s.ListensBut none) (v : Bool) (i : Index) (st : Station) :
    (forceStation v i st s).ListensBut none := by
  have forced {g : Station → Station} : (s.updStation i g).ListensBut none := h.congr rfl
  unfold Machine.forceStation
  split
  · exact h.answer _ _
  · exact (forced.sweep.answer _ _).considerAll

theorem setChannel (h : s.ListensBut none) (p : SettingsBlock) (c : Chan) : (setChannel p c s).ListensBut none := by
  unfold Machine.setChannel
  split
  · exact h.answer _ _
  · split
    · exact h.answer _ _
    · next off =>
      have off' := Bool.not_eq_true _ ▸ off
      refine answer (h.updChan (fun kept => ⟨fun _ => kept.1 off', fun on => ?_⟩) fun _ _ => ?_) _ _
      · exact absurd (off'.symm.trans on) (by decide)
      · exact (h.ajar c).clear_busyNow off' off'

theorem readChannel (h : s.ListensBut none) (c : Chan) : (readChannel c s).ListensBut none := by
  refine answer ?_ _ _
  unfold drawBeacon
  split
  · exact h.congr rfl
  · exact h

end State.ListensBut

/-- A gate started afresh on an enabled channel whose receive side is shut (R101 to R108). -/
theorem Channel.restartGate_ajar {x : Channel} (on : x.enabled = true) (hunt : x.receiver = .hunt)
    (sampler : x.sampler = .lineRecovery) : x.restartGate.Ajar :=
  .of_enabled on ⟨fun _ => rfl, fun _ => rfl, nofun, fun _ => ⟨hunt, sampler⟩⟩

theorem Channel.restartGate_busy (x : Channel) : x.restartGate.busy = x.restartGate.busyNow := rfl

theorem Transmitter.cut_keyed {t : Settings} {x : Transmitter} (keyed : (x.cut t).keyed = true) :
    (x.cut t).breakRemaining.isSome = true := by
  cases x with
  | idle | clearing _ _ | keying _ _ => cases keyed
  | sending _ _ _ | brk _ _ _ _ => rfl

namespace State.ListensBut
variable {s : State}

theorem enableChannel (h : s.ListensBut none) (c : Chan) : (enableChannel c s).ListensBut none := by
  unfold Machine.enableChannel
  split
  · exact h.answer _ _
  split
  · exact h.answer _ _
  have started : (s.updChan c (Channel.started s.time.counter)).ListensBut none :=
    h.updChan (fun _ => Channel.restartGate_ajar rfl rfl rfl) fun _ _ => Channel.restartGate_busy _
  refine answer (considerAll (sweep ?_)) _ _
  unfold holdIfCongested
  split
  · refine started.enabledChan ?_ (Channel.queueOwn_sameGate _ _ _)
    rw [State.chan_updChan_same]
    rfl
  · exact started

theorem endExchange_idle (c : Chan) (s : State) : ((endExchange c s).chan c).engine = .idle := by
  have idle : ((idleEngine c s).chan c).engine = .idle := by rw [idleEngine_chan, if_pos rfl]
  have recorded (h : Handle) (v : Verdict) : (((idleEngine c s).endRecorded h v).chan c).engine = .idle := by
    cases v with
    | full => exact (State.endReturned_engine ..).trans idle
    | _ => exact idle
  unfold endExchange
  split
  · next e => exact e
  · next e => rw [withdraw_of_staged e, State.returnEntry_engine, idle]
  · exact recorded _ _
  · exact (State.endReturned_engine ..).trans idle
  · exact (State.endReturned_engine ..).trans idle

/-- The cut of a transmitter keys no radio, and leaves at most a break (R98). -/
theorem cut_ajar {x : Channel} (on : x.enabled = true) (kept : x.Ajar) :
    ({ x with transmitter := x.transmitter.cut x.settings } : Channel).Ajar := by
  obtain ⟨h1, h2, h3, h4⟩ := kept.2 on
  refine .of_enabled on ⟨h1, h2, h3, fun keyed => h4 ?_⟩
  cases transmitter : x.transmitter with
  | idle | clearing _ _ =>
    rw [transmitter] at keyed
    cases keyed
  | keying _ _ | sending _ _ _ | brk _ _ _ _ => rfl

theorem stopChannel (h : s.ListensBut none) (c : Chan) : (stopChannel c s).ListensBut none := by
  let u := Machine.damage c (cutTransmitter c (endExchange c (markDisabled c s)))
  have own := damage_chan c c (cutTransmitter c (endExchange c (markDisabled c s)))
  have ended := endExchange_idle c (markDisabled c s)
  have off : (u.chan c).enabled = false := by
    refine own.enabled.trans ?_
    rw [setReceiver, State.chan_updChan_same, cutTransmitter, State.chan_updChan_same]
    refine ((State.Moved.endExchange c (markDisabled c s)).chan c).enabled.trans ?_
    rw [markDisabled, State.chan_updChan_same]
  have hunt : (u.chan c).receiver = .hunt := damage_receiver c _
  have idle : (u.chan c).engine = .idle := by
    refine own.engine.trans ?_
    rw [setReceiver, State.chan_updChan_same, cutTransmitter, State.chan_updChan_same]
    exact ended
  have broken : (u.chan c).transmitter.keyed = true → (u.chan c).transmitter.breakRemaining.isSome = true := by
    have transmitter : (u.chan c).transmitter = _ := (congrArg Channel.transmitter own :)
    rw [transmitter, setReceiver, State.chan_updChan_same, cutTransmitter, State.chan_updChan_same]
    exact Transmitter.cut_keyed
  have stopped : (u.updChan c Channel.stoppedRecord).ListensBut none := fun d => by
    rw [State.chan_updChan]
    split
    · refine ⟨⟨fun _ => ?_, fun on => ?_⟩, fun _ => Channel.restartGate_busy _⟩
      · exact ⟨rfl, hunt, Channel.busyNow_of_disabled off, rfl, rfl, rfl, rfl, rfl, rfl, rfl, rfl, rfl, idle, rfl, broken⟩
      · exact absurd (off.symm.trans on) (by decide)
    · next other =>
      have chan : (setReceiver .hunt c (cutTransmitter c (endExchange c (markDisabled c s)))).chan d =
          (endExchange c (markDisabled c s)).chan d := by
        simp [setReceiver, cutTransmitter, other]
      have marked : (markDisabled c s).chan d = s.chan d := State.chan_updChan_other s other _
      have moved := State.Moved.endExchange c (markDisabled c s)
      have line := (moved.chan d).sameLine
      have idle' := moved.idle d
      have own' := damage_chan c d (cutTransmitter c (endExchange c (markDisabled c s)))
      have tested := damage_tested c (cutTransmitter c (endExchange c (markDisabled c s)))
      have bare := tested.bare d
      rw [damaged_chan, if_neg other, cutTransmitter, State.chan_updChan_other _ other] at bare
      rw [chan] at own'
      rw [marked] at line idle'
      exact ⟨((h.ajar d).sameLine line idle').sameButOwn own' bare, fun _ => by
        rw [own'.busy, own'.busyNow, line.busy, line.busyNow]
        exact (h d).2 nofun⟩
  exact stopped.sweep

theorem disableChannel (h : s.ListensBut none) (c : Chan) : (disableChannel c s).ListensBut none := by
  unfold Machine.disableChannel
  split
  · exact (((h.takeJam c).stopChannel c).answer _ _).considerAll
  · exact h.answer _ _

theorem abortChannel (h : s.ListensBut none) (c : Chan) : (abortChannel c s).ListensBut none := by
  unfold Machine.abortChannel
  split
  · exact h.answer _ _
  · next k held =>
    have runs : (s.chan c).engine ≠ .idle := fun idle => by rw [idle] at held; cases held
    have on := (h.ajar c).enabled_of_engine runs
    have cut : (cutExchange c s).ListensBut (some c) ∧ ((cutExchange c s).chan c).enabled = true := by
      unfold cutExchange
      split
      · refine ⟨(h.but c).ajarChan (cut_ajar on), ?_⟩
        rw [cutTransmitter, State.chan_updChan_same]
        exact on
      · exact ⟨h.but c, on⟩
    have ended := cut.1.moved (.endExchange c _)
    have on' : ((endExchange c (cutExchange c s)).chan c).enabled = true :=
      ((State.Moved.endExchange c _).chan c).enabled.trans cut.2
    have paused : (setPause c (endExchange c (cutExchange c s))).ListensBut (some c) :=
      ended.enabledChan on' (Channel.sameGate_of_rest rfl)
    exact (paused.gate.answer _ _).considerAll

theorem clearChannel (h : s.ListensBut none) {c : Chan} (on : (s.chan c).enabled = true) :
    (clearChannel c s).ListensBut none := by
  have ended := (h.moved (.endExchange c s)).but c
  have on' : ((endExchange c s).chan c).enabled = true := ((State.Moved.endExchange c s).chan c).enabled.trans on
  have cut : (cutTransmitter c (endExchange c s)).ListensBut (some c) := ended.ajarChan (cut_ajar on')
  have on'' : ((cutTransmitter c (endExchange c s)).chan c).enabled = true := by
    rw [cutTransmitter, State.chan_updChan_same]
    exact on'
  have quiet : (releaseQuietly c (cutTransmitter c (endExchange c s))).ListensBut (some c) ∧
      ((releaseQuietly c (cutTransmitter c (endExchange c s))).chan c).enabled = true := by
    unfold releaseQuietly
    split
    · next k _ =>
      have freed : (freeEntry k (cutTransmitter c (endExchange c s))).ListensBut (some c) := cut.congr rfl
      exact ⟨freed.tested (.markCongestion _), ((State.Tested.markCongestion _).chan c).enabled.trans on''⟩
    · exact ⟨cut, on''⟩
  exact quiet.1.shuts (fun _ => Channel.restartGate_ajar quiet.2 rfl rfl) (Channel.restartGate_busy _)

theorem clearChannels (h : s.ListensBut none) : (clearChannels s).ListensBut none := by
  have jams : (forChans Machine.takeJam s).ListensBut none := forChans_keeps (fun c _ k => k.takeJam c) h
  have clears (c : Chan) (t : State) (k : t.ListensBut none) : (ifEnabled Machine.clearChannel c t).ListensBut none := by
    unfold ifEnabled
    split
    · next on => exact k.clearChannel on
    · exact k
  unfold Machine.clearChannels
  split
  · refine considerAll (answer (sweep ?_) _ _)
    have cleared := forChans_keeps clears jams
    unfold clearFrames
    split
    · exact cleared.tested (.forChans (State.Tested.ifEnabled fun _ _ en => .queueOwnHold en) _)
    split
    · exact cleared.tested (.forChans (State.Tested.ifEnabled fun _ _ en => .queueOwnRelease en) _)
    · exact cleared
  · exact h.answer _ _

theorem setClass (h : s.ListensBut none) (b l w : Byte) : (setClass b l w s).ListensBut none := by
  unfold Machine.setClass
  split
  · exact h.answer _ _
  · exact considerAll (h.congr rfl)

theorem setOwn (h : s.ListensBut none) (p : OwnBlock) : (setOwn p s).ListensBut none := by
  unfold Machine.setOwn
  split
  · exact h.answer _ _
  · next o _ =>
    split
    · exact h.answer _ _
    · refine considerAll (answer ?_ _ _)
      have tested : (testCongestion (writeOwn o s)).ListensBut none :=
        State.ListensBut.tested (s := writeOwn o s) (h.congr rfl) (.testCongestion _)
      unfold sweepIfRouted
      split
      · exact tested
      · exact tested.sweep

theorem readStatus (h : s.ListensBut none) : (readStatus s).ListensBut none := by
  have cleared : s.clearFlags.ListensBut none := forChans_keeps (P := State.ListensBut none)
    (fun c _ k => k.updChan (c := c) (f := fun x => { x with jamChanged := false }) (fun kept => kept)
      fun _ busy => busy) (h.congr rfl)
  exact cleared.answer _ _

theorem setClock (h : s.ListensBut none) (n : Quad) : (setClock n s).ListensBut none := by
  unfold Machine.setClock
  split
  · exact h.answer _ _
  · have settled : (forChans Machine.settleWindow s).ListensBut none := forChans_keeps (fun c _ k => k.settleWindow c) h
    have clocked : (writeClock n.toNat 0 (forChans Machine.settleWindow s)).ListensBut none := settled.congr rfl
    refine considerAll (answer (forChans_keeps (P := State.ListensBut none) (fun c t k => ?_) clocked) _ _)
    split
    · exact k.applyWindow _ c
    · exact k

/-- A reset channel is disabled and quiet, but for a break that may run on (R110, R185). -/
theorem reset_ajar (cd : Bool) {x : Transmitter} (broken : x.keyed = true → x.breakRemaining.isSome = true) :
    ({ Channel.reset with cdPin := cd, transmitter := x } : Channel).Ajar :=
  ⟨fun _ => ⟨rfl, rfl, rfl, rfl, rfl, rfl, rfl, rfl, rfl, rfl, rfl, rfl, rfl, rfl, broken⟩, nofun⟩

theorem resetParts (h : s.ListensBut none) : s.resetParts.ListensBut none :=
  h.mapChannels rfl (fun x _ => reset_ajar x.cdPin nofun) fun _ _ _ => (Channel.busyNow_of_disabled rfl).symm

theorem clearAll (h : s.ListensBut none) : (clearAll s).ListensBut none :=
  h.mapChannels (f := Channel.afterClearAll) rfl (fun x _ => reset_ajar x.cdPin Transmitter.cut_keyed)
    fun _ _ _ => (Channel.busyNow_of_disabled rfl).symm

/-! ## The receive line -/

/-- A sampler that is not in LINE_RECOVERY takes samples of an enabled channel whose radio is not keyed (R99). -/
theorem unkeyed (h : s.ListensBut none) {c : Chan} (on : (s.chan c).enabled = true)
    (samples : (s.chan c).sampler ≠ .lineRecovery) : (s.chan c).transmitter.keyed = false := by
  obtain ⟨-, -, -, echo⟩ := (h.ajar c).2 on
  rw [← Bool.not_eq_true]
  exact fun keyed => samples (echo keyed).2

theorem setSampler (h : s.ListensBut none) {c : Chan} (on : (s.chan c).enabled = true)
    (unkeyed : (s.chan c).transmitter.keyed = false) (x : Sampler) : (setSampler x c s).ListensBut none :=
  h.updChan (fun kept => by
    obtain ⟨h1, h2, h3, -⟩ := kept.2 on
    exact .of_enabled on ⟨h1, h2, h3, fun keyed => absurd (unkeyed.symm.trans keyed) (by decide)⟩) fun _ busy => busy

/-- The sampler's handover, before the gate is evaluated: the channel takes characters (R96). -/
theorem sampled (h : s.ListensBut none) {c : Chan} (samples : (s.chan c).sampling = true) (x : Sampler) :
    (Machine.setSampler x c (Machine.settleLine c s)).Receives c := by
  simp only [Channel.sampling, Bool.and_eq_true, decide_eq_true_eq] at samples
  obtain ⟨on, character⟩ := samples
  have side := settleLine_side c c s
  have on' : ((Machine.settleLine c s).chan c).enabled = true := (congrArg Prod.fst side).trans on
  have character' : ((Machine.settleLine c s).chan c).sampler = .character := (congrArg Prod.snd side).trans character
  have settled := h.settleLine c
  have unkeyed := settled.unkeyed on' (by rw [character']; exact nofun)
  refine ⟨(settled.setSampler on' unkeyed x).but c, ?_, ?_⟩
  · rw [Machine.setSampler, State.chan_updChan_same]; exact on'
  · rw [Machine.setSampler, State.chan_updChan_same]; exact unkeyed

theorem concludeLine {c : Chan} (h : s.ListensBut (some c)) : (concludeLine c s).ListensBut none := h.gate.conclude

theorem damageInProgress {c : Chan} (h : s.ListensBut (some c)) : (damageInProgress c s).ListensBut (some c) := by
  unfold Machine.damageInProgress
  split
  · exact h.damage
  · exact h

/-! ## Commands -/

theorem exec (h : s.ListensBut none) {i : Instr} {t : State} (run : exec i s = .next t) : t.ListensBut none := by
  cases i <;> obtain rfl := Host.Outcome.next.inj run
  case file => exact (h.file _ _ _).takeRequest
  case readEntry => exact takeRequest (h.onEntry (fun _ _ k => k.answer _ _) _)
  case readText =>
    refine takeRequest (h.onEntry (fun _ _ k => ?_) _)
    unfold readText
    split <;> exact k.answer _ _
  case find =>
    refine takeRequest ?_
    unfold find
    split
    · exact h.answer _ _
    · split
      · exact h.answer _ _
      · split <;> exact h.answer _ _
  case nextChanged =>
    refine takeRequest ?_
    unfold nextChanged
    split <;> exact h.congr rfl
  case listQueue =>
    refine takeRequest ?_
    unfold listQueue
    split
    · exact h.answer _ _
    · split <;> exact h.answer _ _
  case amend => exact takeRequest (h.onEntry (fun _ _ k => k.amend _ _ _) _)
  case cancel => exact takeRequest (h.onEntry (fun _ _ k => k.cancel _) _)
  case renew => exact takeRequest (h.onEntry (fun _ _ k => k.renew _) _)
  case retire => exact takeRequest (h.onEntry (fun _ _ k => k.retire _) _)
  case setStation => exact (h.setStation _).takeRequest
  case readStation => exact takeRequest (h.onStation (fun _ _ _ k => k.answer _ _) _)
  case dropStation => exact takeRequest (h.onStation (fun _ _ _ k => k.dropStation _) _)
  case forceStation =>
    refine takeRequest ?_
    split
    · exact h.answer _ _
    · exact h.onStation (fun _ _ _ k => k.forceStation _ _ _) _
  case setChannel => exact takeRequest (h.onChannel (fun _ _ k => k.setChannel _ _) _)
  case readChannel => exact takeRequest (h.onChannel (fun _ _ k => k.readChannel _) _)
  case enableChannel => exact takeRequest (h.onChannel (fun _ _ k => k.enableChannel _) _)
  case disableChannel => exact takeRequest (h.onChannel (fun _ _ k => k.disableChannel _) _)
  case abortChannel => exact takeRequest (h.onChannel (fun _ _ k => k.abortChannel _) _)
  case setClass => exact (h.setClass _ _ _).takeRequest
  case setOwn => exact (h.setOwn _).takeRequest
  case readStatus => exact h.readStatus.takeRequest
  case setClock => exact (h.setClock _).takeRequest
  case readClock => exact (h.answer _ _).takeRequest
  case clearChannels => exact h.clearChannels.takeRequest
  case clearAll => exact h.clearAll.takeRequest
  case readFrame => exact h
  case badFrame => exact h.answer _ _
  case powerOn => exact h.resetParts
  case resetPin => exact h.resetParts
  case goodCharacter c x =>
    split
    · next good => exact ((h.sampled good.1 _).receiveCharacter _).listens.concludeLine
    · exact h
  case characterError c x =>
    split
    · next bad => exact (h.sampled bad.1 _).listens.damageInProgress.concludeLine
    · exact h
  case breakReceived c =>
    split
    · next samples => exact (h.sampled samples _).listens.damageInProgress.concludeLine
    · exact h
  case cdInputChange c v => exact (((h.takeJam c).but c).ajarChan fun kept => kept).concludeLine
  case millisecondAdvance => exact h.settle.tick
  case quantum =>
    split
    · exact h.takeQuantum
    · exact h
  case timeBaseSecond =>
    split
    · exact h.takeSecond
    · exact h
  case clockSecond =>
    split
    · exact h.takeClockSecond
    · exact h
  case windowOpenEvent c | windowCloseEvent c =>
    unfold takeWindowIf
    split
    · exact h.takeWindow _ c
    · exact h
  case keyUp => exact h.takeKeyUp _
  case keyUpDelayEnd => exact h.takeDelayEnd _
  case frameEnd => exact h.takeFrameEnd _
  case breakEnd => exact h.takeBreakEnd _
  case receiptTimeout => exact h.takeTimeout _
  case retryWaitExpiry => exact h.takeRetry _
  case beaconDue => exact h.takeBeacon _
  case holdExpiry => exact h.takeHoldEnd _
  case silenceExpiry => exact h.takeSilenceEnd _
  case reHoldExpiry => exact h.takeRehold _
  case gapExpiry => exact h.takeGap _
  case jammed => exact h.takeJam _
  case heardAgeOverLimit => exact h.takeOverLimit _
  case startBit c m =>
    split
    · next awaits =>
      unfold Channel.awaitsStart at awaits
      split at awaits
      · next idle =>
        simp only [Bool.and_eq_true] at awaits
        exact h.setSampler awaits.1 (h.unkeyed awaits.1 (by rw [idle]; exact nofun)) _
      · cases awaits
    · exact h
  case shortPulse =>
    split
    · next samples =>
      simp only [Channel.sampling, Bool.and_eq_true, decide_eq_true_eq] at samples
      obtain ⟨⟨on, character⟩, -⟩ := samples
      exact h.setSampler on (h.unkeyed on (by rw [character]; exact nofun)) _
    · exact h
  case lineRecoveryEnd =>
    split
    · next recovers =>
      simp only [Channel.recovers, Bool.and_eq_true, Bool.not_eq_true'] at recovers
      exact h.setSampler recovers.1.1 recovers.2 _
    · exact h

end State.ListensBut

/-- Settles O57: with no channel ajar `State.ListensBut` is `State.Listening`, and every command keeps it. -/
theorem listeningKept : Obligations.ListeningKept := by
  intro s t listening run
  have before := State.listensBut_none.2 listening
  unfold step at run
  split at run
  · exact Host.Outcome.next.inj run ▸ listening
  · next c rest _ =>
    have front : (s.withPending rest).ListensBut none := before.congr rfl
    exact State.listensBut_none.1 (front.exec run)

end Sys2Proof.Machine
end

/-! # Requests on a channel, the class table and the directory (R55 to R59, R109, R158)

Each is a branch of its effect, and what follows it is a `State.Turned`. -/

section
namespace Sys2Proof.Machine

/-! ## READ CHANNEL (R109, R152) -/

section
variable {c : Chan} {s : State}

theorem readChannel_of_off_air (offAir : (s.chan c).beacon ≠ .onAir) :
    readChannel c s = s.answer .done (s.channelRecord c) := by
  rw [readChannel, drawBeacon, if_neg offAir]

theorem readChannel_of_on_air (onAir : (s.chan c).beacon = .onAir) :
    readChannel c s = { s with freeCount := s.freeCount + 1 }.answer .done (s.channelRecord c) := by
  rw [readChannel, drawBeacon, if_pos onAir]

end

/-- Settles O17: READ CHANNEL is a branch of `onChannel`, and the free value is drawn while the beacon is on the air. -/
theorem readChannelAnswers : Obligations.ReadChannelAnswers := by
  refine fun s b => ⟨fun c channel offAir => ?_, fun c channel onAir => ?_, fun outside => ?_⟩
  · exact exec_answers rfl ((onChannel_named _ channel).trans (readChannel_of_off_air offAir))
  · exact exec_ends rfl ((onChannel_named _ channel).trans (readChannel_of_on_air onAir)) fun _ => rfl
  · exact exec_answers rfl (onChannel_outside _ outside)

/-! ## SET CLASS (R158, R180) -/

theorem be8_toNat (b : Byte) : be8 b.toNat = b := BitVec.ofNat_toNat ..

theorem setClass_named {b l w : Byte} {p : Fin 8} {s : State} (row : b.toNat = p.val) : setClass b l w s =
    considerAll ({ s with classes := s.classes.set p.val ⟨min 15 (max 1 l.toNat), min 15 w.toNat⟩ }.answer .done
      [b, be8 (min 15 (max 1 l.toNat)), be8 (min 15 w.toNat)]) := by
  simp only [setClass, parsePrec_eq_some row, ClassRow.bytes, clampClass, writeClass, ← row, be8_toNat]

theorem setClass_badValue {b l w : Byte} {s : State} (outside : 8 ≤ b.toNat) :
    setClass b l w s = s.answer .badValue [] := by
  simp only [setClass, parsePrec_eq_none outside]

/-- Settles O22: SET CLASS is the branch that its precedence names. -/
theorem setClassWritesRow : Obligations.SetClassWritesRow := by
  refine fun s b l w => ⟨fun p row => ?_, fun outside => ?_⟩
  · exact exec_turned rfl (setClass_named row) (.considerAll _)
  · exact exec_answers rfl (setClass_badValue outside)

/-! ## READ STATION and DROP STATION (R57, R59) -/

section
variable {i : Index} {s : State}

theorem State.isRelay_or_isFallback_iff : s.isRelay i = true ∨ s.isFallback i = true ↔
    ∃ j r, s.station j = some r ∧ (r.kind = .via i ∨ r.fallback = some i) := by
  rw [State.isRelay_iff, State.isFallback_iff]
  constructor
  · rintro (⟨j, r, held, via⟩ | ⟨j, r, held, fallback⟩)
    · exact ⟨j, r, held, .inl via⟩
    · exact ⟨j, r, held, .inr fallback⟩
  · rintro ⟨j, r, held, via | fallback⟩
    · exact .inl ⟨j, r, held, via⟩
    · exact .inr ⟨j, r, held, fallback⟩

theorem dropStation_inUse
    (named : (∃ j r, s.station j = some r ∧ (r.kind = .via i ∨ r.fallback = some i)) ∨ s.own.defaultRoute = some i) :
    dropStation i s = s.answer .inUse [] := by
  rw [← State.isRelay_or_isFallback_iff, or_assoc] at named
  exact if_pos named

theorem dropStation_drops (unnamed : ∀ j r, s.station j = some r → r.kind ≠ .via i ∧ r.fallback ≠ some i)
    (route : s.own.defaultRoute ≠ some i) :
    dropStation i s = considerAll ((sweep (s.setStation i none)).answer .done []) := by
  refine if_neg fun named => ?_
  rw [← or_assoc, State.isRelay_or_isFallback_iff] at named
  obtain ⟨j, r, held, via | fallback⟩ | default := named
  · exact (unnamed j r held).1 via
  · exact (unnamed j r held).2 fallback
  · exact route default

end

theorem State.Moved.station {s t : State} (h : s.Moved t) (i : Index) : t.station i = s.station i := by
  rw [State.station, State.station, h.stations]

theorem State.Turned.station {s t : State} (h : s.Turned t) (i : Index) : t.station i = s.station i := by
  rw [← h.rest]; rfl

theorem State.Turned.freeEntries {s t : State} (h : s.Turned t) : t.freeEntries = s.freeEntries := by rw [← h.rest]

theorem State.Turned.freeBlocks {s t : State} (h : s.Turned t) : t.freeBlocks = s.freeBlocks := by rw [← h.rest]

/-- Settles O13: each request is a branch of `onStation`, and DROP STATION then the branch that names of its index
choose. -/
theorem readAndDropStation : Obligations.ReadAndDropStation := by
  refine fun s b => ⟨fun i st index occupied => ⟨?_, fun named => ?_, fun unnamed route => ?_⟩,
    fun i index empty => ⟨?_, ?_⟩, fun outside => ⟨?_, ?_⟩⟩
  · exact exec_answers rfl (onStation_occupied _ index occupied)
  · exact exec_answers rfl ((onStation_occupied _ index occupied).trans (dropStation_inUse named))
  · obtain ⟨t, run, turned⟩ := exec_turned (i := .dropStation b) rfl
      ((onStation_occupied _ index occupied).trans (dropStation_drops unnamed route)) (.considerAll _)
    refine ⟨t, run, turned, ?_⟩
    rw [turned.station, State.answer_station, (State.Moved.sweep _).station, State.station_setStation, if_pos rfl]
  · exact exec_answers rfl (onStation_empty _ index empty)
  · exact exec_answers rfl (onStation_empty _ index empty)
  · exact exec_answers rfl (onStation_outside _ outside)
  · exact exec_answers rfl (onStation_outside _ outside)

/-! ## SET STATION accepted (R56) -/

section
variable {i : Index} {s : State} {n : Station}

/-- Whether SET STATION brings the station of an index back to HEARD (R56, R67). -/
def State.comesBack (s : State) (i : Index) (n : Station) : Bool :=
  (s.station i).any fun old => old.call = n.call && old.reach = .unheard && n.interval = 0

/-- The part as an accepted SET STATION has it before its sweep (R56, R67). -/
def State.withStation (s : State) (i : Index) (n : Station) : State :=
  { s.setStation i (some (writtenStation (s.station i) n)) with reachChanged := s.reachChanged || s.comesBack i n }

theorem writtenStation_reach {old : Option Station} (fresh : n.reach = .heard) :
    (writtenStation old n).reach = .heard ↔ ∀ st, old = some st → st.call = n.call → st.reach = .unheard → n.interval = 0 := by
  cases old with
  | none => simp [writtenStation, fresh]
  | some st =>
    by_cases same : st.call = n.call
    · cases reach : st.reach <;> simp [writtenStation, same, Station.rewritten, reach]
    · simp [writtenStation, same, fresh]

/-- A station comes back to HEARD exactly when it was UNHEARD and is no longer monitored (R56). -/
theorem State.came_iff_comesBack (fresh : n.reach = .heard) :
    ((s.station i).any (fun old => old.call = n.call && old.reach = .unheard) &&
      (writtenStation (s.station i) n).reach = .heard) = s.comesBack i n := by
  have heard := writtenStation_reach (old := s.station i) fresh
  unfold State.comesBack
  cases held : s.station i with
  | none => rfl
  | some st =>
    rw [held] at heard
    rw [Bool.eq_iff_iff]
    simp only [Option.any_some, Bool.and_eq_true, decide_eq_true_eq, heard]
    constructor
    · rintro ⟨⟨call, unheard⟩, back⟩
      exact ⟨⟨call, unheard⟩, back st rfl call unheard⟩
    · rintro ⟨⟨call, unheard⟩, unmonitored⟩
      exact ⟨⟨call, unheard⟩, fun _ _ _ _ => unmonitored⟩

theorem writeStation_eq (fresh : n.reach = .heard) : writeStation i n s =
    considerAll ((sweep (s.withStation i n)).answer .done
      ((sweep (s.withStation i n)).stationRecord i (writtenStation (s.station i) n))) := by
  have flagged : (if ((s.station i).any (fun old => old.call = n.call && old.reach = .unheard) &&
        (writtenStation (s.station i) n).reach = .heard) then
      { s.setStation i (some (writtenStation (s.station i) n)) with reachChanged := true }
      else s.setStation i (some (writtenStation (s.station i) n))) = s.withStation i n := by
    rw [State.came_iff_comesBack fresh, State.withStation]
    cases s.comesBack i n
    · rw [Bool.or_false]; rfl
    · rw [Bool.or_true]; rfl
  have stored : (sweep (s.withStation i n)).station i = some (writtenStation (s.station i) n) := by
    rw [(State.Moved.sweep _).station]
    exact (State.station_setStation s i i _).trans (if_pos rfl)
  simp only [writeStation]
  rw [flagged, answerStation, stored]

theorem newStation_of_parseStation {p : StationBlock} (parsed : s.parseStation p = some (i, n)) :
    n.reach = .heard ∧ n.forcedUnheard = false ∧ n.heardAge = 0 ∧ n.confirmCount = 0 ∧ n.holdRemaining = 0 ∧
      n.holdCutoff = 0 := by
  unfold State.parseStation at parsed
  simp only [Option.bind_eq_some_iff] at parsed
  obtain ⟨_, -, _, -, parsed⟩ := parsed
  split at parsed
  · exact nomatch parsed
  · simp only [Option.bind_eq_some_iff, Option.map_eq_some_iff] at parsed
    obtain ⟨_, -, _, -, _, -, _, -, pair⟩ := parsed
    obtain ⟨-, rfl⟩ := Prod.mk.inj pair
    exact ⟨rfl, rfl, rfl, rfl, rfl, rfl⟩

theorem setStation_accepted {p : StationBlock} (parsed : s.parseStation p = some (i, n))
    (relay : s.isRelay i = true → n.kind = .direct) : setStation p s = writeStation i n s := by
  simp only [setStation, parsed]
  exact if_neg fun ⟨isRelay, via⟩ => via (relay isRelay)

theorem writtenStation_of_other (other : (s.station i).any (·.call = n.call) = false) :
    writtenStation (s.station i) n = n := by
  cases held : s.station i with
  | none => rfl
  | some st =>
    rw [held] at other
    exact if_neg (by simpa using other)

theorem State.comesBack_iff : s.comesBack i n = true ↔
    ∃ old, s.station i = some old ∧ old.call = n.call ∧ old.reach = .unheard ∧ n.interval = 0 := by
  simp [State.comesBack, Option.any_eq_true, and_assoc]

end

/-- Settles O11: an accepted SET STATION is `writeStation`, whose sweep and considerations move no record. -/
theorem setStationWritesRecord : Obligations.SetStationWritesRecord := by
  refine ⟨fun s p i n parsed relay => ?_, fun old n same => ?_⟩
  · obtain ⟨heard, forced, age, count, hold, cutoff⟩ := newStation_of_parseStation parsed
    obtain ⟨t, run, turned⟩ := exec_turned (i := .setStation p) rfl
      ((setStation_accepted parsed relay).trans (writeStation_eq heard)) (.considerAll _)
    have moved := State.Moved.sweep (s.withStation i n)
    have swept := (State.Turned.sweep (s.withStation i n)).answer .done
      ((sweep (s.withStation i n)).stationRecord i (writtenStation (s.station i) n))
    have all := swept.trans turned
    obtain ⟨-, own, classes, time, -⟩ := all.sameTables
    have station : ∀ j, t.station j = (s.setStation i (some (writtenStation (s.station i) n))).station j :=
      fun j => all.station j
    have here : t.station i = some (writtenStation (s.station i) n) :=
      (station i).trans ((State.station_setStation ..).trans (if_pos rfl))
    refine ⟨t, run, here, fun j other => (station j).trans ((State.station_setStation ..).trans (if_neg (Ne.symm other))),
      fun other => ?_, ⟨s.comesBack i n, State.comesBack_iff, turned⟩, all.entry, all.chan,
      own, classes, time, all.freeEntries, all.freeBlocks⟩
    · rw [writtenStation_of_other other] at here
      exact ⟨here, heard, forced, age, count, hold, cutoff⟩
  · have rewritten : writtenStation (some old) n = old.rewritten n := if_pos same
    simp only [rewritten]
    refine ⟨rfl, rfl, rfl, rfl, rfl, rfl, rfl, rfl, rfl, rfl, rfl, fun back => ?_, fun stays => ?_⟩
    · simp only [Station.rewritten, if_pos back, and_self]
    · simp only [Station.rewritten, if_neg stays, and_self]

end Sys2Proof.Machine
end

/-! # AMEND (R48, R49)

The operands are parsed first; a READY entry then leaves its collection, is changed and is placed anew. -/

section
namespace Sys2Proof.Machine

/-! ## What routes read (R27, R61, R62) -/

theorem State.RoutesAlike.route {s t : State} (h : s.RoutesAlike t) : t.route = s.route := by
  have station : t.station = s.station := funext fun i => by rw [State.station, h.stations, State.station]
  funext e
  simp only [State.route, State.loops, h.resolve, station]

theorem State.RoutesAlike.of_sameLine {s t : State} (stations : t.stations = s.stations) (own : t.own = s.own)
    (chan : ∀ c, (s.chan c).SameLine (t.chan c)) : s.RoutesAlike t :=
  ⟨stations, own, fun c => by constructor <;> rw [← (chan c).rest]⟩

theorem State.Moved.routesAlike {s t : State} (h : s.Moved t) : s.RoutesAlike t :=
  .of_sameLine h.stations (by rw [← h.rest]) fun c => (h.chan c).sameLine

theorem State.RoutesAlike.updEntry (s : State) (h : Handle) (f : Entry → Entry) : s.RoutesAlike (s.updEntry h f) :=
  ⟨rfl, rfl, fun _ => ⟨rfl, rfl⟩⟩

theorem State.RoutesAlike.trans {s t u : State} (a : s.RoutesAlike t) (b : t.RoutesAlike u) : s.RoutesAlike u :=
  ⟨b.stations.trans a.stations, b.own.trans a.own,
    fun c => ⟨(b.gates c).1.trans (a.gates c).1, (b.gates c).2.trans (a.gates c).2⟩⟩

/-! ## Calls at the port (R112, R187) -/

theorem parseCall_ne_blank {f : List Byte} {d : Call} (call : parseCall f = some d) : ∃ x ∈ f, x ≠ space := by
  unfold parseCall at call
  simp only at call
  split at call
  · next parts =>
    obtain ⟨-, nonempty, -⟩ := parts
    obtain ⟨x, member⟩ := List.exists_mem_of_ne_nil _ nonempty
    exact ⟨x, (List.takeWhile_sublist _).subset member, by simpa using List.mem_takeWhile_imp member⟩
  · exact nomatch call

/-! ## The operands of AMEND (R48) -/

section
variable {s : State} {pb : Byte} {f : CallField}

theorem amendedPrecedence_given {old p : Fin 8} (given : pb = 0xFF ∧ p = old ∨ pb.toNat = p.val) :
    amendedPrecedence old pb = some p := by
  rcases given with ⟨unchanged, rfl⟩ | value
  · exact if_pos unchanged
  · refine (if_neg fun unchanged => ?_).trans (parsePrec_eq_some value)
    rw [unchanged] at value
    exact absurd (value ▸ p.isLt) (by decide)

theorem amendedPrecedence_bad {old : Fin 8} (changed : pb ≠ 0xFF) (outside : 8 ≤ pb.toNat) :
    amendedPrecedence old pb = none :=
  (if_neg changed).trans (parsePrec_eq_none outside)

theorem State.amendedDestination_given {old d : Call}
    (given : (∀ x ∈ f.toList, x = 0x20) ∧ d = old ∨ parseCall f.toList = some d ∧ d ≠ s.own.call) :
    s.amendedDestination old f = some d := by
  rcases given with ⟨blank, rfl⟩ | ⟨call, other⟩
  · exact if_pos (isBlank_iff.2 blank)
  · obtain ⟨x, member, visible⟩ := parseCall_ne_blank call
    exact (if_neg fun blank => visible (isBlank_iff.1 blank x member)).trans (State.destinationOf_eq_some call other)

theorem State.amendedDestination_bad {old : Call} (given : ∃ x ∈ f.toList, x ≠ 0x20)
    (bad : ∀ d, parseCall f.toList = some d → d = s.own.call) : s.amendedDestination old f = none := by
  obtain ⟨x, member, visible⟩ := given
  exact (if_neg fun blank => visible (isBlank_iff.1 blank x member)).trans (State.destinationOf_eq_none bad)

end

/-! ## AMEND by the entry's state (R48, R49) -/

section
variable {s : State} {h : Handle} {pb : Byte} {f : CallField} {p : Fin 8} {d : Call}

theorem EntryState.amendable_iff {x : EntryState} : x.amendable = true ↔
    x = .ready ∨ x = .retryWait ∨ x = .failed ∨ x = .refused ∨ x = .cancelled := by
  cases x <;> simp [EntryState.amendable]

theorem amend_amendable (precedence : amendedPrecedence (s.entry h).precedence pb = some p)
    (destination : s.amendedDestination (s.entry h).destination f = some d)
    (amendable : (s.entry h).state.amendable = true) : amend pb f h s = amendEntry p d h s := by
  simp only [amend, precedence, destination, amendable, if_true]

theorem amend_wrongState (precedence : amendedPrecedence (s.entry h).precedence pb = some p)
    (destination : s.amendedDestination (s.entry h).destination f = some d)
    (refused : (s.entry h).state.amendable = false) : amend pb f h s = s.answer .wrongState [] := by
  simp only [amend, precedence, destination, refused, Bool.false_eq_true, if_false]

theorem amend_badValue (bad : amendedPrecedence (s.entry h).precedence pb = none ∨
    s.amendedDestination (s.entry h).destination f = none) : amend pb f h s = s.answer .badValue [] := by
  unfold amend
  split
  · next precedence destination =>
    rw [precedence, destination] at bad
    exact nomatch bad
  · rfl

/-- The entry as AMEND writes it (R48). -/
def Entry.amended (e : Entry) (p : Fin 8) (d : Call) : Entry := { e with precedence := p, destination := d }

/-- A READY entry changed out of its collection (R49). -/
def State.amending (s : State) (p : Fin 8) (d : Call) (h : Handle) : State :=
  (s.leave h).updEntry h fun e => e.amended p d

theorem State.amending_entry : (s.amending p d h).entry h = (s.entry h).amended p d :=
  (State.entry_updEntry ..).trans (if_pos rfl)

theorem State.amending_route : (s.amending p d h).route = s.route :=
  ((State.Moved.leave s h).routesAlike.trans (.updEntry _ h _)).route

theorem State.amending_sameButPlacing : s.SameButPlacing h (s.amending p d h) :=
  (State.SameButPlacing.leave h s).trans (.updEntry h _ _)

theorem amendEntry_ready (ready : (s.entry h).state = .ready) : amendEntry p d h s = considerAll
    (((s.amending p d h).place h).answer .done
      [3, optByte ((s.route ((s.entry h).amended p d)).bind s.hopChannel)]) := by
  have placed : ((s.amending p d h).place h).placedOn h = (s.route ((s.entry h).amended p d)).bind s.hopChannel := by
    rw [State.placedOn_place, State.amending_entry, State.amending_route,
      State.hopChannel_congr State.amending_sameButPlacing.stations]
  exact placed ▸ if_pos ready

theorem amendEntry_kept (notReady : (s.entry h).state ≠ .ready) : amendEntry p d h s =
    (s.setEntry h ((s.entry h).amended p d)).answer .done [(s.entry h).state.code, 0xFF] := if_neg notReady

/-- AMEND of a READY entry: it leaves its collection changed and is placed by its route (R49). -/
theorem amend_placed {b : Byte} (precedence : amendedPrecedence (s.entry (parseHandle b)).precedence pb = some p)
    (destination : s.amendedDestination (s.entry (parseHandle b)).destination f = some d)
    (ready : (s.entry (parseHandle b)).state = .ready) :
    let h := parseHandle b
    let e' := (s.entry h).amended p d
    ∃ u t : State, exec (.amend b pb f) s = .next t ∧ u.Turned t ∧
      u.entry h = { e' with nextHop := s.route e', notBefore := none, cancelPending := none } ∧
      h ∈ u.collection (u.collectionFor (s.route e')) ∧
      u.response = ⟨.done, [3, optByte ((s.route e').bind s.hopChannel)]⟩ ∧ s.SameButPlacing h u := by
  intro h e'
  have held : (s.entry h).state ≠ .free := by rw [ready]; exact nofun
  have amendable : (s.entry h).state.amendable = true := by rw [ready]; rfl
  obtain ⟨t, run, turned⟩ := exec_turned (i := .amend b pb f) rfl ((onEntry_held _ held).trans
    ((amend_amendable precedence destination amendable).trans (amendEntry_ready ready))) (.considerAll _)
  refine ⟨_, t, run, turned, ?_, ?_, rfl, (State.amending_sameButPlacing.trans (.place h _)).answer _ _⟩
  · rw [State.answer_entry, State.place_entry, State.amending_entry, State.amending_route, ← ready]
    rfl
  · have member := State.mem_collection_place (s.amending p d h) h
    rw [State.amending_entry, State.amending_route] at member
    exact member

end

/-- Settles O6: AMEND is a branch of `amend` once its operands are parsed, and a READY entry is placed anew. -/
theorem amendByState : Obligations.AmendByState := by
  constructor
  · intro s b pb f p d h e e' given named
    have precedence := amendedPrecedence_given given
    have destination := State.amendedDestination_given (s := s) named
    refine ⟨fun ready => ?_, fun kept => ?_, fun refused => ?_⟩
    · exact amend_placed precedence destination ready
    · have held : e.state ≠ .free := by rcases kept with state | state | state | state <;> rw [state] <;> exact nofun
      have notReady : e.state ≠ .ready := by rcases kept with state | state | state | state <;> rw [state] <;> exact nofun
      exact exec_ends rfl ((onEntry_held _ held).trans ((amend_amendable precedence destination
        (EntryState.amendable_iff.2 (.inr kept))).trans (amendEntry_kept notReady))) fun _ => rfl
    · have refusal : e.state ≠ .free ∧ e.state.amendable = false := by
        rcases refused with state | state | state | state | state <;> rw [state] <;> exact ⟨nofun, rfl⟩
      exact exec_answers rfl ((onEntry_held _ refusal.1).trans (amend_wrongState precedence destination refusal.2))
  · intro s b pb f e
    refine ⟨fun free => exec_answers rfl (onEntry_free _ free), fun held bad => ?_⟩
    refine exec_answers rfl ((onEntry_held _ held).trans (amend_badValue ?_))
    rcases bad with ⟨changed, outside⟩ | ⟨given, bad⟩
    · exact .inl (amendedPrecedence_bad changed outside)
    · exact .inr (State.amendedDestination_bad given bad)

end Sys2Proof.Machine
end

/-! # Resets (R110, R185) and the Time Base's quantum, second and clock second (R168, R169)

A reset writes the state as a whole. What a quantum and a second do to one record is `Station.atQuantum`,
`Channel.atQuantum` and `Station.atSecond`. -/

section
namespace Sys2Proof.Machine

/-! ## The state after reset, read by table (R110) -/

theorem State.reset_entry (h : Handle) : State.reset.entry h = Entry.free := by
  simp [State.entry, State.reset]

theorem State.reset_station (i : Index) : State.reset.station i = none := by
  simp [State.station, State.reset]

theorem State.reset_chan (c : Chan) : State.reset.chan c = Channel.reset := by
  simp [State.chan, State.reset]

theorem State.reset_attn : State.reset.attn = false := by
  rw [Bool.eq_false_iff, ne_eq, State.attn_iff]
  rintro (⟨h, changed⟩ | changed | changed | ⟨c, changed⟩)
  · rw [State.reset_entry] at changed; exact nomatch changed
  · exact nomatch changed
  · exact nomatch changed
  · rw [State.reset_chan] at changed; exact nomatch changed

/-! ## CLEAR ALL (R185) -/

/-- A request has no effect but its own where it leaves no abort pause and every arbiter as it would act (R149, R175). -/
theorem takeRequest_eq_of_atRest {effect : State → State} {s : State} (after : (effect s).AtRest) :
    takeRequest effect s = effect s := by
  have pauses : forChans (endPause fun c => (s.chan c).abortPause) (effect s) = effect s :=
    forChans_self fun c => by simp [endPause, (after c).1]
  rw [takeRequest, pauses]
  exact arbitrateAll_self fun c => (after c).2

theorem clearAll_chan (s : State) (c : Chan) : (clearAll s).chan c = (s.chan c).afterClearAll := by
  simp [State.chan, clearAll]

/-- A cut leaves a transmitter IDLE, or in a break (R98). -/
theorem Transmitter.cut_cases (g : Settings) (t : Transmitter) :
    t.cut g = .idle ∨ ∃ u r k b, t.cut g = .brk u r k b := by
  cases t with
  | idle | clearing _ _ | keying _ _ => exact .inl rfl
  | sending _ f k => exact .inr ⟨_, _, _, _, rfl⟩
  | brk u r k b => exact .inr ⟨u, r, k, b, rfl⟩

theorem Channel.afterClearAll_arbitrated (x : Channel) : x.afterClearAll.arbitrated = x.afterClearAll := by
  rcases Transmitter.cut_cases x.settings x.transmitter with idle | ⟨u, r, k, b, brk⟩
  · simp only [Channel.arbitrated, Channel.afterClearAll, idle, Channel.reset]
  · exact Channel.arbitrated_of_keyed (by simp only [Channel.afterClearAll, brk, Transmitter.keyed])

theorem clearAll_atRest (s : State) : (clearAll s).AtRest := fun c => by
  rw [clearAll_chan]
  exact ⟨rfl, Channel.afterClearAll_arbitrated _⟩

/-- Settles O28: each reset writes the state as a whole, and CLEAR ALL leaves the part at rest. -/
theorem resetsAndResetValues : Obligations.ResetsAndResetValues := by
  refine ⟨fun s => ⟨s.resetParts, rfl, rfl, rfl, State.resetParts_chan s⟩,
    ⟨fun h => by rw [State.reset_entry]; exact ⟨rfl, rfl, rfl⟩, State.reset_station, fun c => ?_, rfl, by decide, rfl, rfl,
      rfl, State.reset_attn, rfl, rfl, rfl, rfl, rfl, rfl, rfl, rfl, rfl, rfl, rfl⟩, fun s => ?_⟩
  · intro x
    have reset : x = Channel.reset := State.reset_chan c
    rw [reset]
    exact ⟨⟨rfl, rfl, rfl, rfl, rfl, rfl, rfl⟩, ⟨rfl, rfl, rfl, rfl, rfl, rfl, rfl, rfl⟩,
      ⟨rfl, rfl, rfl, rfl, rfl, rfl, rfl, rfl, rfl, rfl, rfl, rfl⟩, rfl⟩
  · have run : exec .clearAll s = .next (clearAll s) :=
      congrArg Host.Outcome.next (takeRequest_eq_of_atRest (clearAll_atRest s))
    exact ⟨_, run, rfl, rfl, clearAll_chan s⟩

/-! ## Quantum (R80, R88, R168) -/

theorem takeQuantum_station (s : State) (i : Index) :
    (takeQuantum s).station i = (s.station i).map Station.atQuantum := by
  simp [State.station, takeQuantum]

theorem takeQuantum_chan (s : State) (c : Chan) : (takeQuantum s).chan c = (s.chan c).atQuantum := by
  simp [State.chan, takeQuantum]

/-- Settles O45: `takeQuantum` writes every record by `Station.atQuantum` and `Channel.atQuantum`. -/
theorem quantumCountsDown : Obligations.QuantumCountsDown := by
  refine fun s due => ⟨takeQuantum s, congrArg _ (if_pos due), fun i st held => ⟨st.atQuantum, ?_, rfl, ?_, rfl⟩,
    fun i empty => ?_, fun c => ?_, rfl, ?_⟩
  · rw [takeQuantum_station, held]; rfl
  · simp [Station.atQuantum]
  · rw [takeQuantum_station, empty]; rfl
  · rw [takeQuantum_chan]
    exact ⟨rfl, by simp [Channel.atQuantum], fun n counting => by simp [Channel.atQuantum, counting],
      fun stopped => by simp [Channel.atQuantum, stopped], rfl⟩
  · exact due ▸ rfl

/-! ## Time Base second (R64, R149, R168) -/

/-- The part at a Time Base second, before its abort pauses end (R64, R168). -/
def State.aged (s : State) : State :=
  { s with
    stations := mapVector (Option.map Station.atSecond) s.stations
    time := { s.time with secondDue := false } }

theorem State.aged_station (s : State) (i : Index) : s.aged.station i = (s.station i).map Station.atSecond := by
  simp [State.station, State.aged]

/-- The part after the pauses that a test names have ended (R149). -/
theorem endPause_abortPause (was : Chan → Bool) (c d : Chan) (s : State) :
    ((endPause was c s).chan d).abortPause = ((s.chan d).abortPause && !(decide (c = d) && was d)) := by
  unfold endPause
  split
  · next pausing =>
    rw [Bool.and_eq_true] at pausing
    have same : ∀ (t : State), ((consider c t).chan d).abortPause = (t.chan d).abortPause := fun t => by
      rw [← (State.Moved.consider c t).chan d]
    rw [same, State.chan_updChan]
    by_cases here : c = d
    · subst here; simp [pausing.1]
    · simp [here]
  · next standing =>
    by_cases here : c = d
    · subst here
      cases paused : (s.chan c).abortPause <;> simp_all
    · simp [here]

/-- Every abort pause that a test names has ended (R149). -/
theorem forChans_endPause_abortPause (was : Chan → Bool) (s : State) (c : Chan) (paused : was c = true) :
    ((forChans (endPause was) s).chan c).abortPause = false := by
  rcases chan_cases c with rfl | rfl | rfl | rfl <;>
    simp [forChans, endPause_abortPause, paused]

/-- The arbiter writes the transmitter alone (R133 to R135). -/
theorem Channel.arbitrated_rest (x : Channel) : { x.arbitrated with transmitter := x.transmitter } = x := by
  cases keyed : x.transmitter.keyed with
  | false => rw [Channel.arbitrated_of_notKeyed keyed]
  | true => rw [Channel.arbitrated_of_keyed keyed]

theorem Channel.arbitrated_abortPause (x : Channel) : x.arbitrated.abortPause = x.abortPause :=
  (congrArg Channel.abortPause x.arbitrated_rest : _)

theorem arbitrateAll_abortPause (s : State) (c : Chan) :
    ((arbitrateAll s).chan c).abortPause = (s.chan c).abortPause := by
  rw [arbitrateAll_chan, Channel.arbitrated_abortPause]

theorem State.aged_turned (s : State) : s.aged.Turned (takeSecond s) :=
  (State.Turned.forChans (fun c t => .endPause _ c t) _).trans (.arbitrateAll _)

theorem takeSecond_abortPause (s : State) (c : Chan) : ((takeSecond s).chan c).abortPause = false := by
  rw [takeSecond, arbitrateAll_abortPause]
  cases paused : (s.chan c).abortPause with
  | true => exact forChans_endPause_abortPause _ _ c paused
  | false =>
    have ended := (State.Turned.forChans (fun c t => .endPause (fun c => (s.chan c).abortPause) c t) s.aged).chan c
    exact Bool.eq_false_iff.2 fun set => Bool.false_ne_true (paused.symm.trans (ended.pause set))

/-- Settles O46: a second ages every record by `Station.atSecond`; the end of the pauses is a `State.Turned`. -/
theorem secondAdvancesAges : Obligations.SecondAdvancesAges := by
  refine fun s due => ⟨takeSecond s, congrArg _ (if_pos due), fun i st held => ⟨st.atSecond, ?_, rfl, ?_, rfl⟩,
    fun i empty => ?_, takeSecond_abortPause s, s.aged_turned.chan, fun k idle => (s.aged_turned.others k idle).1,
    s.aged_turned.own, (congrArg State.time s.aged_turned.rest : _), s.aged_turned.response⟩
  · rw [s.aged_turned.station, State.aged_station, held]; rfl
  · simp [Station.atSecond, and_assoc]
  · rw [s.aged_turned.station, State.aged_station, empty]; rfl

/-! ## Clock second and windows (R162, R169, R172) -/

section
variable {g : Settings}

theorem Settings.window_of_period_eq_zero (aperiodic : g.period = 0) (n m : Nat) : g.window n m = .none :=
  if_pos aperiodic

theorem Settings.window_of_lt (within : g.offset < g.period) {n m : Nat}
    (inside : (n + g.period - g.offset) % g.period < g.length) :
    g.window n m = .opened (g.length * 1000 - ((n + g.period - g.offset) % g.period * 1000 + m)) := by
  rw [Settings.window, if_neg (by omega)]
  simp only [Settings.elapsed_of_lt within, if_pos inside]

theorem Settings.window_of_ge (within : g.offset < g.period) {n m : Nat}
    (outside : g.length ≤ (n + g.period - g.offset) % g.period) :
    g.window n m = .closed (g.period - (n + g.period - g.offset) % g.period) := by
  rw [Settings.window, if_neg (by omega)]
  simp only [Settings.elapsed_of_lt within, if_neg (not_lt.2 outside)]

end

/-- Four updates, one for each channel, read at one of them. -/
theorem State.chan_forChans_updChan_each (f : Chan → Channel → Channel) (s : State) (c : Chan) :
    (forChans (fun c t => t.updChan c (f c)) s).chan c = f c (s.chan c) := by
  rcases chan_cases c with rfl | rfl | rfl | rfl <;> simp [forChans]

/-- Four updates, one for each channel, write nothing but the channels. -/
theorem State.forChans_updChan_each_eq (f : Chan → Channel → Channel) (s : State) :
    forChans (fun c t => t.updChan c (f c)) s =
      { s with channels := (forChans (fun c t => t.updChan c (f c)) s).channels } := rfl

theorem takeClockSecond_at_end {s : State} (last : s.time.clockMs = 999) : takeClockSecond s =
    forChans (fun c t => t.updChan c fun x =>
      { x with windowDue := (s.windowChange (nextSecond s.time.clockSecond) 0 c).or x.windowDue })
      (writeClock (nextSecond s.time.clockSecond) 0 { s with time := { s.time with clockDue := false } }) := if_pos last

theorem takeClockSecond_chan {s : State} (last : s.time.clockMs = 999) (c : Chan) :
    (takeClockSecond s).chan c = { s.chan c with
      windowDue := (s.windowChange (nextSecond s.time.clockSecond) 0 c).or (s.chan c).windowDue } := by
  rw [takeClockSecond_at_end last]
  exact State.chan_forChans_updChan_each _ _ c

theorem takeClockSecond_rest {s : State} (last : s.time.clockMs = 999) : takeClockSecond s =
    { s with
      time := { s.time with clockSecond := nextSecond s.time.clockSecond, clockMs := 0, clockDue := false }
      channels := (takeClockSecond s).channels } := by
  rw [takeClockSecond_at_end last]
  exact State.forChans_updChan_each_eq _ _

theorem takeClockSecond_early {s : State} (early : s.time.clockMs ≠ 999) : takeClockSecond s =
    { s with time := { s.time with clockMs := s.time.clockMs + 1, clockDue := false } } := if_neg early

theorem nextSecond_eq_mod {n : Nat} (low : n ≤ 86399) : nextSecond n = (n + 1) % 86400 := by
  unfold nextSecond
  split <;> omega

/-- Settles O47: a window is open or closed by its elapsed seconds, and a clock second writes the clock and the events. -/
theorem clockSecondAndWindows : Obligations.ClockSecondAndWindows := by
  refine ⟨fun g c m n k periodic within short ms ms' => ?_, fun g c m n k aperiodic => ?_,
    fun s due last low => ?_, fun s => ⟨fun idle => ?_, fun due early => ?_⟩⟩
  · intro e e'
    refine ⟨fun closed opened => ?_, fun opened closed => ?_, fun opened opened' more => ?_,
      fun opened opened' less => ?_, fun closed closed' => ?_⟩
    · rw [Settings.window_of_ge within closed, Settings.window_of_lt within opened]; rfl
    · rw [Settings.window_of_lt within opened, Settings.window_of_ge within closed]; rfl
    · rw [Settings.window_of_lt within opened, Settings.window_of_lt within opened']
      exact if_pos (by omega)
    · rw [Settings.window_of_lt within opened, Settings.window_of_lt within opened']
      exact if_neg (by omega)
    · rw [Settings.window_of_ge within closed, Settings.window_of_ge within closed']; rfl
  · rw [Settings.window_of_period_eq_zero aperiodic]; rfl
  · intro next
    have second : nextSecond s.time.clockSecond = next := nextSecond_eq_mod low
    have rest := takeClockSecond_rest last
    refine ⟨takeClockSecond s, congrArg _ (if_pos due), ?_, fun c none => ?_, ?_⟩
    · rw [rest, second]
    · rw [takeClockSecond_chan last, none, second, Option.or_none]; rfl
    · rw [rest]
  · exact congrArg _ (if_neg (by rw [idle]; exact Bool.false_ne_true))
  · exact congrArg _ ((if_pos due).trans (takeClockSecond_early early))

end Sys2Proof.Machine
end

/-! # Events on one channel: what they leave alone, BEACON_DUE, the CD pin, gap and jam (R100 to R103, R124, R125, R138)

`State.EventOn c freed s t` says what an event on a channel leaves alone, when it frees an entry at most: the other
channels' lines, the entries that neither wait nor are freed, the counts, the tables and the response buffer. -/

section
namespace Sys2Proof.Machine

/-- What an event on a channel leaves alone, when it releases the reservation `freed` and nothing else (R18, R32). -/
structure State.EventOn (c : Chan) (freed : Option Handle) (s t : State) : Prop where
  lines : freed = none → ∀ d, d ≠ c → (s.chan d).SameLine (t.chan d)
  entry : ∀ k, freed ≠ some k → (s.entry k).SameMessage (t.entry k)
  others : ∀ k, ¬ s.Waits k → freed ≠ some k → t.entry k = s.entry k ∧ ¬ t.Waits k
  released : ∀ h, freed = some h → t.freeEntries = s.freeEntries + 1 ∧
    t.freeBlocks = s.freeBlocks + (s.entry h).blockCount ∧ (¬ s.Waits h → t.entry h = Entry.free ∧ ¬ t.Waits h)
  counts : freed = none → t.freeEntries = s.freeEntries ∧ t.freeBlocks = s.freeBlocks ∧ t.congestion = s.congestion
  tables : s.SameTables t
  response : t.response = s.response

theorem State.SameTables.refl (s : State) : s.SameTables s := ⟨rfl, rfl, rfl, rfl, rfl, rfl, rfl⟩

theorem Entry.SameMessage.blockCount {e f : Entry} (h : e.SameMessage f) : f.blockCount = e.blockCount := by rw [← h]

theorem State.Turned.congestion {s t : State} (h : s.Turned t) : t.congestion = s.congestion := by rw [← h.rest]

namespace State.EventOn

section
variable {c : Chan} {freed : Option Handle} {s t u : State}

theorem of_turned (c : Chan) (h : s.Turned t) : s.EventOn c none t where
  lines _ d _ := h.chan d
  entry k _ := h.entry k
  others k idle _ := h.others k idle
  released _ none := nomatch none
  counts _ := ⟨h.freeEntries, h.freeBlocks, h.congestion⟩
  tables := h.sameTables
  response := h.response

theorem refl (c : Chan) (s : State) : s.EventOn c none s := of_turned c (.refl s)

/-- A record of the event's own channel written, its queue and its engine kept. -/
theorem of_updChan (s : State) (c : Chan) (f : Channel → Channel)
    (exchange : (f (s.chan c)).queue = (s.chan c).queue ∧ (f (s.chan c)).engine = (s.chan c).engine) :
    s.EventOn c none (s.updChan c f) where
  lines _ d other := by rw [State.chan_updChan_other s (Ne.symm other)]; exact .rfl' _
  entry _ _ := .rfl' _
  others k idle _ := State.LeavesOthers.of_updChan s c f exchange k idle
  released _ none := nomatch none
  counts _ := ⟨rfl, rfl, rfl⟩
  tables := .refl s
  response := rfl

theorem before (first : s.EventOn c none t) (h : t.EventOn c freed u) : s.EventOn c freed u where
  lines none d other := (first.lines rfl d other).trans (h.lines none d other)
  entry k kept := (first.entry k nofun).trans (h.entry k kept)
  others k idle kept := by
    obtain ⟨same, idle'⟩ := first.others k idle nofun
    obtain ⟨same', idle''⟩ := h.others k idle' kept
    exact ⟨same'.trans same, idle''⟩
  released k some := by
    obtain ⟨entries, blocks, entry⟩ := h.released k some
    obtain ⟨entries', blocks', -⟩ := first.counts rfl
    exact ⟨by rw [entries, entries'], by rw [blocks, blocks', (first.entry k nofun).blockCount],
      fun idle => entry (first.others k idle nofun).2⟩
  counts none := by
    obtain ⟨entries, blocks, congestion⟩ := h.counts none
    obtain ⟨entries', blocks', congestion'⟩ := first.counts rfl
    exact ⟨entries.trans entries', blocks.trans blocks', congestion.trans congestion'⟩
  tables := first.tables.trans h.tables
  response := h.response.trans first.response

theorem andThen (h : s.EventOn c freed t) (last : t.EventOn c none u) : s.EventOn c freed u where
  lines none d other := (h.lines none d other).trans (last.lines rfl d other)
  entry k kept := (h.entry k kept).trans (last.entry k nofun)
  others k idle kept := by
    obtain ⟨same, idle'⟩ := h.others k idle kept
    obtain ⟨same', idle''⟩ := last.others k idle' nofun
    exact ⟨same'.trans same, idle''⟩
  released k some := by
    obtain ⟨entries, blocks, entry⟩ := h.released k some
    obtain ⟨entries', blocks', -⟩ := last.counts rfl
    refine ⟨entries'.trans entries, blocks'.trans blocks, fun idle => ?_⟩
    obtain ⟨free, idle'⟩ := entry idle
    obtain ⟨same, idle''⟩ := last.others k idle' nofun
    exact ⟨same.trans free, idle''⟩
  counts none := by
    obtain ⟨entries, blocks, congestion⟩ := h.counts none
    obtain ⟨entries', blocks', congestion'⟩ := last.counts rfl
    exact ⟨entries'.trans entries, blocks'.trans blocks, congestion'.trans congestion⟩
  tables := h.tables.trans last.tables
  response := last.response.trans h.response

theorem turned (h : s.EventOn c freed t) (last : t.Turned u) : s.EventOn c freed u := h.andThen (of_turned c last)

theorem conclude (h : s.EventOn c freed t) : s.EventOn c freed (conclude t) := h.turned (.conclude t)

end

/-! ## The gate and damage -/

theorem damage (c : Chan) (s : State) : s.EventOn c (s.chan c).receiver.reservation (Machine.damage c s) := by
  have entry := damage_entry c s
  have waits := damage_waits c s
  obtain ⟨tables, response⟩ := damage_tables c s
  refine ⟨fun none d other => ?_, fun k kept => ?_, fun k idle kept => ?_, fun h some => ?_, fun none => ?_, tables,
    response⟩
  · have same : Machine.damage c s = setReceiver .hunt c s := by rw [Machine.damage, none]
    rw [same, setReceiver, State.chan_updChan_other s (Ne.symm other)]
    exact .rfl' _
  · rw [entry, if_neg kept]; exact .rfl' _
  · exact ⟨by rw [entry, if_neg kept], fun w => idle ((waits k).1 w)⟩
  · have freed : Machine.damage c s = testCongestion (freeEntry h (setReceiver .hunt c s)) := by
      rw [Machine.damage, some]; rfl
    have rest := (State.Tested.testCongestion (freeEntry h (setReceiver .hunt c s))).rest
    rw [← freed] at rest
    refine ⟨(congrArg State.freeEntries rest : _), (congrArg State.freeBlocks rest : _), fun idle => ⟨?_, fun w => idle ((waits h).1 w)⟩⟩
    rw [entry, if_pos some]
  · rw [Machine.damage, none]
    exact ⟨rfl, rfl, rfl⟩

theorem gate (c : Chan) (s : State) : s.EventOn c none (Machine.gate c s) := by
  unfold Machine.gate
  simp only
  split
  · exact refl c s
  · split
    · exact of_updChan s c _ ⟨rfl, rfl⟩
    · have ended := of_updChan s c Channel.endBusy ⟨rfl, rfl⟩
      split
      · exact ended.turned (.sweep _)
      · exact ended

end State.EventOn

/-- The gate writes its channel's record, and what else it does is a sweep's (R100 to R103). -/
theorem gate_turned (c : Chan) (s : State) : (s.updChan c Channel.gated).Turned (gate c s) := by
  refine (gate_moved c s).turned ?_
  unfold gate
  simp only
  split
  · next same => rw [State.updChan_self s c _ (by rw [Channel.gated, if_pos same])]; exact .refl s
  · next differs =>
    split
    · next busy => rw [State.updChan, Channel.gated, if_neg differs, if_pos busy]; exact .refl _
    · next clear =>
      rw [State.updChan, Channel.gated, if_neg differs, if_neg clear]
      split
      · exact .sweep _
      · exact .refl _

/-! ## JAMMED taken (R103) -/

/-- A channel's record once a jam threshold that has been reached is taken (R103). -/
def Channel.jamTaken (x : Channel) : Channel := if x.jamReached then x.jam else x

/-- JAMMED, when it waits, is its channel's record written; what else it does is routing's (R103). -/
theorem takeJam_turned (c : Chan) (s : State) : (s.updChan c Channel.jamTaken).Turned (takeJam c s) := by
  unfold takeJam
  split
  · next reached =>
    rw [show s.updChan c Channel.jamTaken = s.updChan c Channel.jam by
      rw [State.updChan, Channel.jamTaken, if_pos reached]; rfl]
    exact ((State.Turned.withdraw c _).trans (.sweep _)).trans (.conclude _)
  · next waits =>
    rw [State.updChan_self s c _ (by rw [Channel.jamTaken, if_neg waits])]
    exact .refl s

theorem Channel.jamTaken_exchange (x : Channel) : x.jamTaken.queue = x.queue ∧ x.jamTaken.engine = x.engine := by
  unfold Channel.jamTaken
  split <;> exact ⟨rfl, rfl⟩

theorem Channel.jamTaken_rest (x : Channel) : { x.jamTaken with jammed := x.jammed, jamChanged := x.jamChanged } = x := by
  unfold Channel.jamTaken
  split <;> rfl

theorem Channel.jamTaken_jammed (x : Channel) : x.jamTaken.jammed = (x.jammed || x.jamReached) := by
  unfold Channel.jamTaken
  split
  · next reached => rw [reached, Bool.or_true]; rfl
  · next waits => rw [Bool.eq_false_iff.2 waits, Bool.or_false]

theorem Channel.jamTaken_jamChanged (x : Channel) : x.jamTaken.jamChanged = (x.jamChanged || x.jamReached) := by
  unfold Channel.jamTaken
  split
  · next reached => rw [reached, Bool.or_true]; rfl
  · next waits => rw [Bool.eq_false_iff.2 waits, Bool.or_false]

theorem takeJam_chan (c : Chan) (s : State) : (s.chan c).jamTaken.SameLine ((takeJam c s).chan c) := by
  have line := (takeJam_turned c s).chan c
  rwa [State.chan_updChan_same] at line

theorem State.EventOn.takeJam (c : Chan) (s : State) : s.EventOn c none (takeJam c s) :=
  (State.EventOn.of_updChan s c _ (Channel.jamTaken_exchange _)).turned (takeJam_turned c s)

theorem takeJam_receiver (c : Chan) (s : State) : ((takeJam c s).chan c).receiver = (s.chan c).receiver := by
  rw [(takeJam_chan c s).receiver]
  exact (congrArg Channel.receiver (s.chan c).jamTaken_rest : _)

/-! ## The gap limit taken (R125) -/

theorem gate_receiver (c : Chan) (s : State) : ((gate c s).chan c).receiver = (s.chan c).receiver := by
  rw [((gate_turned c s).chan c).receiver, State.chan_updChan_same]
  unfold Channel.gated
  split
  · rfl
  · split <;> rfl

theorem State.Turned.receiver {s t : State} (h : s.Turned t) (c : Chan) :
    (t.chan c).receiver = (s.chan c).receiver := (h.chan c).receiver

theorem takeGap_of_over {c : Chan} {s : State} (gap : (s.chan c).gapOver = true) :
    takeGap c s = conclude (gate c (damage c (takeJam c s))) := if_pos gap

theorem takeGap_of_within {c : Chan} {s : State} (within : (s.chan c).gapOver = false) : takeGap c s = s :=
  if_neg (by rw [within]; exact Bool.false_ne_true)

theorem State.EventOn.takeGap {c : Chan} {s : State} (gap : (s.chan c).gapOver = true) :
    s.EventOn c (s.chan c).receiver.reservation (takeGap c s) := by
  have damaged := State.EventOn.damage c (Machine.takeJam c s)
  rw [takeJam_receiver] at damaged
  rw [takeGap_of_over gap]
  exact (((State.EventOn.takeJam c s).before damaged).andThen (.gate c _)).conclude

theorem takeGap_receiver {c : Chan} {s : State} (gap : (s.chan c).gapOver = true) :
    ((takeGap c s).chan c).receiver = .hunt := by
  rw [takeGap_of_over gap, (State.Turned.conclude _).receiver, gate_receiver, damage_receiver]

/-! ## What waits on the line, taken (R102, R125) -/

theorem Channel.gapOver_iff {x : Channel} :
    x.gapOver = true ↔ x.receiver.phase ≠ .hunt ∧ max 1 (x.settings.airTime 16) < x.receiver.gap := by
  simp [Channel.gapOver, Channel.receiving, Settings.gapLimit]

theorem takeJam_gapOver (c : Chan) (s : State) : ((takeJam c s).chan c).gapOver = (s.chan c).gapOver := by
  have settings : ((takeJam c s).chan c).settings = (s.chan c).settings := by
    rw [show ((takeJam c s).chan c).settings = (s.chan c).jamTaken.settings from (congrArg Channel.settings (takeJam_chan c s).rest : _)]
    exact (congrArg Channel.settings (s.chan c).jamTaken_rest : _)
  rw [Bool.eq_iff_iff, Channel.gapOver_iff, Channel.gapOver_iff, takeJam_receiver, settings]

/-- The reservation that what waits on the line releases: that of a frame whose gap limit has passed (R125). -/
def Channel.gapFreed (x : Channel) : Option Handle := if x.gapOver then x.receiver.reservation else none

theorem State.EventOn.settleLine (c : Chan) (s : State) : s.EventOn c (s.chan c).gapFreed (settleLine c s) := by
  have jam := State.EventOn.takeJam c s
  unfold Machine.settleLine Channel.gapFreed
  split
  · next gap =>
    rw [← takeJam_gapOver] at gap
    have damaged := State.EventOn.takeGap gap
    rw [takeJam_receiver] at damaged
    exact jam.before damaged
  · next within =>
    rw [← takeJam_gapOver, Bool.not_eq_true] at within
    rw [takeGap_of_within within]
    exact jam

theorem settleLine_receiver (c : Chan) (s : State) :
    ((settleLine c s).chan c).receiver = if (s.chan c).gapOver then .hunt else (s.chan c).receiver := by
  unfold settleLine
  split
  · next gap =>
    rw [← takeJam_gapOver] at gap
    exact takeGap_receiver gap
  · next within =>
    rw [← takeJam_gapOver, Bool.not_eq_true] at within
    rw [takeGap_of_within within, takeJam_receiver]

end Sys2Proof.Machine
end

/-! # BEACON_DUE, the CD pin, and what the sampler hands over (R96, R97, R100 to R103, R138) -/

section
namespace Sys2Proof.Machine

/-! ## BEACON_DUE (R138, R139) -/

theorem Channel.SameLine.beacon {x y : Channel} (h : x.SameLine y) : y.beacon = x.beacon := by rw [← h.rest]

theorem Channel.SameLine.settings {x y : Channel} (h : x.SameLine y) : y.settings = x.settings := by rw [← h.rest]

theorem Channel.SameLine.control {x y : Channel} (h : x.SameLine y) : y.control = x.control := by rw [← h.rest]

theorem Channel.SameLine.jammed {x y : Channel} (h : x.SameLine y) : y.jammed = x.jammed := by rw [← h.rest]

theorem Channel.SameLine.busyLength {x y : Channel} (h : x.SameLine y) : y.busyLength = x.busyLength := by rw [← h.rest]

theorem Channel.SameLine.cdPin {x y : Channel} (h : x.SameLine y) : y.cdPin = x.cdPin := by rw [← h.rest]

theorem Channel.SameLine.keyed {x y : Channel} (h : x.SameLine y) : y.transmitter.keyed = x.transmitter.keyed :=
  h.onAir.keyed

theorem Channel.beaconFalls_exchange (now : Quad) (x : Channel) :
    (x.beaconFalls now).queue = x.queue ∧ (x.beaconFalls now).engine = x.engine := by
  unfold Channel.beaconFalls
  split <;> exact ⟨rfl, rfl⟩

theorem Channel.beaconReached_of_eq {x : Channel} {now b : Quad} (enabled : x.enabled = true)
    (counting : x.beacon = .counting b) (interval : 0 < x.settings.beaconInterval)
    (passed : (now - b).toNat = x.settings.beaconInterval * 1000) : x.beaconReached now = true := by
  simp only [Channel.beaconReached, counting, enabled, interval, passed, decide_true, le_refl, Bool.and_self]

/-- Settles O49: a beacon that has reached its interval falls due or counts afresh, and the event touches no more. -/
theorem beaconFallsDue : Obligations.BeaconFallsDue := by
  intro s c b enabled counting interval passed
  let u := s.updChan c (Channel.beaconFalls s.time.counter)
  have run : exec (.beaconDue c) s = .next (conclude u) :=
    congrArg _ (if_pos (Channel.beaconReached_of_eq enabled counting interval passed))
  have event := (State.EventOn.of_updChan s c _ (Channel.beaconFalls_exchange s.time.counter _)).conclude
  have line : ((s.chan c).beaconFalls s.time.counter).SameLine ((conclude u).chan c) := by
    have line := (State.Turned.conclude u).chan c
    rwa [State.chan_updChan_same] at line
  refine ⟨_, run, fun clear => ?_, fun silent => ?_, event.lines rfl, fun k idle => (event.others k idle nofun).1,
    event.tables, event.response⟩
  · rw [line.beacon, Channel.beaconFalls, if_neg (by omega)]
  · rw [line.beacon, Channel.beaconFalls, if_pos silent, Channel.restartBeacon]
    exact if_neg (by omega)

/-! ## The carrier gate (R100 to R103) -/

theorem Channel.cdActive_iff {x : Channel} :
    x.cdActive = true ↔ (x.cdPin = true ↔ x.settings.polarity = .activeHigh) := by
  cases polarity : x.settings.polarity <;> cases pin : x.cdPin <;> simp [Channel.cdActive, polarity, pin]

theorem Channel.receiving_iff {x : Channel} : x.receiving = true ↔ x.receiver.phase ≠ .hunt := by
  simp [Channel.receiving]

theorem Channel.carrier_iff {x : Channel} : x.carrier = true ↔ match x.settings.source with
    | .cd => x.cdActive = true
    | .activity => x.receiving = true
    | .either => x.cdActive = true ∨ x.receiving = true := by
  cases source : x.settings.source <;> simp [Channel.carrier, source]

theorem Transmitter.keyed_iff {x : Transmitter} : x.keyed = true ↔ (∃ w n, x = .keying w n) ∨
    (∃ w f k, x = .sending w f k) ∨ ∃ u r k b, x = .brk u r k b := by
  cases x <;> simp [Transmitter.keyed]

theorem Channel.busyNow_iff {x : Channel} :
    x.busyNow = true ↔ x.enabled = true ∧ (x.carrier = true ∨ x.transmitter.keyed = true) := by
  simp [Channel.busyNow]

/-- The gate writes the same of two records with the same line (R100 to R103). -/
theorem Channel.SameLine.gated {x y : Channel} (h : x.SameLine y) : x.gated.SameLine y.gated := by
  obtain ⟨rest, onAir, pause⟩ := h
  have inputs : y.busyNow = x.busyNow ∧ y.busy = x.busy := ⟨Channel.SameLine.busyNow ⟨rest, onAir, pause⟩, by rw [← rest]⟩
  unfold Channel.gated
  rw [inputs.1, inputs.2]
  split
  · exact ⟨rest, onAir, pause⟩
  · split
    · exact ⟨by rw [← rest]; rfl, onAir, pause⟩
    · exact ⟨by rw [← rest]; rfl, onAir, pause⟩

theorem Channel.SameLine.withCd {x y : Channel} (h : x.SameLine y) (v : Bool) :
    { x with cdPin := v }.SameLine { y with cdPin := v } :=
  ⟨by rw [← h.rest], h.onAir, h.pause⟩

/-- The record of a channel on whose CD pin a change has come, its JAMMED taken and its gate evaluated (R100, R102). -/
def Channel.cdChanged (v : Bool) (x : Channel) : Channel := { x.jamTaken with cdPin := v }.gated

/-- What a change of the CD pin leaves alone, and its channel's record after it. -/
theorem concludeLine_setCd (c : Chan) (v : Bool) (s : State) :
    let t := concludeLine c (setCd v c (takeJam c s))
    s.EventOn c none t ∧ ((s.chan c).cdChanged v).SameLine (t.chan c) := by
  intro t
  refine ⟨?_, ?_⟩
  · exact (((State.EventOn.takeJam c s).before (.of_updChan _ c (fun x => { x with cdPin := v }) ⟨rfl, rfl⟩)).andThen
      (.gate c _)).conclude
  · have gated := ((gate_turned c (setCd v c (takeJam c s))).trans (.conclude _)).chan c
    rw [State.chan_updChan_same, setCd, State.chan_updChan_same] at gated
    exact (((takeJam_chan c s).withCd v).gated).trans gated

section
variable {x : Channel} {v : Bool}

theorem Channel.jamTaken_busyNow : { x.jamTaken with cdPin := v }.busyNow = { x with cdPin := v }.busyNow := by
  unfold Channel.jamTaken
  split <;> rfl

theorem Channel.jamTaken_counts : x.jamTaken.busy = x.busy ∧ x.jamTaken.clearTime = x.clearTime ∧
    x.jamTaken.busyLength = x.busyLength := by
  unfold Channel.jamTaken
  split <;> exact ⟨rfl, rfl, rfl⟩

theorem Channel.cdChanged_begins (clear : x.busy = false) (busy : { x with cdPin := v }.busyNow = true) :
    x.cdChanged v = { x.jamTaken with cdPin := v }.beginBusy := by
  unfold Channel.cdChanged Channel.gated
  rw [Channel.jamTaken_busyNow, busy]
  exact (if_neg (by rw [show ({ x.jamTaken with cdPin := v } : Channel).busy = x.busy from Channel.jamTaken_counts.1, clear]; exact nofun)).trans
    (if_pos rfl)

theorem Channel.cdChanged_ends (busy : x.busy = true) (clear : { x with cdPin := v }.busyNow = false) :
    x.cdChanged v = { x.jamTaken with cdPin := v }.endBusy := by
  unfold Channel.cdChanged Channel.gated
  rw [Channel.jamTaken_busyNow, clear]
  exact (if_neg (by rw [show ({ x.jamTaken with cdPin := v } : Channel).busy = x.busy from Channel.jamTaken_counts.1, busy]; exact nofun)).trans
    (if_neg Bool.false_ne_true)

theorem Channel.cdChanged_stays (same : { x with cdPin := v }.busyNow = x.busy) :
    x.cdChanged v = { x.jamTaken with cdPin := v } := by
  unfold Channel.cdChanged Channel.gated
  rw [Channel.jamTaken_busyNow, same]
  exact if_pos Channel.jamTaken_counts.1.symm

theorem Channel.cdChanged_busy : (x.cdChanged v).busy = { x with cdPin := v }.busyNow := by
  rw [Channel.cdChanged, Channel.gated_busy, Channel.jamTaken_busyNow]

/-- What a change of the CD pin leaves of a record (R100). -/
theorem Channel.cdChanged_rest : (x.cdChanged v).cdPin = v ∧ (x.cdChanged v).settings = x.settings ∧
    (x.cdChanged v).receiver = x.receiver := by
  have jam := x.jamTaken_rest
  have settings : x.jamTaken.settings = x.settings := (congrArg Channel.settings jam : _)
  have receiver : x.jamTaken.receiver = x.receiver := (congrArg Channel.receiver jam : _)
  unfold Channel.cdChanged Channel.gated
  split
  · exact ⟨rfl, settings, receiver⟩
  · split <;> exact ⟨rfl, settings, receiver⟩

end

/-- Settles O35: the inputs of the gate by setting, and a change of the CD pin as one write of the record. -/
theorem cdBeginsAndEndsBusy : Obligations.CdBeginsAndEndsBusy := by
  refine ⟨fun x => ?_, fun s c v enabled => ?_⟩
  · intro cd activity
    refine ⟨?_, Transmitter.keyed_iff, Channel.busyNow_iff⟩
    rw [Channel.carrier_iff]
    cases x.settings.source
    · exact Channel.cdActive_iff
    · exact Channel.receiving_iff
    · exact or_congr Channel.cdActive_iff Channel.receiving_iff
  · obtain ⟨event, line⟩ := concludeLine_setCd c v s
    obtain ⟨pin, settings, receiver⟩ := (s.chan c).cdChanged_rest (v := v)
    obtain ⟨-, -, length⟩ := (s.chan c).jamTaken_counts
    refine ⟨_, rfl, line.cdPin.trans pin, ?_⟩
    intro x
    refine ⟨line.busy.trans Channel.cdChanged_busy, fun clear busy => ?_, fun busy clear => ?_, fun busy stays => ?_,
      line.settings.trans settings, line.receiver.trans receiver, event.lines rfl,
      fun k idle => (event.others k idle nofun).1, event.tables, event.response⟩
    · rw [line.clearTime, Channel.cdChanged_begins clear busy]; rfl
    · rw [Channel.cdChanged_ends busy clear] at line
      refine ⟨line.clearTime, line.busyLength, line.jammed, line.jamChanged.trans ?_⟩
      rw [Channel.endBusy, Channel.jamTaken_jammed, Channel.jamTaken_jamChanged, Bool.or_assoc, Bool.or_assoc,
        Bool.or_comm (s.chan c).jamReached, Bool.or_assoc, Bool.or_self]
    · rw [Channel.cdChanged_stays (stays.trans busy.symm)] at line
      exact ⟨line.busyLength.trans length, line.jammed.trans (Channel.jamTaken_jammed _),
        line.jamChanged.trans (Channel.jamTaken_jamChanged _)⟩

end Sys2Proof.Machine
end

/-! # One entry through withdrawals and sweeps (R27, R39, R68, R72, R73)

`State.SameAt h` says that an operation leaves an entry and its places alone, `State.StandsIn h k` that an entry waits in one
collection and in no exchange. A sweep takes an entry that stands in one collection to that of its route. -/

section
namespace Sys2Proof.Machine

/-! ## Collections (R68, R69) -/

theorem mem_insertInOrder {b : Handle → Handle → Bool} {h x : Handle} {q : List Handle} :
    x ∈ insertInOrder b h q ↔ x = h ∨ x ∈ q := by
  rw [(insertInOrder_perm b h q).mem_iff, List.mem_cons]

theorem mem_without {h x : Handle} {q : List Handle} : x ∈ without h q ↔ x ∈ q ∧ x ≠ h := by
  simp [without]

/-- A handle put into a list in order, where the order decides between it and each of the list. -/
theorem insertInOrder_pairwise {b : Handle → Handle → Bool} {h : Handle} {q : List Handle}
    (trans : ∀ x y z, b x y = true → b y z = true → b x z = true) (total : ∀ x ∈ q, b h x = true ∨ b x h = true)
    (sorted : q.Pairwise fun x y => b x y = true) : (insertInOrder b h q).Pairwise fun x y => b x y = true := by
  induction q with
  | nil => exact List.pairwise_singleton _ _
  | cons x q ih =>
    obtain ⟨head, tail⟩ := List.pairwise_cons.1 sorted
    rw [insertInOrder]
    split
    · next before =>
      refine List.pairwise_cons.2 ⟨fun y mem => ?_, sorted⟩
      rcases List.mem_cons.1 mem with rfl | mem
      · exact before
      · exact trans h x y before (head y mem)
    · next after =>
      have xh : b x h = true := (total x List.mem_cons_self).resolve_left after
      refine List.pairwise_cons.2 ⟨fun y mem => ?_, ih (fun y mem => total y (List.mem_cons_of_mem x mem)) tail⟩
      rcases mem_insertInOrder.1 mem with rfl | mem
      · exact xh
      · exact head y mem

/-- A collection's order reads the precedences and accessions of the two entries alone. -/
theorem comesBefore_congr {s t : State} {a b : Handle}
    (ha : (t.entry a).precedence = (s.entry a).precedence ∧ (t.entry a).accession = (s.entry a).accession)
    (hb : (t.entry b).precedence = (s.entry b).precedence ∧ (t.entry b).accession = (s.entry b).accession)
    (k : Collection) : comesBefore t k a b = comesBefore s k a b := by
  simp only [comesBefore, ha.1, ha.2, hb.1, hb.2]

theorem comesBefore_queue_iff {s : State} {c : Chan} {a b : Handle} : comesBefore s (.queue c) a b = true ↔
    (s.entry a).precedence < (s.entry b).precedence ∨
      (s.entry a).precedence = (s.entry b).precedence ∧ (s.entry a).accession < (s.entry b).accession := by
  simp [comesBefore]

theorem comesBefore_unrouted_iff {s : State} {a b : Handle} :
    comesBefore s .unrouted a b = true ↔ (s.entry a).accession < (s.entry b).accession := by
  simp [comesBefore]

theorem comesBefore_trans (s : State) (k : Collection) (a b c : Handle) (ab : comesBefore s k a b = true)
    (bc : comesBefore s k b c = true) : comesBefore s k a c = true := by
  cases k with
  | queue d =>
    rw [comesBefore_queue_iff] at ab bc ⊢
    rcases ab with lt | ⟨eq, lt⟩
    · rcases bc with lt' | ⟨eq', -⟩
      · exact .inl (lt.trans lt')
      · exact .inl (eq' ▸ lt)
    · rcases bc with lt' | ⟨eq', lt'⟩
      · exact .inl (eq ▸ lt')
      · exact .inr ⟨eq.trans eq', BitVec.lt_trans lt lt'⟩
  | unrouted =>
    rw [comesBefore_unrouted_iff] at ab bc ⊢
    exact BitVec.lt_trans ab bc

/-- The order decides between entries of different accessions (R12). -/
theorem comesBefore_total {s : State} (k : Collection) {a b : Handle}
    (differ : (s.entry a).accession ≠ (s.entry b).accession) :
    comesBefore s k a b = true ∨ comesBefore s k b a = true := by
  have accession : (s.entry a).accession < (s.entry b).accession ∨ (s.entry b).accession < (s.entry a).accession := by
    rw [BitVec.lt_def, BitVec.lt_def]
    have : (s.entry a).accession.toNat ≠ (s.entry b).accession.toNat := fun e => differ (BitVec.eq_of_toNat_eq e)
    omega
  cases k with
  | queue d =>
    rw [comesBefore_queue_iff, comesBefore_queue_iff]
    rcases lt_trichotomy (s.entry a).precedence (s.entry b).precedence with lt | eq | lt
    · exact .inl (.inl lt)
    · exact accession.imp (fun lt => .inr ⟨eq, lt⟩) fun lt => .inr ⟨eq.symm, lt⟩
    · exact .inr (.inl lt)
  | unrouted =>
    rw [comesBefore_unrouted_iff, comesBefore_unrouted_iff]
    exact accession

theorem State.collection_join (s : State) (h : Handle) (k q : Collection) : (s.join h k).collection q =
    if k = q then insertInOrder (comesBefore s k) h (s.collection k) else s.collection q :=
  State.collection_setCollection ..

theorem State.mem_join {s : State} {h x : Handle} {k q : Collection} :
    x ∈ (s.join h k).collection q ↔ (x = h ∧ k = q) ∨ x ∈ s.collection q := by
  rw [State.collection_join]
  split
  · next e => rw [mem_insertInOrder, e, and_iff_left rfl]
  · next e => exact ⟨.inr, fun m => m.resolve_left fun ⟨_, e'⟩ => e e'⟩

theorem State.mem_leave {s : State} {h x : Handle} {q : Collection} :
    x ∈ (s.leave h).collection q ↔ x ∈ s.collection q ∧ x ≠ h := by
  rw [State.collection_leave, mem_without]

/-! ## An entry left alone -/

/-- An operation leaves an entry as it is, and in each collection where it was. -/
def State.SameAt (h : Handle) (s t : State) : Prop :=
  t.entry h = s.entry h ∧ ∀ q, h ∈ t.collection q ↔ h ∈ s.collection q

namespace State.SameAt

section
variable {h k : Handle} {s t u : State}

theorem refl (h : Handle) (s : State) : s.SameAt h s := ⟨rfl, fun _ => .rfl⟩

theorem trans (a : s.SameAt h t) (b : t.SameAt h u) : s.SameAt h u :=
  ⟨b.1.trans a.1, fun q => (b.2 q).trans (a.2 q)⟩

theorem updEntry (other : h ≠ k) (f : Entry → Entry) : s.SameAt h (s.updEntry k f) :=
  ⟨by rw [State.entry_updEntry, if_neg (Ne.symm other)], fun q => by rw [State.collection_updEntry]⟩

theorem leave (other : h ≠ k) : s.SameAt h (s.leave k) :=
  ⟨rfl, fun q => by rw [State.mem_leave, and_iff_left other]⟩

theorem join (other : h ≠ k) (q : Collection) : s.SameAt h (s.join k q) :=
  ⟨State.setCollection_entry .., fun p => by rw [State.mem_join, or_iff_right fun e => other e.1]⟩

theorem place (other : h ≠ k) : s.SameAt h (s.place k) := (updEntry other _).trans (join other _)

theorem returnEntry (other : h ≠ k) (o : LastOutcome) : s.SameAt h (s.returnEntry k o) :=
  (updEntry other _).trans (place other)

theorem closeEntry (other : h ≠ k) (x : EntryState) (o : LastOutcome) : s.SameAt h (s.closeEntry k x o) :=
  updEntry other _

theorem idleEngine (h : Handle) (c : Chan) (s : State) : s.SameAt h (idleEngine c s) :=
  ⟨rfl, fun q => by rw [idleEngine_collection]⟩

/-- A withdrawal leaves every entry alone but the one that its engine holds (R39). -/
theorem withdraw {c : Chan} (free : (s.chan c).engine.entry? ≠ some h) : s.SameAt h (withdraw c s) := by
  unfold Machine.withdraw
  split
  · next k w x staged =>
    exact (idleEngine h c s).trans (returnEntry (fun e => free (by rw [staged, e]; rfl)) _)
  · exact refl h s

theorem withdrawIf {c : Chan} (free : (s.chan c).engine.entry? ≠ some h) (test : State → Entry → Bool) :
    s.SameAt h (withdrawIf test c s) := by
  unfold Machine.withdrawIf
  split
  · split
    · exact withdraw free
    · exact refl h s
  · exact refl h s

theorem sweepEntry {p : Collection × Handle} (other : h ≠ p.2) : s.SameAt h (sweepEntry p s) := by
  unfold Machine.sweepEntry
  simp only
  split
  · exact updEntry other _
  · exact ((updEntry other _).trans (leave other)).trans (join other _)

end

end State.SameAt

/-! ## Engines through withdrawals and sweeps -/

section
variable {s : State}

theorem withdraw_engine_other {c d : Chan} (other : d ≠ c) : ((withdraw c s).chan d).engine = (s.chan d).engine := by
  unfold withdraw
  split
  · rw [State.returnEntry_engine, idleEngine_chan, if_neg (Ne.symm other)]
  · rfl

theorem withdrawIf_engine_other {c d : Chan} (other : d ≠ c) (test : State → Entry → Bool) :
    ((withdrawIf test c s).chan d).engine = (s.chan d).engine := by
  unfold withdrawIf
  split
  · split
    · exact withdraw_engine_other other
    · rfl
  · rfl

theorem withdrawIf_of_not_staged {c : Chan} (test : State → Entry → Bool)
    (free : ∀ h w x, (s.chan c).engine ≠ .staged h w x) : withdrawIf test c s = s := by
  unfold withdrawIf
  split
  · next h w x staged => exact absurd staged (free h w x)
  · rfl

theorem sweepEntry_engine (p : Collection × Handle) (d : Chan) :
    ((sweepEntry p s).chan d).engine = (s.chan d).engine := by
  unfold sweepEntry
  simp only
  split
  · rfl
  · rw [State.join, State.setCollection_engine, State.leave_engine]; rfl

theorem foldl_sweepEntry_engine (L : List (Collection × Handle)) (s : State) (d : Chan) :
    ((L.foldl (fun s p => sweepEntry p s) s).chan d).engine = (s.chan d).engine := by
  induction L generalizing s with
  | nil => rfl
  | cons p L ih => exact (ih _).trans (sweepEntry_engine p d)

theorem sweepEntries_engine (s : State) (d : Chan) : ((sweepEntries s).chan d).engine = (s.chan d).engine :=
  foldl_sweepEntry_engine _ s d

end

/-! ## An entry that stands in one collection -/

/-- An entry waits in one collection, and no engine holds it. -/
structure State.StandsIn (s : State) (h : Handle) (k : Collection) : Prop where
  mem : ∀ q, h ∈ s.collection q ↔ q = k
  free : ∀ c, (s.chan c).engine.entry? ≠ some h

/-- An entry that is placed stands in the collection of its route (R27). -/
theorem State.standsIn_place {s : State} {h : Handle} (apart : ∀ q, h ∉ s.collection q)
    (free : ∀ c, (s.chan c).engine.entry? ≠ some h) :
    (s.place h).StandsIn h (s.collectionFor (s.route (s.entry h))) where
  mem q := by
    rw [State.place, State.mem_join]
    simp only [State.collection_updEntry, apart, or_false, true_and]
    exact eq_comm
  free c := by rw [State.place_engine]; exact free c

/-- Withdrawals on every channel leave an entry alone that stands in a collection (R39, R73). -/
theorem State.SameAt.forChans_withdrawIf {s : State} {h : Handle} (free : ∀ c, (s.chan c).engine.entry? ≠ some h)
    (test : Chan → State → Entry → Bool) : s.SameAt h (forChans (fun c => Machine.withdrawIf (test c) c) s) := by
  have step : ∀ c (t : State), s.SameAt h t ∧ (∀ d, (t.chan d).engine.entry? ≠ some h) →
      s.SameAt h (Machine.withdrawIf (test c) c t) ∧ ∀ d, ((Machine.withdrawIf (test c) c t).chan d).engine.entry? ≠ some h := by
    rintro c t ⟨same, free⟩
    refine ⟨same.trans (.withdrawIf (free c) _), fun d held => ?_⟩
    rcases (State.Withdrawn.withdrawIf (test c) c t).engine d with kept | idle
    · exact free d (kept ▸ held)
    · rw [idle] at held; exact nomatch held
  exact (forChans_keeps (P := fun t => s.SameAt h t ∧ ∀ d, (t.chan d).engine.entry? ≠ some h) step
    ⟨.refl h s, free⟩).1

/-! ## A sweep at one entry (R72) -/

section
variable {s : State} {h : Handle}

/-- A sweep's work leads an entry home: its next hop is its route, and it stands in that route's collection alone. -/
def State.SweptAt (s : State) (h : Handle) (t : State) : Prop :=
  t.entry h = { s.entry h with nextHop := s.route (s.entry h) } ∧
    ∀ q, h ∈ t.collection q ↔ q = s.collectionFor (s.route (s.entry h))

theorem sweepEntry_of_home {p : Collection × Handle} (home : s.collectionFor (s.route (s.entry p.2)) = p.1) :
    sweepEntry p s = s.updEntry p.2 fun e => { e with nextHop := s.route (s.entry p.2) } := if_pos home

theorem sweepEntry_of_away {p : Collection × Handle} (away : s.collectionFor (s.route (s.entry p.2)) ≠ p.1) :
    sweepEntry p s = ((s.updEntry p.2 fun e => { e with nextHop := s.route (s.entry p.2) }).leave p.2).join p.2
      (s.collectionFor (s.route (s.entry p.2))) := if_neg away

theorem State.leave_entry (s : State) (h k : Handle) : (s.leave h).entry k = s.entry k := rfl

theorem sweepEntry_entry (p : Collection × Handle) :
    (sweepEntry p s).entry p.2 = { s.entry p.2 with nextHop := s.route (s.entry p.2) } := by
  by_cases home : s.collectionFor (s.route (s.entry p.2)) = p.1
  · rw [sweepEntry_of_home home, State.entry_updEntry, if_pos rfl]
  · rw [sweepEntry_of_away home, State.join, State.setCollection_entry, State.leave_entry, State.entry_updEntry, if_pos rfl]

/-- The work of a sweep on an entry that stands where the sweep found it, or that the sweep has already led home. -/
theorem State.SweptAt.sweepEntry {t : State} {k : Collection} (alike : s.RoutesAlike t)
    (at_ : s.SameAt h t ∧ (∀ q, h ∈ s.collection q ↔ q = k) ∨ s.SweptAt h t) : s.SweptAt h (sweepEntry (k, h) t) := by
  have entry : { t.entry h with nextHop := s.route (s.entry h) } = { s.entry h with nextHop := s.route (s.entry h) } := by
    rcases at_ with ⟨same, -⟩ | swept
    · rw [same.1]
    · rw [swept.1]
  have route : t.route (t.entry h) = s.route (s.entry h) := by
    rw [alike.route]
    rcases at_ with ⟨same, -⟩ | swept
    · rw [same.1]
    · rw [swept.1]; rfl
  have home : t.collectionFor (t.route (t.entry h)) = s.collectionFor (s.route (s.entry h)) := by
    rw [route, State.collectionFor_congr alike.stations]
  refine ⟨(sweepEntry_entry (k, h)).trans (by rw [route, entry]), fun q => ?_⟩
  by_cases stays : t.collectionFor (t.route (t.entry h)) = k
  · rw [sweepEntry_of_home (p := (k, h)) stays, State.collection_updEntry, ← home, stays]
    rcases at_ with ⟨same, one⟩ | swept
    · exact (same.2 q).trans (one q)
    · rw [swept.2, ← home, stays]
  · rw [sweepEntry_of_away (p := (k, h)) stays, State.mem_join, State.mem_leave, home]
    constructor
    · rintro (⟨-, rfl⟩ | ⟨-, other⟩)
      · rfl
      · exact absurd rfl other
    · exact fun e => .inl ⟨rfl, e.symm⟩

/-- The sweep of the entries leads one that stands in a collection home (R72). -/
theorem State.SweptAt.foldl {k : Collection} (one : ∀ q, h ∈ s.collection q ↔ q = k) (L : List (Collection × Handle)) :
    ∀ t : State, s.RoutesAlike t → s.SameAt h t ∨ s.SweptAt h t → (∀ p ∈ L, p.2 = h → p.1 = k) →
      let u := L.foldl (fun s p => Machine.sweepEntry p s) t
      ((∃ p ∈ L, p.2 = h) ∨ s.SweptAt h t → s.SweptAt h u) ∧ (s.SameAt h u ∨ s.SweptAt h u) := by
  induction L with
  | nil => exact fun t _ at_ _ => ⟨fun swept => swept.resolve_left (by simp), at_⟩
  | cons p L ih =>
    intro t alike at_ places
    have alike' := alike.trans (State.Moved.sweepEntry p t).routesAlike
    have places' : ∀ p ∈ L, p.2 = h → p.1 = k := fun p mem => places p (List.mem_cons_of_mem _ mem)
    by_cases here : p.2 = h
    · have swept : s.SweptAt h (Machine.sweepEntry p t) := by
        rw [show p = (k, h) from Prod.ext (places p List.mem_cons_self here) here]
        exact State.SweptAt.sweepEntry alike (at_.imp (fun same => ⟨same, one⟩) id)
      obtain ⟨led, result⟩ := ih _ alike' (.inr swept) places'
      exact ⟨fun _ => led (.inr swept), result⟩
    · have same := State.SameAt.sweepEntry (s := t) (Ne.symm here)
      have kept : s.SweptAt h t → s.SweptAt h (Machine.sweepEntry p t) := fun swept =>
        ⟨same.1.trans swept.1, fun q => (same.2 q).trans (swept.2 q)⟩
      obtain ⟨led, result⟩ := ih _ alike' (at_.imp (fun first => first.trans same) kept) places'
      refine ⟨fun found => led ?_, result⟩
      rcases found with ⟨x, mem, e⟩ | swept
      · exact .inl ⟨x, (List.mem_cons.1 mem).resolve_left fun e' => here (e' ▸ e), e⟩
      · exact .inr (kept swept)

theorem State.mem_waiting {p : Collection × Handle} : p ∈ s.waiting ↔ p.2 ∈ s.collection p.1 := by
  obtain ⟨k, h⟩ := p
  simp only [State.waiting, List.mem_append, List.mem_map, Prod.mk.injEq]
  constructor
  · rintro ((((⟨x, mem, rfl, rfl⟩ | ⟨x, mem, rfl, rfl⟩) | ⟨x, mem, rfl, rfl⟩) | ⟨x, mem, rfl, rfl⟩) | ⟨x, mem, rfl, rfl⟩) <;>
      exact mem
  · intro mem
    cases k with
    | unrouted => exact .inr ⟨h, mem, rfl, rfl⟩
    | queue c =>
      refine .inl ?_
      rcases chan_cases c with rfl | rfl | rfl | rfl
      · exact .inl (.inl (.inl ⟨h, mem, rfl, rfl⟩))
      · exact .inl (.inl (.inr ⟨h, mem, rfl, rfl⟩))
      · exact .inl (.inr ⟨h, mem, rfl, rfl⟩)
      · exact .inr ⟨h, mem, rfl, rfl⟩

/-- The sweep of the entries leaves one alone that waits in no collection. -/
theorem State.SameAt.sweepEntries (apart : ∀ q, h ∉ s.collection q) : s.SameAt h (sweepEntries s) := by
  have key : ∀ (L : List (Collection × Handle)) (t : State), (∀ p ∈ L, p.2 ≠ h) →
      t.SameAt h (L.foldl (fun s p => Machine.sweepEntry p s) t) := by
    intro L
    induction L with
    | nil => exact fun t _ => .refl h t
    | cons p L ih =>
      exact fun t others => (State.SameAt.sweepEntry (others p List.mem_cons_self).symm).trans
        (ih _ fun p mem => others p (List.mem_cons_of_mem _ mem))
  exact key _ s fun p mem e => apart p.1 (e ▸ State.mem_waiting.1 mem)

theorem State.SweptAt.sweepEntries {k : Collection} (one : ∀ q, h ∈ s.collection q ↔ q = k) :
    s.SweptAt h (sweepEntries s) := by
  have found : (k, h) ∈ s.waiting := State.mem_waiting.2 ((one k).2 rfl)
  exact (State.SweptAt.foldl one s.waiting s ⟨rfl, rfl, fun _ => ⟨rfl, rfl⟩⟩ (.inl (.refl h s))
    fun p mem e => (one p.1).1 (e ▸ State.mem_waiting.1 mem)).1 (.inl ⟨_, found, rfl⟩)

/-- What a sweep's withdrawals do at an entry that no engine holds (R73). -/
theorem sweep_withdraws (free : ∀ c, ((sweepEntries s).chan c).engine.entry? ≠ some h) :
    (sweepEntries s).SameAt h (sweep s) ∧
      ∀ c, ((sweep s).chan c).engine = ((sweepEntries s).chan c).engine ∨ ((sweep s).chan c).engine = .idle :=
  ⟨.forChans_withdrawIf free _, (State.Withdrawn.forChans (fun c t => .withdrawIf (strayed c) c t) _).engine⟩

/-- A sweep leads an entry that stands in a collection home (R72). -/
theorem State.StandsIn.sweep {k : Collection} (stands : s.StandsIn h k) : s.SweptAt h (sweep s) ∧
    (Machine.sweep s).StandsIn h (s.collectionFor (s.route (s.entry h))) := by
  have swept := State.SweptAt.sweepEntries stands.mem
  have free : ∀ c, ((sweepEntries s).chan c).engine.entry? ≠ some h := fun c => by
    rw [sweepEntries_engine]; exact stands.free c
  obtain ⟨same, engines⟩ := sweep_withdraws free
  refine ⟨⟨same.1.trans swept.1, fun q => (same.2 q).trans (swept.2 q)⟩,
    fun q => (same.2 q).trans (swept.2 q), fun c held => ?_⟩
  rcases engines c with kept | idle
  · exact free c (kept ▸ held)
  · rw [idle] at held; exact nomatch held

end

end Sys2Proof.Machine
end

/-! # How an ended exchange leaves its entry (R35 to R41, R45, R148, R151)

An engine that holds an entry alone is IDLE, and the entry is closed or back in its route's collection
(`State.EndedHome`). What follows in an abort, a disable or a clear leaves the entry where it is (`State.KeepsAt`), and a
sweep leads it home. -/

section
namespace Sys2Proof.Machine

/-! ## An entry left alone, and not taken by an engine -/

/-- An operation leaves an entry as it is and where it is, and no engine takes it. -/
structure State.KeepsAt (h : Handle) (s t : State) : Prop where
  same : s.SameAt h t
  engine : ∀ c, (t.chan c).engine.entry? = some h → (s.chan c).engine.entry? = some h

namespace State.KeepsAt

section
variable {h : Handle} {s t u : State}

theorem refl (h : Handle) (s : State) : s.KeepsAt h s := ⟨.refl h s, fun _ held => held⟩

theorem trans (a : s.KeepsAt h t) (b : t.KeepsAt h u) : s.KeepsAt h u :=
  ⟨a.same.trans b.same, fun c held => a.engine c (b.engine c held)⟩

theorem not_waits (a : s.KeepsAt h t) (idle : ¬ s.Waits h) : ¬ t.Waits h := by
  rintro (⟨q, mem⟩ | ⟨c, held⟩)
  · exact idle (.inl ⟨q, (a.same.2 q).1 mem⟩)
  · exact idle (.inr ⟨c, a.engine c held⟩)

theorem standsIn {k : Collection} (a : s.KeepsAt h t) (stands : s.StandsIn h k) : t.StandsIn h k :=
  ⟨fun q => (a.same.2 q).trans (stands.mem q), fun c held => stands.free c (a.engine c held)⟩

theorem of_chan (entry : t.entry h = s.entry h) (unrouted : t.unrouted = s.unrouted)
    (chan : ∀ c, (t.chan c).queue = (s.chan c).queue ∧ (t.chan c).engine = (s.chan c).engine) : s.KeepsAt h t := by
  refine ⟨⟨entry, fun q => ?_⟩, fun c held => (chan c).2 ▸ held⟩
  cases q with
  | unrouted => simp only [State.collection, unrouted]
  | queue c => simp only [State.collection, (chan c).1]

theorem updChan {c : Chan} {f : Channel → Channel} (exchange : (f (s.chan c)).queue = (s.chan c).queue ∧
    (f (s.chan c)).engine = (s.chan c).engine) : s.KeepsAt h (s.updChan c f) :=
  of_chan rfl rfl fun d => by
    by_cases here : c = d
    · subst here; rw [State.chan_updChan_same]; exact exchange
    · rw [State.chan_updChan_other s here]; exact ⟨rfl, rfl⟩

theorem tested (a : s.Tested t) : s.KeepsAt h t :=
  of_chan (by rw [← a.rest]; rfl) (by rw [← a.rest]) fun c => ⟨(a.chan c).queue, (a.chan c).engine⟩

theorem damage {c : Chan} (kept : (s.chan c).receiver.reservation ≠ some h) : s.KeepsAt h (damage c s) := by
  have rest := (damage_tested c s).rest
  refine of_chan (by rw [damage_entry, if_neg kept]) ?_ fun d => ?_
  · rw [show (Machine.damage c s).unrouted = (damaged c s).unrouted from (congrArg State.unrouted rest : _)]
    unfold damaged
    split <;> rfl
  · have line := damage_chan c d s
    obtain ⟨queue, engine⟩ := setReceiver_exchange .hunt c d s
    exact ⟨line.queue.trans queue, line.engine.trans engine⟩

end

end State.KeepsAt

/-! ## How an exchange ends -/

/-- The state and the outcome in which an exchange that is ended leaves its entry (R39 to R41, R45). -/
def Engine.ending (cancel : Bool) : Engine → Option (EntryState × LastOutcome)
  | .idle => none
  | .staged _ _ _ => some (.ready, .withdrawn)
  | .sending _ none | .awaiting _ _ => some (if cancel then .cancelled else .ready, .aborted)
  | .sending _ (some .accept) | .sending _ (some .duplicate) => some (.sent, .confirmedLate)
  | .sending _ (some .noroute) => some (if cancel then .cancelled else .refused, .noroute)
  | .sending _ (some .full) => some (if cancel then .cancelled else .ready, .full)

/-- An entry that was `e` is closed, and neither waits nor stands in an exchange. -/
def State.ClosedApart (s : State) (h : Handle) (e : Entry) (x : EntryState) (o : LastOutcome) : Prop :=
  s.Closes h e x o ∧ ¬ s.Waits h

/-- An entry that was `e` is READY with a next hop, in one collection. -/
def State.BackIn (s : State) (h : Handle) (e : Entry) (o : LastOutcome) (r : Option Index) (k : Collection) : Prop :=
  s.entry h = { e with state := .ready, lastOutcome := o, nextHop := r, notBefore := none, cancelPending := none } ∧
    s.StandsIn h k

/-- An entry that was `e` has left its exchange in a state with an outcome. -/
def State.EndedAs (s : State) (h : Handle) (e : Entry) (x : EntryState) (o : LastOutcome) : Prop :=
  (x ≠ .ready → s.ClosedApart h e x o) ∧ (x = .ready → ∃ r k, s.BackIn h e o r k)

/-- So an entry has left its exchange, and where it is READY it has its route and stands in that route's collection. -/
def State.EndedHome (s : State) (h : Handle) (e : Entry) (x : EntryState) (o : LastOutcome) : Prop :=
  (x ≠ .ready → s.ClosedApart h e x o) ∧ (x = .ready → s.BackIn h e o (s.route e) (s.collectionFor (s.route e)))

section
variable {s t : State} {h : Handle} {e : Entry} {x : EntryState} {o : LastOutcome}

theorem State.EndedHome.endedAs (ended : s.EndedHome h e x o) : s.EndedAs h e x o :=
  ⟨ended.1, fun ready => ⟨_, _, ended.2 ready⟩⟩

theorem State.ClosedApart.keeps (closed : s.ClosedApart h e x o) (keeps : s.KeepsAt h t) : t.ClosedApart h e x o :=
  ⟨keeps.same.1.trans closed.1, keeps.not_waits closed.2⟩

theorem State.EndedAs.keeps (ended : s.EndedAs h e x o) (keeps : s.KeepsAt h t) : t.EndedAs h e x o :=
  ⟨fun closed => (ended.1 closed).keeps keeps, fun ready => by
    obtain ⟨r, k, entry, stands⟩ := ended.2 ready
    exact ⟨r, k, keeps.same.1.trans entry, keeps.standsIn stands⟩⟩

theorem State.EndedHome.keeps (ended : s.EndedHome h e x o) (keeps : s.KeepsAt h t) (alike : s.RoutesAlike t) :
    t.EndedHome h e x o :=
  ⟨fun closed => (ended.1 closed).keeps keeps, fun ready => by
    obtain ⟨entry, stands⟩ := ended.2 ready
    rw [State.BackIn, alike.route, State.collectionFor_congr alike.stations]
    exact ⟨keeps.same.1.trans entry, keeps.standsIn stands⟩⟩

/-- A sweep leads an entry home that has left its exchange (R72). -/
theorem State.EndedAs.sweep (ended : s.EndedAs h e x o) : (sweep s).EndedHome h e x o := by
  refine ⟨fun final => ?_, fun ready => ?_⟩
  · obtain ⟨closed, idle⟩ := ended.1 final
    obtain ⟨same, idle'⟩ := State.LeavesOthers.sweep s h idle
    exact ⟨same.trans closed, idle'⟩
  · obtain ⟨r, k, entry, stands⟩ := ended.2 ready
    obtain ⟨swept, home⟩ := stands.sweep
    have route : s.route (s.entry h) = s.route e := by rw [entry]; rfl
    have alike := (State.Moved.sweep s).routesAlike
    rw [State.BackIn, alike.route, State.collectionFor_congr alike.stations, ← route]
    exact ⟨by rw [swept.1, entry], home⟩

theorem State.EndedHome.returns (ended : s.EndedHome h e .ready o) : s.Returns h e o := by
  obtain ⟨entry, stands⟩ := ended.2 rfl
  exact ⟨entry, (stands.mem _).2 rfl⟩

/-- An exchange whose entry has left it as its ending says has left its entry as R39 to R41 and R45 have it. -/
theorem State.leftExchange_of_ended {y : Engine}
    (ended : ∀ x o, y.ending e.cancelled = some (x, o) → s.EndedHome h e x o) : s.LeftExchange y h e := by
  have closes {x : EntryState} {o : LastOutcome} (final : x ≠ .ready) (ended : s.EndedHome h e x o) : s.Closes h e x o :=
    (ended.1 final).1
  have aborted (reads : ∀ c, y.ending c = some (if c then EntryState.cancelled else .ready, LastOutcome.aborted)) :
      (e.cancelPending = some true → s.Closes h e .cancelled .aborted) ∧
        (e.cancelPending ≠ some true → s.Returns h e .aborted) := by
    have ended := ended _ _ (reads e.cancelled)
    rw [ne_eq, ← Entry.cancelled_iff]
    refine ⟨fun cancel => ?_, fun keep => ?_⟩
    · rw [if_pos cancel] at ended; exact closes nofun ended
    · rw [if_neg keep] at ended; exact ended.returns
  unfold State.LeftExchange
  split
  · trivial
  · trivial
  · exact (ended _ _ rfl).returns
  · exact aborted fun _ => rfl
  · exact aborted fun _ => rfl
  · exact closes nofun (ended _ _ rfl)
  · exact closes nofun (ended _ _ rfl)
  · have ended := ended _ _ rfl
    rw [← Entry.cancelled_iff]
    refine ⟨fun cancel => ?_, fun keep => ?_⟩
    · rw [if_pos cancel] at ended; exact closes nofun ended
    · rw [if_neg keep] at ended; exact closes nofun ended

end

/-! ## Endings carried out -/

section
variable {s : State} {c : Chan} {h : Handle}

/-- An entry that an engine held alone, once that engine is IDLE. -/
theorem State.HeldAlone.released (held : s.HeldAlone c h) :
    (∀ q, h ∉ (idleEngine c s).collection q) ∧ ∀ d, ((idleEngine c s).chan d).engine.entry? ≠ some h := by
  obtain ⟨-, apart, others⟩ := held
  refine ⟨fun q => by rw [idleEngine_collection]; exact apart q, fun d => ?_⟩
  rw [idleEngine_chan]
  split
  · exact nofun
  · next other => exact others d (Ne.symm other)

theorem State.closedApart_closeEntry (apart : ∀ q, h ∉ s.collection q) (free : ∀ d, (s.chan d).engine.entry? ≠ some h)
    (x : EntryState) (o : LastOutcome) : (s.closeEntry h x o).ClosedApart h (s.entry h) x o := by
  refine ⟨s.closeEntry_entry h x o, ?_⟩
  rintro (⟨q, mem⟩ | ⟨d, held⟩)
  · exact apart q ((s.collection_updEntry h _ q) ▸ mem)
  · exact free d held

theorem State.backIn_returnEntry (apart : ∀ q, h ∉ s.collection q) (free : ∀ d, (s.chan d).engine.entry? ≠ some h)
    (o : LastOutcome) : (s.returnEntry h o).EndedHome h (s.entry h) .ready o := by
  let noted := s.updEntry h fun e => { e with lastOutcome := o }
  have stands := State.standsIn_place (s := noted) (h := h) (fun q mem => apart q ((s.collection_updEntry h _ q) ▸ mem)) free
  have route : noted.route (noted.entry h) = s.route (s.entry h) := by
    rw [State.entry_updEntry, if_pos rfl, (State.RoutesAlike.updEntry s h _).route]
    rfl
  have alike : s.RoutesAlike (s.returnEntry h o) := (State.Moved.returnEntry s h o).routesAlike
  refine ⟨fun final => absurd rfl final, fun _ => ⟨?_, ?_⟩⟩
  · rw [s.returnEntry_entry h o, alike.route]
  · rw [alike.route, State.collectionFor_congr alike.stations, ← route]
    exact stands

theorem State.endedHome_of_closed {e : Entry} {x : EntryState} {o : LastOutcome} (final : x ≠ .ready)
    (closed : s.ClosedApart h e x o) : s.EndedHome h e x o := ⟨fun _ => closed, fun ready => absurd ready final⟩

theorem State.endedHome_endReturned (apart : ∀ q, h ∉ s.collection q) (free : ∀ d, (s.chan d).engine.entry? ≠ some h)
    (o : LastOutcome) :
    (s.endReturned h o).EndedHome h (s.entry h) (if (s.entry h).cancelled then .cancelled else .ready) o := by
  unfold State.endReturned
  split
  · exact State.endedHome_of_closed nofun (State.closedApart_closeEntry apart free _ _)
  · exact State.backIn_returnEntry apart free o

/-- An exchange that is ended leaves its entry as its ending says (R39 to R41, R45). -/
theorem endExchange_ended (held : s.HeldAlone c h) {x : EntryState} {o : LastOutcome}
    (ending : (s.chan c).engine.ending (s.entry h).cancelled = some (x, o)) :
    (endExchange c s).EndedHome h (s.entry h) x o := by
  obtain ⟨apart, free⟩ := held.released
  obtain ⟨engine, -, -⟩ := held
  have entry : (idleEngine c s).entry h = s.entry h := rfl
  have returned (o : LastOutcome) := State.endedHome_endReturned apart free o
  have closed {x : EntryState} (final : x ≠ .ready) (o : LastOutcome) :=
    State.endedHome_of_closed final (State.closedApart_closeEntry apart free x o)
  cases run : (s.chan c).engine with
  | idle => rw [run] at engine; exact nomatch engine
  | staged k w n =>
    rw [run] at engine ending
    obtain rfl := Option.some.inj engine
    obtain ⟨rfl, rfl⟩ := Prod.mk.inj (Option.some.inj ending)
    rw [show endExchange c s = (idleEngine c s).returnEntry k .withdrawn by
      simp only [endExchange, run]; exact withdraw_of_staged run]
    exact State.backIn_returnEntry apart free _
  | awaiting k n =>
    rw [run] at engine ending
    obtain rfl := Option.some.inj engine
    obtain ⟨rfl, rfl⟩ := Prod.mk.inj (Option.some.inj ending)
    rw [show endExchange c s = (idleEngine c s).endReturned k .aborted by simp only [endExchange, run]]
    exact returned _
  | sending k r =>
    rw [run] at engine ending
    obtain rfl := Option.some.inj engine
    cases r with
    | none =>
      obtain ⟨rfl, rfl⟩ := Prod.mk.inj (Option.some.inj ending)
      rw [show endExchange c s = (idleEngine c s).endReturned k .aborted by simp only [endExchange, run]]
      exact returned _
    | some v =>
      rw [show endExchange c s = (idleEngine c s).endRecorded k v by simp only [endExchange, run]]
      cases v with
      | accept | duplicate =>
        obtain ⟨rfl, rfl⟩ := Prod.mk.inj (Option.some.inj ending)
        exact closed (x := .sent) nofun _
      | noroute =>
        obtain ⟨rfl, rfl⟩ := Prod.mk.inj (Option.some.inj ending)
        exact closed (by split <;> exact nofun) _
      | full =>
        obtain ⟨rfl, rfl⟩ := Prod.mk.inj (Option.some.inj ending)
        exact returned _

end

end Sys2Proof.Machine
end

/-! # What the sampler hands over, the gap limit and JAMMED (R96, R97, R103, R117, R124, R125) -/

section
namespace Sys2Proof.Machine

/-! ## The receive side through an event's end -/

section
variable {c : Chan} {s t : State}

theorem State.EventOn.concludeLine {freed : Option Handle} (h : s.EventOn c freed t) :
    s.EventOn c freed (concludeLine c t) := (h.andThen (.gate c t)).conclude

theorem State.EventOn.setSampler (c : Chan) (p : Sampler) (s : State) : s.EventOn c none (setSampler p c s) :=
  .of_updChan s c _ ⟨rfl, rfl⟩

theorem State.EventOn.setReceiver (c : Chan) (r : Receiver) (s : State) : s.EventOn c none (setReceiver r c s) :=
  .of_updChan s c _ ⟨rfl, rfl⟩

theorem concludeLine_receiver (c : Chan) (s : State) :
    ((concludeLine c s).chan c).receiver = (s.chan c).receiver := by
  rw [concludeLine, (State.Turned.conclude _).receiver, gate_receiver]

theorem setSampler_receiver (p : Sampler) (c : Chan) (s : State) :
    ((setSampler p c s).chan c).receiver = (s.chan c).receiver := by
  rw [setSampler, State.chan_updChan_same]

theorem setReceiver_receiver (r : Receiver) (c : Chan) (s : State) : ((setReceiver r c s).chan c).receiver = r := by
  rw [setReceiver, State.chan_updChan_same]

theorem setSampler_sampler (p : Sampler) (c : Chan) (s : State) : ((setSampler p c s).chan c).sampler = p := by
  rw [setSampler, State.chan_updChan_same]

/-- The part of `State.side` that is the sampler. -/
theorem State.sampler_of_side {s t : State} {c : Chan} (same : t.side c = s.side c) :
    (t.chan c).sampler = (s.chan c).sampler := (Prod.mk.inj same).2

theorem concludeLine_sampler (c : Chan) (s : State) : ((concludeLine c s).chan c).sampler = (s.chan c).sampler :=
  State.sampler_of_side (((State.Turned.conclude _).side c).trans (gate_side c c s))

theorem damage_sampler (c : Chan) (s : State) : ((damage c s).chan c).sampler = (s.chan c).sampler :=
  State.sampler_of_side (damage_side c c s)

theorem setReceiver_sampler (r : Receiver) (c : Chan) (s : State) :
    ((setReceiver r c s).chan c).sampler = (s.chan c).sampler := by
  rw [setReceiver, State.chan_updChan_same]

theorem settleLine_of_quiet (within : (s.chan c).gapOver = false) (free : (s.chan c).jamReached = false) :
    settleLine c s = s := by
  have jam : takeJam c s = s := if_neg (by rw [free]; exact Bool.false_ne_true)
  rw [settleLine, jam, takeGap_of_within within]

end

/-! ## A character error and a break (R96, R97, R124) -/

/-- What the sampler hands over as no good character: the sampler moves, a frame in progress is damaged (R96, R97). -/
def handBad (p : Sampler) (c : Chan) (s : State) : State :=
  concludeLine c (damageInProgress c (setSampler p c (settleLine c s)))

section
variable {c : Chan} {s : State} (p : Sampler)

theorem damageInProgress_sampler (c : Chan) (s : State) :
    ((damageInProgress c s).chan c).sampler = (s.chan c).sampler := by
  unfold damageInProgress
  split
  · exact damage_sampler c s
  · rfl

theorem handBad_sampler : ((handBad p c s).chan c).sampler = p := by
  rw [handBad, concludeLine_sampler, damageInProgress_sampler, setSampler_sampler]

theorem damageInProgress_of_phase (frame : (s.chan c).receiver.phase ≠ .hunt) : damageInProgress c s = damage c s :=
  if_pos (Channel.receiving_iff.2 frame)

theorem damageInProgress_of_hunt (hunt : (s.chan c).receiver.phase = .hunt) : damageInProgress c s = s :=
  if_neg fun receiving => Channel.receiving_iff.1 receiving hunt

/-- Handed over in a frame, it damages the frame, be it that the gap limit has damaged it before (R124, R125). -/
theorem handBad_in_frame (frame : (s.chan c).receiver.phase ≠ .hunt) :
    s.EventOn c (s.chan c).receiver.reservation (handBad p c s) ∧ ((handBad p c s).chan c).receiver = .hunt := by
  have settled := State.EventOn.settleLine c s
  have receiver := (setSampler_receiver p c (settleLine c s)).trans (settleLine_receiver c s)
  rw [Channel.gapFreed] at settled
  rw [handBad, concludeLine_receiver]
  cases gap : (s.chan c).gapOver with
  | true =>
    rw [gap] at settled receiver
    rw [damageInProgress_of_hunt (by rw [receiver]; rfl)]
    exact ⟨(settled.andThen (.setSampler c p _)).concludeLine, receiver⟩
  | false =>
    rw [gap] at settled receiver
    have damaged := State.EventOn.damage c (setSampler p c (settleLine c s))
    rw [damageInProgress_of_phase (by rw [receiver]; exact frame)]
    rw [receiver] at damaged
    exact ⟨((settled.andThen (.setSampler c p _)).before damaged).concludeLine, damage_receiver c _⟩

/-- Handed over in HUNT, it moves the sampler alone (R96, R97). -/
theorem handBad_in_hunt (hunt : (s.chan c).receiver.phase = .hunt) :
    s.EventOn c none (handBad p c s) ∧ ((handBad p c s).chan c).receiver = (s.chan c).receiver ∧
      ((s.chan c).jamReached = false → handBad p c s = conclude (gate c (setSampler p c s))) := by
  have within : (s.chan c).gapOver = false :=
    Bool.eq_false_iff.2 fun gap => (Channel.gapOver_iff.1 gap).1 hunt
  have settled := State.EventOn.settleLine c s
  have receiver := (setSampler_receiver p c (settleLine c s)).trans (settleLine_receiver c s)
  rw [Channel.gapFreed, within] at settled
  rw [within] at receiver
  have idle : damageInProgress c (setSampler p c (settleLine c s)) = setSampler p c (settleLine c s) :=
    damageInProgress_of_hunt (by rw [receiver]; exact hunt)
  rw [handBad, concludeLine_receiver, idle]
  refine ⟨(settled.andThen (.setSampler c p _)).concludeLine, receiver, fun free => ?_⟩
  rw [settleLine_of_quiet within free]
  rfl

end

theorem Channel.sampling_of_character {x : Channel} (enabled : x.enabled = true) (character : x.sampler = .character) :
    x.sampling = true := by
  rw [Channel.sampling, enabled, character]; rfl

theorem exec_characterError {s : State} {c : Chan} {x : Sampled} (sampling : (s.chan c).sampling = true)
    (error : handover (s.chan c).settings.parity (voted x) = .error) :
    exec (.characterError c x) s = .next (handBad (.lineIdle !(voted x).stopBit) c s) := by
  rw [exec, execCharacterError, if_pos ⟨sampling, error⟩]
  rfl

theorem exec_breakReceived {s : State} {c : Chan} (sampling : (s.chan c).sampling = true) :
    exec (.breakReceived c) s = .next (handBad .lineRecovery c s) := by
  rw [exec, execBreakReceived, if_pos sampling]
  rfl

/-- Settles O34: an error and a break are both `handBad`, in a frame and in HUNT. -/
theorem errorDamagesFrame : Obligations.ErrorDamagesFrame := by
  constructor
  · intro s c enabled character frame freed
    have sampling := Channel.sampling_of_character enabled character
    have damaged (p : Sampler) : ((handBad p c s).chan c).receiver = .hunt ∧ ((handBad p c s).chan c).sampler = p ∧
        freed (handBad p c s) ∧ s.SameTables (handBad p c s) ∧ (handBad p c s).response = s.response := by
      obtain ⟨event, hunt⟩ := handBad_in_frame p frame
      refine ⟨hunt, handBad_sampler p, ⟨fun h reserved idle => ?_, fun k idle kept => (event.others k idle kept).1⟩,
        event.tables, event.response⟩
      obtain ⟨entries, blocks, free⟩ := event.released h reserved
      exact ⟨(free idle).1, entries, blocks⟩
    exact ⟨fun x error => ⟨_, exec_characterError sampling error, damaged _⟩,
      ⟨_, exec_breakReceived sampling, damaged _⟩⟩
  · intro s c enabled character hunt moved
    have sampling := Channel.sampling_of_character enabled character
    have stays (p : Sampler) : moved p (handBad p c s) := by
      obtain ⟨event, receiver, quiet⟩ := handBad_in_hunt p hunt
      obtain ⟨entries, blocks, congestion⟩ := event.counts rfl
      exact ⟨receiver, handBad_sampler p, fun k idle => (event.others k idle nofun).1, entries, blocks, congestion,
        event.lines rfl, event.tables, event.response, quiet⟩
    exact ⟨fun x error => ⟨_, exec_characterError sampling error, stays _⟩, ⟨_, exec_breakReceived sampling, stays _⟩⟩

/-! ## A good character in HUNT (R95, R117, R125) -/

section
variable {c : Chan} {s : State}

theorem receiveCharacter_in_hunt (b : Byte) (hunt : (s.chan c).receiver.phase = .hunt) :
    receiveCharacter c b s = if b = soh then setReceiver .start c s else s := by
  rw [receiveCharacter, hunt]

/-- A good character that finds the receiver in HUNT once what waits on the line is taken (R117, R125). -/
theorem handGood_in_hunt (b : Byte) (hunt : ((settleLine c s).chan c).receiver = .hunt) :
    s.EventOn c (s.chan c).gapFreed (handGood c b s) ∧ ((handGood c b s).chan c).sampler = .lineIdle false ∧
      ((handGood c b s).chan c).receiver = if b = soh then .start else .hunt := by
  have settled := (State.EventOn.settleLine c s).andThen (.setSampler c (.lineIdle false) _)
  have receiver := (setSampler_receiver (.lineIdle false) c (settleLine c s)).trans hunt
  have sampler := setSampler_sampler (.lineIdle false) c (settleLine c s)
  rw [handGood, concludeLine_sampler, concludeLine_receiver, receiveCharacter_in_hunt b (by rw [receiver]; rfl)]
  split
  · exact ⟨(settled.andThen (.setReceiver c _ _)).concludeLine, (setReceiver_sampler ..).trans sampler,
      setReceiver_receiver ..⟩
  · exact ⟨settled.concludeLine, sampler, receiver⟩

end

/-- Settles O30: GOOD_CHARACTER is `handGood`, and the character is taken in HUNT. -/
theorem sohStartsFrame : Obligations.SohStartsFrame := by
  intro s c x enabled character good
  have sampling := Channel.sampling_of_character enabled character
  have run : exec (.goodCharacter c x) s = .next (handGood c (voted x).data s) := by
    rw [exec, execGoodCharacter, if_pos ⟨sampling, good⟩]
  refine ⟨fun within free => ?_, fun line => ?_⟩
  · rw [run, handGood, settleLine_of_quiet within free]
    rfl
  · have hunt : ((settleLine c s).chan c).receiver = .hunt := by
      rw [settleLine_receiver]
      rcases line with hunt | gap
      · rw [hunt]; split <;> rfl
      · exact if_pos (Channel.gapOver_iff.2 gap)
    have freed : (s.chan c).gapFreed = (s.chan c).receiver.reservation := by
      unfold Channel.gapFreed
      rcases line with hunt | gap
      · rw [hunt]; split <;> rfl
      · exact if_pos (Channel.gapOver_iff.2 gap)
    obtain ⟨event, sampler, receiver⟩ := handGood_in_hunt (voted x).data hunt
    rw [freed] at event
    exact ⟨_, run, sampler, fun start => receiver.trans (if_pos start), fun other => receiver.trans (if_neg other),
      event.lines, fun h reserved idle => ((event.released h reserved).2.2 idle).1,
      fun k idle kept => (event.others k idle kept).1, event.tables, event.response⟩

/-! ## The gap limit and JAMMED (R103, R125) -/

section
variable {c : Chan} {s : State}

theorem Channel.jamReached_iff {x : Channel} : x.jamReached = true ↔ x.enabled = true ∧ x.busy = true ∧
    x.jammed = false ∧ x.settings.jamLimit ≠ 0 ∧ min 65535 (x.settings.jamLimit * 1000) ≤ x.busyLength := by
  by_cases off : x.settings.jamLimit = 0 <;> simp [Channel.jamReached, Settings.jamThreshold, off, and_assoc]

theorem takeGap_sampler : ((takeGap c s).chan c).sampler = (s.chan c).sampler := by
  unfold takeGap
  split
  · exact State.sampler_of_side (((State.Turned.conclude _).side c).trans ((gate_side c c _).trans
      ((damage_side c c _).trans (takeJam_side c c s))))
  · rfl

/-- A channel at which JAMMED begins, its STAGED exchange withdrawn, before the sweep (R103). -/
def jammedOf (c : Chan) (s : State) : State := withdraw c (s.updChan c Channel.jam)

theorem takeJam_of_reached (reached : (s.chan c).jamReached = true) : takeJam c s = conclude (sweep (jammedOf c s)) :=
  if_pos reached

theorem State.SameButPlacing.returnEntry (h : Handle) (s : State) (o : LastOutcome) :
    s.SameButPlacing h (s.returnEntry h o) := (State.SameButPlacing.updEntry h _ s).trans (.place h _)

/-- What a withdrawal leaves of an engine (R39). -/
def Engine.unstaged : Engine → Engine
  | .staged _ _ _ => .idle
  | e => e

theorem Engine.unstaged_of_not_staged {e : Engine} (free : ∀ h w x, e ≠ .staged h w x) : e.unstaged = e := by
  cases e with
  | staged h w x => exact absurd rfl (free h w x)
  | _ => rfl

/-- What a withdrawal leaves of the channels: a STAGED engine IDLE, and the queues apart nothing else (R39). -/
theorem withdraw_chan (c d : Chan) (s : State) : { (withdraw c s).chan d with queue := (s.chan d).queue } =
    if d = c then { s.chan c with engine := (s.chan c).engine.unstaged } else s.chan d := by
  unfold withdraw
  split
  · next h w x staged =>
    have chan := (State.SameButPlacing.returnEntry h (idleEngine c s) .withdrawn).2.1 d
    rw [idleEngine_chan] at chan
    rw [staged]
    by_cases here : d = c
    · subst here
      rw [if_pos rfl] at chan ⊢
      exact chan
    · rw [if_neg (Ne.symm here)] at chan
      rw [if_neg here]
      exact chan
  · next free =>
    rw [Engine.unstaged_of_not_staged free]
    by_cases here : d = c
    · rw [if_pos here, here]
    · rw [if_neg here]

theorem jammedOf_chan (c d : Chan) (s : State) : { (jammedOf c s).chan d with queue := (s.chan d).queue } =
    if d = c then { s.chan c with
      jammed := true, jamChanged := true
      engine := (s.chan c).engine.unstaged }
    else s.chan d := by
  have chan := withdraw_chan c d (s.updChan c Channel.jam)
  rw [State.chan_updChan_same] at chan
  by_cases here : d = c
  · subst here
    rw [State.chan_updChan_same, if_pos rfl] at chan
    rw [if_pos rfl]
    exact chan
  · rw [State.chan_updChan_other s (Ne.symm here), if_neg here] at chan
    rw [if_neg here]
    exact chan

theorem State.HeldAlone.of_keeps {t : State} {h : Handle} (held : s.HeldAlone c h) (keeps : s.KeepsAt h t)
    (engine : (t.chan c).engine = (s.chan c).engine) : t.HeldAlone c h :=
  ⟨engine ▸ held.1, fun q mem => held.2.1 q ((keeps.same.2 q).1 mem),
    fun d other held' => held.2.2 d other (keeps.engine d held')⟩

theorem withdraw_ended {h : Handle} {w x : Nat} (staged : (s.chan c).engine = .staged h w x) (held : s.HeldAlone c h) :
    (withdraw c s).EndedHome h (s.entry h) .ready .withdrawn := by
  have ended := endExchange_ended held (x := .ready) (o := .withdrawn) (by rw [staged]; rfl)
  rwa [endExchange, staged] at ended

theorem jammedOf_ended {h : Handle} {w x : Nat} (staged : (s.chan c).engine = .staged h w x) (held : s.HeldAlone c h) :
    (jammedOf c s).EndedHome h (s.entry h) .ready .withdrawn := by
  have engine : ((s.updChan c Channel.jam).chan c).engine = (s.chan c).engine := by rw [State.chan_updChan_same]; rfl
  exact withdraw_ended (s := s.updChan c Channel.jam) (engine.trans staged)
    (held.of_keeps (.updChan ⟨rfl, rfl⟩) engine)

theorem jammedOf_entry {k : Handle} (other : ∀ w x, (s.chan c).engine ≠ .staged k w x) :
    (jammedOf c s).entry k = s.entry k := by
  unfold jammedOf withdraw
  rw [State.chan_updChan_same]
  split
  · next h w x staged =>
    have ne : k ≠ h := fun e => other w x (e ▸ staged)
    exact ((State.SameAt.idleEngine k c _).trans (.returnEntry ne _)).1
  · rfl

theorem consider_of_jammed {d : Chan} (jammed : (s.chan d).jammed = true) : consider d s = s :=
  if_neg (by simp [Channel.considers, jammed])

theorem walk_jammed (c d : Chan) (s : State) : ((consider c s).chan d).jammed = (s.chan d).jammed := by
  rw [← (State.Moved.consider c s).chan d]

theorem consider_engine_other {c d : Chan} (other : d ≠ c) (s : State) :
    ((consider c s).chan d).engine = (s.chan d).engine := by
  unfold consider
  split
  · exact walk_engine_other other _
  · rfl

/-- A channel that is JAMMED makes no consideration: its engine is left as it is (R103, R142). -/
theorem conclude_engine_of_jammed {d : Chan} (jammed : (s.chan d).jammed = true) :
    ((conclude s).chan d).engine = (s.chan d).engine := by
  have kept : ((considerAll s).chan d).engine = (s.chan d).engine ∧ ((considerAll s).chan d).jammed = true := by
    refine forChans_keeps (P := fun t => (t.chan d).engine = (s.chan d).engine ∧ (t.chan d).jammed = true)
      (fun c t same => ?_) ⟨rfl, jammed⟩
    rw [walk_jammed]
    refine ⟨?_, same.2⟩
    by_cases here : c = d
    · subst here; rw [consider_of_jammed same.2]; exact same.1
    · rw [consider_engine_other (Ne.symm here)]; exact same.1
  rw [conclude, arbitrateAll_chan, ← kept.1]
  exact (Channel.arbitrated_exchange _).2

theorem sweep_engine_of_not_staged {d : Chan} (free : ∀ h w x, (s.chan d).engine ≠ .staged h w x) :
    ((sweep s).chan d).engine = (s.chan d).engine := by
  have kept : ∀ (c : Chan) (t : State), (t.chan d).engine = (s.chan d).engine →
      ((withdrawIf (strayed c) c t).chan d).engine = (s.chan d).engine := fun c t same => by
    by_cases here : c = d
    · subst here
      rw [withdrawIf_of_not_staged _ fun h w x => by rw [same]; exact free h w x]
      exact same
    · rw [withdrawIf_engine_other (Ne.symm here)]; exact same
  exact forChans_keeps (P := fun t => (t.chan d).engine = (s.chan d).engine) kept (sweepEntries_engine s d)

end

/-- Settles O51: the thresholds, `takeGap`, and `takeJam` with its withdrawal, sweep and considerations. -/
theorem gapAndJam : Obligations.GapAndJam := by
  refine ⟨fun x => ⟨Channel.gapOver_iff, Channel.jamReached_iff⟩, fun s c frame over_ => ?_,
    fun s c enabled busy clear limit long => ?_⟩
  · have gap : (s.chan c).gapOver = true := Channel.gapOver_iff.2 ⟨frame, over_⟩
    have event := State.EventOn.takeGap gap
    refine ⟨takeGap c s, rfl, takeGap_receiver gap, takeGap_sampler, fun h reserved => ?_, event.counts,
      fun k idle kept => (event.others k idle kept).1, event.tables, event.response⟩
    obtain ⟨entries, blocks, free⟩ := event.released h reserved
    exact ⟨fun idle => (free idle).1, entries, blocks⟩
  · have reached : (s.chan c).jamReached = true := Channel.jamReached_iff.2 ⟨enabled, busy, clear, limit, long⟩
    have event := State.EventOn.takeJam c s
    have line := takeJam_chan c s
    have chan := jammedOf_chan c c s
    rw [if_pos rfl] at chan
    have jammed : ((sweep (jammedOf c s)).chan c).jammed = true := by
      rw [((State.Turned.sweep (jammedOf c s)).chan c).jammed]
      exact (congrArg Channel.jammed chan : _)
    have engine : ((jammedOf c s).chan c).engine = match (s.chan c).engine with | .staged _ _ _ => .idle | e => e :=
      (congrArg Channel.engine chan : _)
    have idle : ∀ h w x, ((jammedOf c s).chan c).engine ≠ .staged h w x := fun h w x staged => by
      rw [engine] at staged
      split at staged
      · exact nomatch staged
      · next free => exact free h w x staged
    have kept : ((takeJam c s).chan c).engine = ((jammedOf c s).chan c).engine := by
      rw [takeJam_of_reached reached, conclude_engine_of_jammed jammed, sweep_engine_of_not_staged idle]
    refine ⟨jammedOf c s, takeJam c s, rfl, takeJam_of_reached reached,
      takeJam_of_reached reached ▸ .conclude _, fun d => jammedOf_chan c d s, fun h w x staged held => ?_,
      fun k other => jammedOf_entry other, ?_, ?_, fun h w x staged => ?_, fun free => ?_, ?_, ?_, event.lines rfl,
      fun k idle => (event.others k idle nofun).1, event.tables, event.response⟩
    · exact ⟨(jammedOf_ended staged held).returns, (jammedOf_ended staged held).endedAs.sweep.returns⟩
    · rw [line.jammed, Channel.jamTaken_jammed, reached, Bool.or_true]
    · rw [line.jamChanged, Channel.jamTaken_jamChanged, reached, Bool.or_true]
    · rw [kept, engine, staged]
    · rw [kept, engine]
      split
      · next h w x staged => exact absurd staged (free h w x)
      · rfl
    · exact line.control.trans (congrArg Channel.control (s.chan c).jamTaken_rest : _)
    · exact line.beacon.trans (congrArg Channel.beacon (s.chan c).jamTaken_rest : _)

end Sys2Proof.Machine
end

/-! # The character sampler (sections 5.1, 5.2) -/

section
namespace Sys2Proof.Machine

variable {s : State} {c : Chan}

/-! ## The votes (R95) -/

theorem majority_eq (a b d : Bool) : majority a b d = decide (2 ≤ a.toNat + b.toNat + d.toNat) := by
  cases a <;> cases b <;> cases d <;> rfl

theorem majorityByte_bit (a b d : Byte) (i : Nat) :
    (majorityByte a b d).getLsbD i = majority (a.getLsbD i) (b.getLsbD i) (d.getLsbD i) := by
  simp only [majorityByte, majority, BitVec.getLsbD_or, BitVec.getLsbD_and]

/-! ## The handover (R96, R97) -/

/-- A received parity bit is the one that its setting asks for exactly when it makes the ones even, or odd, in number
(R94). -/
theorem parityBit_agrees_iff (p : Parity) (x : CharBits) :
    (∀ b, parityBit p x.data = some b → b = x.parityBit) ↔
      (p = .even → (((List.range 8).filter fun i => x.data.getLsbD i).length + x.parityBit.toNat) % 2 = 0) ∧
      (p = .odd → (((List.range 8).filter fun i => x.data.getLsbD i).length + x.parityBit.toNat) % 2 = 1) := by
  obtain ⟨data, bit, stop⟩ := x
  dsimp only
  generalize ones : ((List.range 8).filter fun i => data.getLsbD i).length = n
  cases p with
  | none => simp [parityBit]
  | even =>
    simp only [parityBit, ones, Option.some.injEq, forall_eq', true_implies, reduceCtorEq, false_implies, and_true]
    cases bit <;> simp
    omega
  | odd =>
    simp only [parityBit, ones, Option.some.injEq, forall_eq', true_implies, reduceCtorEq, false_implies, true_and]
    cases bit <;> simp
    omega

theorem handover_of_mark {p : Parity} {x : CharBits} (mark : x.stopBit = true)
    (agrees : ∀ b, parityBit p x.data = some b → b = x.parityBit) : handover p x = .good x.data := by
  unfold handover
  rw [if_pos mark]
  cases bit : parityBit p x.data with
  | none => rfl
  | some b => simp [agrees b bit]

theorem handover_of_mark_disagrees {p : Parity} {x : CharBits} (mark : x.stopBit = true)
    (wrong : ¬ ∀ b, parityBit p x.data = some b → b = x.parityBit) : handover p x = .error := by
  unfold handover
  rw [if_pos mark]
  cases bit : parityBit p x.data with
  | none => exact absurd (fun b h => nomatch bit ▸ h) wrong
  | some b =>
    have : b ≠ x.parityBit := fun h => wrong fun b' h' => by rw [bit] at h'; exact Option.some.inj h' ▸ h
    simp [this]

theorem handover_of_space {p : Parity} {x : CharBits} (space : x.stopBit = false) :
    handover p x = if x.data = 0 ∧ (p = .none ∨ x.parityBit = false) then .brk else .error := by
  unfold handover
  rw [if_neg (by simp [space])]

/-! ## The sampler's own moves (R95 to R97) -/

theorem Channel.awaitsStart_idle {x : Channel} {a m : Bool} (idle : x.sampler = .lineIdle a) :
    x.awaitsStart m = (x.enabled && (!a || m)) := by
  simp only [Channel.awaitsStart, idle]

/-- Settles O29: the three moves by their guards, the votes bit by bit, and the handover by the stop bit. -/
theorem samplerMoves : Obligations.SamplerMoves := by
  unfold Obligations.SamplerMoves
  refine ⟨fun s c enabled => ⟨?start, ?wait, ?pulse, ?recovery, ?keyed⟩, fun x => ?votes, fun p x => ?handover⟩
  case start =>
    intro a m idle seen
    refine congrArg Host.Outcome.next (if_pos ?_)
    rw [Channel.awaitsStart_idle idle, enabled]
    cases a <;> simp_all
  case wait =>
    intro idle
    refine congrArg Host.Outcome.next (if_neg ?_)
    rw [Channel.awaitsStart_idle idle]
    simp
  case pulse =>
    intro s7 s8 s9 sampling
    refine congrArg Host.Outcome.next (if_congr ?_ rfl rfl)
    simp [Channel.sampling, enabled, sampling, majority_eq]
  case recovery =>
    intro recovering released
    refine congrArg Host.Outcome.next (if_pos ?_)
    simp [Channel.recovers, enabled, recovering, released]
  case keyed =>
    intro keyed
    refine congrArg Host.Outcome.next (if_neg ?_)
    simp [Channel.recovers, keyed]
  case votes =>
    intro two
    exact ⟨fun i _ => (majorityByte_bit _ _ _ i).trans (majority_eq _ _ _), majority_eq _ _ _, majority_eq _ _ _⟩
  case handover =>
    intro ones right low
    refine ⟨fun mark agrees => handover_of_mark mark ((parityBit_agrees_iff p x).2 agrees),
      fun mark wrong => handover_of_mark_disagrees mark (mt (parityBit_agrees_iff p x).1 wrong),
      fun space isLow => ?_, fun space notLow => ?_⟩
    · rw [handover_of_space space]
      exact if_pos ⟨isLow.1, (em (p = .none)).imp_right isLow.2⟩
    · rw [handover_of_space space]
      exact if_neg fun ⟨data, parity⟩ => notLow ⟨data, fun some => parity.resolve_left some⟩

end Sys2Proof.Machine
end

/-! # The reachability monitor (section 3.5) -/

section
namespace Sys2Proof.Machine

section
variable {s : State} {i : Index} {st : Station}

/-- A record as the loss of its station leaves it (R65, R67). -/
def Station.unheard (st : Station) : Station := { st with overLimitDue := false, reach := .unheard, confirmCount := 0 }

theorem loseStation_of_lost (held : s.station i = some st) (lost : st.lost = true) : loseStation i s =
    reachChange (s.updStation i Station.unheard) := if_pos (by rw [held]; exact lost)

/-- A mark over the limit, taken, where the station is one that it loses (R65, R67). -/
theorem takeOverLimit_of_lost (held : s.station i = some st) (lost : st.lost = true) : takeOverLimit i s =
    conclude (reachChange (s.updStation i Station.unheard)) := by
  have due : st.overLimitDue = true := by
    simp only [Station.lost, Bool.and_eq_true] at lost
    exact lost.1.1
  rw [takeOverLimit, loseStation_of_lost held lost]
  exact if_pos (by rw [held]; exact due)

end

/-! ## A record refreshed by a good frame (R64, R66) -/

section
variable {st : Station}

theorem Station.refreshed_of_heard (heard : st.reach = .heard) : st.refreshed = { st with heardAge := 0 } := by
  rw [Station.refreshed, heard]

theorem Station.refreshed_of_unheard (unheard : st.reach = .unheard) :
    st.refreshed = { st with heardAge := 0, confirmCount := st.confirmed st.heardAge,
                             reach := if st.confirmed st.heardAge = 2 then .heard else .unheard } := by
  rw [Station.refreshed, unheard]

theorem Station.refreshed_heardAge (st : Station) : st.refreshed.heardAge = 0 := by
  cases reach : st.reach
  · rw [Station.refreshed_of_heard reach]
  · rw [Station.refreshed_of_unheard reach]

theorem Station.confirmed_first (none : st.confirmCount = 0) (gap : Nat) : st.confirmed gap = 1 := if_pos none

theorem Station.confirmed_within {gap : Nat} (one : st.confirmCount = 1) (within : gap ≤ st.leaveLimit) :
    st.confirmed gap = 2 := by
  rw [Station.confirmed, if_neg (by omega), if_pos within]

theorem Station.confirmed_late {gap : Nat} (one : st.confirmCount = 1) (late : st.leaveLimit < gap) :
    st.confirmed gap = 1 := by
  rw [Station.confirmed, if_neg (by omega), if_neg (by omega)]

end

/-! ## The limits (Table 3-5) -/

theorem enterFactor_eq (k : Fin 8) : enterFactor k = #v[5, 6, 8, 10, 12, 16, 24, 32][k] := by
  revert k; decide

theorem leaveFactor_eq (k : Fin 8) : leaveFactor k = #v[4, 5, 6, 8, 9, 12, 16, 24][k] := by
  revert k; decide

/-- Settles O52: a loss is the record written and a sweep, a good frame by the reach state and the confirm count, the
limits by the factors of the table. -/
theorem reachabilityMonitored : Obligations.ReachabilityMonitored := by
  unfold Obligations.ReachabilityMonitored
  refine ⟨fun s i st held due heard interval => ?_, fun st => ?_, fun st => ?_⟩
  · have lost : st.lost = true := by simp [Station.lost, due, heard, interval]
    refine ⟨_, congrArg Host.Outcome.next (takeOverLimit_of_lost held lost), ?_⟩
    have turned := (State.Turned.sweep { s.updStation i Station.unheard with reachChanged := true }).trans (.conclude _)
    refine ⟨turned.reachChanged, ?_, fun j other => ?_, fun c => ?_, fun k idle => ?_,
      turned.own, turned.response⟩
    · refine (turned.station i).trans ?_
      exact (State.station_updStation s i i _).trans (by rw [if_pos rfl, held]; rfl)
    · refine (turned.station j).trans ?_
      exact (State.station_updStation s i j _).trans (if_neg (Ne.symm other))
    · exact turned.chan c
    · exact (turned.others k idle).1
  · refine ⟨st.refreshed_heardAge, Station.refreshed_of_heard, fun unheard first => ?_, fun unheard one within => ?_,
      fun unheard one late => ?_⟩ <;> rw [Station.refreshed_of_unheard unheard]
    · rw [Station.confirmed_first first]
      exact ⟨rfl, rfl⟩
    · rw [Station.confirmed_within one within]
      exact ⟨rfl, rfl⟩
    · rw [Station.confirmed_late one late]
      exact ⟨rfl, rfl⟩
  · exact ⟨congrArg (fun n => max 1 (st.interval * n / 4)) (enterFactor_eq _),
      congrArg (fun n => max 1 (st.interval * n / 4)) (leaveFactor_eq _)⟩

end Sys2Proof.Machine
end

/-! # The Station Port: request frames and selections (sections 10.1, 11.2) -/

section
namespace Sys2Proof

/-! ## Fields and their bytes (R175, R187) -/

theorem half_of_bytes (w : Half) : w.extractLsb' 8 8 ++ w.extractLsb' 0 8 = w :=
  (BitVec.extractLsb'_append_extractLsb'_eq_extractLsb' rfl).trans BitVec.extractLsb'_eq_self

theorem quad_of_halves (w : Quad) : w.extractLsb' 16 16 ++ w.extractLsb' 0 16 = w :=
  (BitVec.extractLsb'_append_extractLsb'_eq_extractLsb' rfl).trans BitVec.extractLsb'_eq_self

theorem halfAt_halfBytes (w : Half) (p : List Byte) : halfAt (halfBytes w ++ p) 0 = w := half_of_bytes w

theorem halfBytes_append (a b : Byte) : halfBytes (a ++ b) = [a, b] := by
  rw [halfBytes, BitVec.extractLsb'_append_eq_left, BitVec.extractLsb'_append_eq_right]

theorem halfBytes_halfAt (p : List Byte) (i : Nat) : halfBytes (halfAt p i) = [byteAt p i, byteAt p (i + 1)] :=
  halfBytes_append _ _

theorem quadBytes_quadAt (p : List Byte) (i : Nat) :
    quadBytes (quadAt p i) = [byteAt p i, byteAt p (i + 1), byteAt p (i + 2), byteAt p (i + 3)] := by
  rw [quadBytes, quadAt, BitVec.extractLsb'_append_eq_left, BitVec.extractLsb'_append_eq_right, halfBytes_halfAt,
    halfBytes_halfAt]
  rfl

/-- A call field, written out. -/
theorem callField_eta (v : CallField) : v = #v[v[0], v[1], v[2], v[3], v[4], v[5], v[6], v[7]] := by
  ext i small
  interval_cases i <;> rfl

/-- Parameters of a known length, written out byte by byte. -/
theorem parameters_eq {p : List Byte} {n : Nat} (length : p.length = n) : p = (List.range n).map (byteAt p) := by
  refine List.ext_getElem (by simp [length]) fun i h1 h2 => ?_
  simp [byteAt, h1]

/-- Parameters of at least a known length, written out up to there. -/
theorem parameters_append_drop {p : List Byte} {n : Nat} (length : n ≤ p.length) :
    p = (List.range n).map (byteAt p) ++ p.drop n := by
  refine (List.take_append_drop n p).symm.trans (congrArg (· ++ p.drop n) ?_)
  refine List.ext_getElem (by simp [length]) fun i h1 h2 => ?_
  simp at h2
  simp [byteAt, show i < p.length by omega]

/-! ## The rows of Table 11-3, there and back (R176) -/

theorem fixedLayout_eq_some_iff {p : List Byte} {n : Nat} {i j : Instr} :
    fixedLayout p n i = some j ↔ p.length = n ∧ i = j := by
  simp [fixedLayout]

theorem requestParts_of_decodeRequest {code : Byte} {p : List Byte} {i : Instr} (h : decodeRequest code p = some i) :
    requestParts i = some (code, p) := by
  unfold decodeRequest at h
  split at h
  case h_1 =>
    split at h
    · next length =>
      obtain rfl := Option.some.inj h
      exact congrArg (fun q => some (0x10, q)) (parameters_append_drop length).symm
    · cases h
  case h_27 => cases h
  all_goals
    obtain ⟨length, rfl⟩ := fixedLayout_eq_some_iff.1 h
    refine congrArg (fun q => some (_, q)) (Eq.trans ?_ (parameters_eq length).symm)
  case h_3 => exact congrArg₂ (fun a b => byteAt p 0 :: (a ++ b)) (halfBytes_halfAt p 1) (halfBytes_halfAt p 3)
  case h_4 => exact congrArg ((callAt p 0).toList ++ ·) (halfBytes_halfAt p 8)
  case h_6 => exact congrArg (byteAt p 0 :: ·) (halfBytes_halfAt p 1)
  case h_11 =>
    rw [stationBytes, stationAt, halfBytes_halfAt]
    rfl
  case h_15 =>
    simp only [settingsBytes, settingsAt, halfBytes_halfAt, quadBytes_quadAt]
    rfl
  case h_21 =>
    simp only [ownBytes, ownAt, halfBytes_halfAt]
    rfl
  case h_23 => exact quadBytes_quadAt p 0
  all_goals rfl

theorem byteAt_zero (b : Byte) (p : List Byte) : byteAt (b :: p) 0 = b := rfl

theorem byteAt_succ (b : Byte) (p : List Byte) (i : Nat) : byteAt (b :: p) (i + 1) = byteAt p i := rfl

theorem quadAt_quadBytes (w : Quad) : quadAt (quadBytes w) 0 = w := by
  simp only [quadAt, halfAt, quadBytes, halfBytes, List.cons_append, List.nil_append, byteAt_zero, byteAt_succ,
    Nat.reduceAdd, half_of_bytes, quad_of_halves]

theorem settingsAt_settingsBytes (c : Byte) (b : SettingsBlock) : settingsAt (c :: settingsBytes b) 1 = b := by
  simp only [settingsAt, settingsBytes, quadAt, halfAt, quadBytes, halfBytes, List.cons_append, List.nil_append, byteAt_zero,
    byteAt_succ, Nat.reduceAdd, half_of_bytes, quad_of_halves]

theorem stationAt_stationBytes (b : StationBlock) : stationAt (stationBytes b) = b := by
  obtain ⟨i, call, channel, kind, relay, fallback, net, interval, sensitivity⟩ := b
  rw [callField_eta call]
  exact congrArg (StationBlock.mk i _ channel kind relay fallback net · sensitivity) (half_of_bytes interval)

theorem ownAt_ownBytes (b : OwnBlock) : ownAt (ownBytes b) = b := by
  obtain ⟨mask, call, route, enterEntries, enterBlocks, leaveEntries, leaveBlocks, holdTime, cutoff, rehold, release, lead,
    backoff⟩ := b
  rw [callField_eta call]
  simp only [ownAt, ownBytes, halfAt, callAt, halfBytes, Vector.toList_mk, List.cons_append, List.nil_append, byteAt_zero,
    byteAt_succ, Nat.reduceAdd, half_of_bytes]

theorem decodeRequest_of_requestParts {code : Byte} {p : List Byte} {i : Instr} (h : requestParts i = some (code, p)) :
    decodeRequest code p = some i := by
  cases i
  all_goals cases h
  case file d body =>
    rw [callField_eta d]
    rfl
  case readText h o n => exact congrArg₂ (fun a b => some (Instr.readText h a b)) (half_of_bytes o) (half_of_bytes n)
  case find d n =>
    rw [callField_eta d]
    exact congrArg (fun w => some (Instr.find _ w)) (half_of_bytes n)
  case listQueue q n => exact congrArg (fun w => some (Instr.listQueue q w)) (half_of_bytes n)
  case amend d =>
    rw [callField_eta d]
    rfl
  case setStation b => 
    exact fixedLayout_eq_some_iff.2 ⟨by simp [stationBytes, halfBytes], congrArg Instr.setStation (stationAt_stationBytes b)⟩
  case setChannel c b => exact congrArg (fun b => some (Instr.setChannel c b)) (settingsAt_settingsBytes c b)
  case setOwn b => 
    exact fixedLayout_eq_some_iff.2 ⟨by simp [ownBytes, halfBytes], congrArg Instr.setOwn (ownAt_ownBytes b)⟩
  case setClock n => exact congrArg (fun n => some (Instr.setClock n)) (quadAt_quadBytes n)
  all_goals rfl

/-! ## Selections (R175, R176) -/

theorem requestParts_of_isRequest {i : Instr} (request : i.isRequest = true) : ∃ code p, requestParts i = some (code, p) := by
  cases i <;> cases request <;> exact ⟨_, _, rfl⟩

theorem requestParts_fits {i : Instr} {code : Byte} {p : List Byte} (h : requestParts i = some (code, p)) :
    i.isRequest = true ∧ code ≠ readCode ∧ (i.wellFormed = true ↔ p.length ≤ maxParameters) := by
  cases i
  all_goals cases h
  case file d body =>
    refine ⟨rfl, by decide, decide_eq_true_iff.trans ?_⟩
    simp only [maxFramedBody, maxParameters, List.length_cons, List.length_append, Vector.length_toList]
    omega
  all_goals refine ⟨rfl, by decide, iff_of_true rfl ?_⟩
  all_goals simp [maxParameters, stationBytes, settingsBytes, ownBytes, halfBytes, quadBytes]

/-- A frame whose stated length is not that of its parameters, or whose last byte is not whole, is a bad frame (R175). -/
theorem decodeSelection_of_misfit {x : Selection} {code : Byte} {rest : List Byte} (whole : x.resetAsserted = false)
    (bytes : x.bytes = code :: rest) (request : code ≠ readCode)
    (misfit : ¬ (x.extraBits = 0 ∧ 2 ≤ rest.length ∧ (halfAt rest 0).toNat ≤ maxParameters ∧
      (rest.drop 2).length = (halfAt rest 0).toNat)) : decodeSelection x = some .badFrame := by
  unfold decodeSelection
  rw [if_neg (by simp [whole]), bytes]
  exact (if_neg request).trans (if_neg misfit)

theorem decodeSelection_of_fit {x : Selection} {code : Byte} {rest : List Byte} (whole : x.resetAsserted = false)
    (bytes : x.bytes = code :: rest) (request : code ≠ readCode)
    (fit : x.extraBits = 0 ∧ 2 ≤ rest.length ∧ (halfAt rest 0).toNat ≤ maxParameters ∧
      (rest.drop 2).length = (halfAt rest 0).toNat) :
    decodeSelection x = some ((decodeRequest code (rest.drop 2)).getD .badFrame) := by
  unfold decodeSelection
  rw [if_neg (by simp [whole]), bytes]
  exact (if_neg request).trans (if_pos fit)

theorem decodeSelection_read {x : Selection} {rest : List Byte} (whole : x.resetAsserted = false)
    (bytes : x.bytes = readCode :: rest) : decodeSelection x = some .readFrame := by
  unfold decodeSelection
  rw [if_neg (by simp [whole]), bytes]
  exact if_pos rfl

theorem encodeRequest_of_parts {i : Instr} {code : Byte} {p : List Byte} (parts : requestParts i = some (code, p)) :
    encodeRequest i = code :: (halfBytes (BitVec.ofNat 16 p.length) ++ p) := by
  rw [encodeRequest, parts]

/-- A selection of whole bytes that is the request frame of a command that fits is that command (R175, R176). -/
theorem decodeSelection_encodeRequest {x : Selection} {i : Instr} (whole : x.resetAsserted = false) (bits : x.extraBits = 0)
    (request : i.isRequest = true) (fits : i.wellFormed = true) (bytes : x.bytes = encodeRequest i) :
    decodeSelection x = some i := by
  obtain ⟨code, p, parts⟩ := requestParts_of_isRequest request
  obtain ⟨-, other, bound⟩ := requestParts_fits parts
  have short : p.length ≤ 1040 := bound.1 fits
  have stated : (halfAt (halfBytes (BitVec.ofNat 16 p.length) ++ p) 0).toNat = p.length := by
    rw [halfAt_halfBytes, BitVec.toNat_ofNat]
    omega
  have decoded := decodeSelection_of_fit whole (bytes.trans (encodeRequest_of_parts parts)) other
    ⟨bits, Nat.le_add_left .., stated.trans_le short, stated.symm⟩
  rw [show (halfBytes (BitVec.ofNat 16 p.length) ++ p).drop 2 = p from rfl, decodeRequest_of_requestParts parts] at decoded
  exact decoded

/-- A selection of whole bytes that names a command is that command's request frame (R175, R176). -/
theorem bytes_of_decodeRequest {rest : List Byte} {code : Byte} {i : Instr} (long : 2 ≤ rest.length)
    (stated : (rest.drop 2).length = (halfAt rest 0).toNat) (decoded : decodeRequest code (rest.drop 2) = some i) :
    code :: rest = encodeRequest i := by
  rw [encodeRequest_of_parts (requestParts_of_decodeRequest decoded), stated, BitVec.ofNat_toNat, BitVec.setWidth_eq,
    halfBytes_halfAt]
  exact congrArg (code :: ·) (parameters_append_drop long)

end Sys2Proof

namespace Sys2Proof.Machine

/-- Settles O55: the rows of Table 11-3 are read back, and the length that a frame states is that of its parameters. -/
theorem requestFramesReadBack : Obligations.RequestFramesReadBack :=
  fun _ request fits => decodeSelection_encodeRequest rfl rfl request fits rfl

theorem State.drives_request (s : State) {x : Selection} {code : Byte} {rest : List Byte} (bytes : x.bytes = code :: rest)
    (silent : code ≠ readCode ∨ x.resetAsserted = true) : s.drives x = List.replicate (rest.length + 1) 0 := by
  unfold State.drives
  rw [bytes]
  refine if_neg fun ⟨read, whole⟩ => ?_
  rcases silent with other | reset
  · exact other read
  · rw [whole] at reset
    cases reset

theorem State.drives_read (s : State) {x : Selection} {rest : List Byte} (bytes : x.bytes = readCode :: rest)
    (whole : x.resetAsserted = false) : s.drives x = 0 :: s.spdo rest.length := by
  unfold State.drives
  rw [bytes]
  exact if_pos ⟨rfl, whole⟩

theorem State.spdo_eq (s : State) (n : Nat) : s.spdo n = (List.range n).map fun i => s.response.bytes.getD i 0 := by
  refine List.ext_getElem (by simp [State.spdo]) fun i h1 h2 => ?_
  simp at h2
  by_cases held : i < s.response.bytes.length
  · simp [State.spdo, held]
  · simp [State.spdo, List.getElem_append, held]

/-- Settles O26: a selection by its first byte, and a frame that fits by the row that reads it. -/
theorem readFrameAndBadFrame : Obligations.ReadFrameAndBadFrame := by
  unfold Obligations.ReadFrameAndBadFrame
  refine ⟨fun s => ⟨rfl, rfl⟩, fun s x code rest bytes => ⟨fun other => ?_, fun read whole => ?_, fun reset => ?_⟩,
    fun x => ⟨fun empty => ?_, fun code rest whole bytes => ⟨fun read => ?_, fun other => ⟨fun i bits request fits frame => ?_,
      fun none => ?_, fun misfit => ?_⟩⟩⟩⟩
  · exact s.drives_request bytes (.inl other)
  · subst read
    exact (s.drives_read bytes whole).trans (congrArg (0 :: ·) (s.spdo_eq _))
  · exact s.drives_request bytes (.inr reset)
  · unfold decodeSelection
    rcases empty with reset | nothing
    · rw [if_pos reset]
    · rw [nothing]
      exact ite_self _
  · subst read
    exact decodeSelection_read whole bytes
  · exact decodeSelection_encodeRequest whole bits request fits frame
  · by_cases fit : x.extraBits = 0 ∧ 2 ≤ rest.length ∧ (halfAt rest 0).toNat ≤ maxParameters ∧
        (rest.drop 2).length = (halfAt rest 0).toNat
    · rw [decodeSelection_of_fit whole bytes other fit]
      cases decoded : decodeRequest code (rest.drop 2) with
      | none => rfl
      | some i =>
        obtain ⟨bits, long, bound, stated⟩ := fit
        obtain ⟨request, -, fits⟩ := requestParts_fits (requestParts_of_decodeRequest decoded)
        exact absurd bits (none i request (fits.2 (stated.trans_le bound))
          (bytes.trans (bytes_of_decodeRequest long stated decoded)))
    · exact decodeSelection_of_misfit whole bytes other fit
  · refine decodeSelection_of_misfit whole bytes other fun ⟨bits, long, bound, stated⟩ => ?_
    rw [List.length_drop] at stated
    unfold maxParameters at bound
    omega

end Sys2Proof.Machine
end

/-! # The readout records, field by field (section 11.3) -/

section
namespace Sys2Proof.Machine

/-! ## Numbers and calls as fields (R187) -/

theorem be16_eq (n : Nat) : be16 n = [BitVec.ofNat 8 (n / 256), BitVec.ofNat 8 n] := by
  unfold be16 halfBytes
  congr 1
  · apply BitVec.eq_of_toNat_eq
    simp [Nat.shiftRight_eq_div_pow]
    omega
  · congr 1
    apply BitVec.eq_of_toNat_eq
    simp

theorem be32_eq (n : Nat) : be32 n = [BitVec.ofNat 8 (n / 16777216), BitVec.ofNat 8 (n / 65536), BitVec.ofNat 8 (n / 256),
    BitVec.ofNat 8 n] := by
  have high : (BitVec.ofNat 32 n).extractLsb' 16 16 = BitVec.ofNat 16 (n / 65536) := by
    apply BitVec.eq_of_toNat_eq
    simp [Nat.shiftRight_eq_div_pow]
    omega
  have low : (BitVec.ofNat 32 n).extractLsb' 0 16 = BitVec.ofNat 16 n := by
    apply BitVec.eq_of_toNat_eq
    simp
  have halves := congrArg₂ (· ++ ·) (be16_eq (n / 65536)) (be16_eq n)
  rw [be32, quadBytes, high, low]
  simpa [be16, Nat.div_div_eq_div_mul] using halves

theorem be16_of_small {n : Nat} (small : n < 256) : be16 n = [0, BitVec.ofNat 8 n] := by
  rw [be16_eq, Nat.div_eq_of_lt small]
  rfl

theorem be32_toNat (q : Quad) : be32 q.toNat = quadBytes q := by rw [be32, BitVec.ofNat_toNat, BitVec.setWidth_eq]

theorem padCall_of_fits {c : Call} (fits : c.length ≤ 8) : padCall c = c ++ List.replicate (8 - c.length) 0x20 := by
  rw [padCall, List.take_append, List.take_of_length_le fits, List.take_replicate,
    Nat.min_eq_left (Nat.sub_le ..)]
  rfl

theorem padCall_length (c : Call) : (padCall c).length = 8 := by
  simp [padCall]

theorem be16_length (n : Nat) : (be16 n).length = 2 := rfl

theorem be32_length (n : Nat) : (be32 n).length = 4 := rfl

theorem quadBytes_length (q : Quad) : (quadBytes q).length = 4 := rfl

/-! ## Fields of a record by their offsets -/

/-- A record's field, read at its offset: the lengths of those before it added up. -/
theorem field_at {fields : List (List Byte)} {lengths : List Nat} (measured : fields.map List.length = lengths) (k o n : Nat)
    {f : List Byte} (here : fields[k]? = some f) (start : (lengths.take k).sum = o) (size : lengths[k]? = some n) :
    (fields.flatten.drop o).take n = f := by
  subst measured start
  obtain rfl : f.length = n := by
    rw [List.getElem?_map, here] at size
    exact Option.some.inj size
  clear size
  induction fields generalizing k with
  | nil => cases here
  | cons g fields ih =>
    cases k with
    | zero =>
      obtain rfl := Option.some.inj here
      exact List.take_left
    | succ k =>
      simp only [List.map_cons, List.take_succ_cons, List.sum_cons, List.flatten_cons]
      rw [List.drop_append, List.drop_eq_nil_of_le (Nat.le_add_right ..), List.nil_append, Nat.add_sub_cancel_left]
      exact ih k here

/-- A part of a field, read at its own offset. -/
theorem part_at {r f : List Byte} {o n : Nat} (field : (r.drop o).take n = f) (a m : Nat) (inside : a + m ≤ n) :
    (r.drop (o + a)).take m = (f.drop a).take m := by
  subst field
  rw [List.drop_take, List.drop_drop, List.take_take, Nat.min_eq_left (by omega)]

theorem length_of_fields {fields : List (List Byte)} {lengths : List Nat} (measured : fields.map List.length = lengths) :
    fields.flatten.length = lengths.sum := by rw [List.length_flatten, measured]

/-! ## The entry record (Table 11-4) -/

/-- The fields of the entry record, those that are one statement's apart. -/
def State.entryFields (s : State) (h : Handle) : List (List Byte) :=
  let e := s.entry h
  [[be8 h.val], [e.state.code], [e.role.code], [be8 e.precedence.val], padCall e.key.call, be16 e.key.serial,
    padCall e.destination, quadBytes e.accession, be32 e.filedTime, be16 e.textLength, optCall e.receivedFrom,
    [optByte e.nextHop], [optByte (s.derivedChannel h)], optCall e.lastHop, [be8 e.attemptCount],
    quadBytes (e.notBefore.getD 0) ++ be32 (s.retryRemaining e), [e.outcomeByte], [markByte e.cancelled],
    [markByte e.changed], [markByte (s.heldIndication e)]]

theorem State.entryRecord_eq (s : State) (h : Handle) : s.entryRecord h = (s.entryFields h).flatten := by
  simp only [State.entryRecord, State.entryFields, List.flatten_cons, List.flatten_nil, List.append_assoc,
    List.cons_append, List.nil_append]

theorem State.entryFields_lengths (s : State) (h : Handle) :
    (s.entryFields h).map List.length = [1, 1, 1, 1, 8, 2, 8, 4, 4, 2, 8, 1, 1, 8, 1, 8, 1, 1, 1, 1] := by
  simp [State.entryFields, padCall_length, be16_length, be32_length, quadBytes_length, optCall]

/-! ## The station record (Table 11-5) -/

/-- The fields of the station record. -/
def State.stationFields (s : State) (i : Index) (st : Station) : List (List Byte) :=
  [[be8 i.val], padCall st.call, [be8 st.channel.val], st.kind.bytes, [optByte st.fallback, markByte st.netControl],
    be16 st.interval, [be8 st.sensitivity.val, markByte st.forcedUnheard, st.reach.code], be16 st.heardAge,
    [be8 st.confirmCount], be16 st.holdRemaining, [be8 st.holdCutoff.val, markByte (s.usable st)],
    st.limitBytes st.enterLimit ++ st.limitBytes st.leaveLimit]

theorem State.stationRecord_eq (s : State) (i : Index) (st : Station) :
    s.stationRecord i st = (s.stationFields i st).flatten := by
  simp only [State.stationRecord, State.stationFields, List.flatten_cons, List.flatten_nil, List.append_assoc,
    List.cons_append, List.nil_append, List.append_nil]

theorem Kind.bytes_length (k : Kind) : k.bytes.length = 2 := by cases k <;> rfl

theorem Station.limitBytes_eq (st : Station) (n : Nat) :
    st.limitBytes n = if st.interval = 0 then [0xFF, 0xFF] else be16 n := by
  unfold Station.limitBytes
  split <;> rfl

theorem Station.limitBytes_length (st : Station) (n : Nat) : (st.limitBytes n).length = 2 := by
  unfold Station.limitBytes
  split <;> rfl

theorem State.stationFields_lengths (s : State) (i : Index) (st : Station) :
    (s.stationFields i st).map List.length = [1, 8, 1, 2, 2, 2, 3, 2, 1, 2, 2, 4] := by
  simp [State.stationFields, padCall_length, be16_length, Kind.bytes_length, Station.limitBytes_length]

/-! ## The channel record (Table 11-6) -/

/-- A control frame slot by its number. -/
def slotAt (q : List ControlFrame) (n : Nat) : List Byte := (q[n]?.map ControlFrame.slot).getD emptySlot

theorem slots_eq (q : List ControlFrame) : slots q = [slotAt q 0, slotAt q 1, slotAt q 2, slotAt q 3].flatten := by
  refine congrArg List.flatten ?_
  rcases q with _ | ⟨a, _ | ⟨b, _ | ⟨c, _ | ⟨d, q⟩⟩⟩⟩ <;> rfl

theorem ControlFrame.slot_length (f : ControlFrame) : f.slot.length = 12 := by
  cases f <;> simp [ControlFrame.slot, padCall_length, be16_length, allStationsField]

theorem slotAt_length (q : List ControlFrame) (n : Nat) : (slotAt q n).length = 12 := by
  unfold slotAt
  cases q[n]? with
  | none => rfl
  | some f => exact f.slot_length

/-- The fields of the channel record. -/
def State.channelFields (s : State) (c : Chan) : List (List Byte) :=
  let x := s.chan c
  let t := x.settings
  [t.bytes, [markByte x.enabled, markByte (x.enabled && x.cdActive), markByte x.busy, markByte x.transmitter.keyed,
    markByte x.jammed], be16 x.clearTime ++ be16 x.busyLength, [be8 t.bitsPerChar], be16 t.gapLimit ++ be16 t.receiptTimeout,
    be16 x.silenceRemaining ++ [be8 x.silenceCutoff.val], be16 (x.rehold.getD 0xFFFF), [x.ownHoldCondition],
    [x.receiver.phase.code], optHandle x.receiver.reservation, [be8 x.control.length], slotAt x.control 0,
    slotAt x.control 1, slotAt x.control 2, slotAt x.control 3, [x.transmitter.code, x.transmitter.grantedCode],
    x.beaconBytes s.time.counter s.freeCount, x.engine.bytes, [markByte x.abortPause], (s.window c).bytes]

theorem State.channelRecord_eq (s : State) (c : Chan) : s.channelRecord c = (s.channelFields c).flatten := by
  simp only [State.channelRecord, State.channelFields, slots_eq, List.flatten_cons, List.flatten_nil, List.append_assoc,
    List.cons_append, List.nil_append, List.append_nil]

theorem Settings.bytes_length (g : Settings) : g.bytes.length = 26 := rfl

theorem optHandle_length (h : Option Handle) : (optHandle h).length = 2 := by cases h <;> rfl

theorem Channel.beaconBytes_length (x : Channel) (now : Quad) (n : Nat) : (x.beaconBytes now n).length = 5 := by
  unfold Channel.beaconBytes
  split <;> rfl

theorem Engine.bytes_length (e : Engine) : e.bytes.length = 8 := by cases e <;> rfl

theorem Window.bytes_length (w : Window) : w.bytes.length = 5 := by cases w <;> rfl

theorem State.channelFields_lengths (s : State) (c : Chan) : (s.channelFields c).map List.length =
    [26, 5, 4, 1, 4, 3, 2, 1, 1, 2, 1, 12, 12, 12, 12, 2, 5, 8, 1, 5] := by
  simp [State.channelFields, be16_length, Settings.bytes_length, optHandle_length, slotAt_length,
    Channel.beaconBytes_length, Engine.bytes_length, Window.bytes_length]

/-! ## The status record (Table 11-7) -/

/-- The fields of the status record. -/
def State.statusFields (s : State) : List (List Byte) :=
  [[s.congestion.code], be16 s.freeEntries, be16 s.freeBlocks, [s.flagByte], [markByte s.changedPending],
    [be8 (chanBits 0 fun c => (s.chan c).enabled)], [be8 (chanBits 0 fun c => (s.chan c).jammed)],
    [markByte (s.own.call ≠ [])]]

theorem State.statusRecord_eq (s : State) : s.statusRecord = s.statusFields.flatten := by
  simp only [State.statusRecord, State.statusFields, List.flatten_cons, List.flatten_nil, List.append_assoc,
    List.cons_append, List.nil_append]

theorem State.statusFields_lengths (s : State) : s.statusFields.map List.length = [1, 2, 2, 1, 1, 1, 1, 1] := rfl

/-! ## Marks, flags and derived values -/

theorem bitAt_shift (n k : Nat) (b : Bool) : bitAt (n + k) b = 2 ^ n * bitAt k b := by
  cases b <;> simp [bitAt, Nat.pow_add]

theorem chanBits_shift (p : Chan → Bool) : chanBits 2 p = 4 * chanBits 0 p := by
  simp only [chanBits, bitAt_shift 2 0, bitAt_shift 2 1, bitAt_shift 2 2, bitAt_shift 2 3, Nat.reduceAdd, Nat.reducePow]
  have b0 := bitAt_shift 2 0 (p 0)
  have b1 := bitAt_shift 2 1 (p 1)
  have b2 := bitAt_shift 2 2 (p 2)
  have b3 := bitAt_shift 2 3 (p 3)
  omega

theorem State.engineOf_eq {s : State} {h : Handle} {c : Chan} (held : ∀ d, (s.chan d).engine.entry? = some h ↔ d = c) :
    s.engineOf h = some c := by
  cases found : s.engineOf h with
  | none =>
    have nowhere := findChan_none.1 found c
    exact absurd ((held c).2 rfl) (by simpa using nowhere)
  | some d =>
    have here := (findChan_some found).1
    exact congrArg some ((held d).1 (by simpa using here))

variable {s : State} {e : Entry}

theorem State.heldIndication_of_not_ready (other : e.state ≠ .ready) : s.heldIndication e = false := by
  simp [State.heldIndication, other]

theorem State.heldIndication_of_unrouted (none : e.nextHop.bind s.station = none) : s.heldIndication e = false := by
  have channel : e.nextHop.bind s.hopChannel = .none := by
    cases hop : e.nextHop with
    | none => rfl
    | some i =>
      rw [hop] at none
      exact congrArg (Option.map Station.channel) none
  simp [State.heldIndication, State.held, none, channel]

theorem State.heldIndication_of_ready {i : Index} {st : Station} (ready : e.state = .ready) (hop : e.nextHop = some i)
    (occupied : s.station i = some st) : s.heldIndication e = s.covered st.channel e := by
  have channel : e.nextHop.bind s.hopChannel = some st.channel := by
    rw [hop]
    exact congrArg (Option.map Station.channel) occupied
  simp [State.heldIndication, State.covered, ready, channel]

theorem Entry.cancelled_eq (e : Entry) : e.cancelled = (e.cancelPending == some true) := by
  rw [Bool.eq_iff_iff]
  simp [Entry.cancelled]

theorem State.retryRemaining_of_idle (none : e.notBefore = none) : s.retryRemaining e = 0 := by
  rw [State.retryRemaining, none]

theorem State.retryRemaining_of_waiting {q : Quad} (wait : e.notBefore = some q) :
    be32 (s.retryRemaining e) = quadBytes (q - s.time.counter) := by
  rw [State.retryRemaining, wait]
  exact be32_toNat _

theorem optCall_of_fits {c : Option Call} (fits : ∀ d, c = some d → d.length ≤ 8) :
    optCall c = c.getD [] ++ List.replicate (8 - (c.getD []).length) 0x20 := by
  refine padCall_of_fits ?_
  cases c with
  | none => exact Nat.zero_le _
  | some d => exact fits d rfl

/-- Settles O60: the codes by their tables, each record by its fields' lengths. -/
theorem recordLengths : Obligations.RecordLengths := by
  unfold Obligations.RecordLengths
  refine ⟨?codes, fun g => rfl, fun o fits => ?own, fun g n m => ?window, fun s h i st c => ?lengths, fun s h fits => ?entry,
    fun s i st fits => ?station, fun s c => ?channel, fun s => ?status, fun w n small => ?numbers⟩
  case codes =>
    exact ⟨rfl, rfl, rfl, rfl, rfl, rfl, rfl, rfl, fun c => padCall_of_fits, rfl, fun n i => ⟨rfl, rfl⟩,
      fun q => (be32_toNat q).symm⟩
  case own =>
    rw [OwnStation.bytes, padCall_of_fits fits]
    cases o.defaultRoute <;> rfl
  case window =>
    exact ⟨fun aperiodic => g.window_of_period_eq_zero aperiodic n m, fun within inside => Settings.window_of_lt within inside,
      fun within outside => Settings.window_of_ge within outside⟩
  case lengths =>
    rw [State.entryRecord_eq, State.stationRecord_eq, State.channelRecord_eq, State.statusRecord_eq,
      length_of_fields (s.entryFields_lengths h), length_of_fields (s.stationFields_lengths i st),
      length_of_fields (s.channelFields_lengths c), length_of_fields s.statusFields_lengths]
    refine ⟨rfl, ?_, rfl, rfl, rfl, rfl, ?_, rfl⟩
    · simp [State.summary, padCall_length, be16_length]
    · simp [OwnStation.bytes, padCall_length, be16_length]
  case entry =>
    intro e at_ call yes
    obtain ⟨toFits, keyFits, -⟩ := fits []
    have field (k o n : Nat) {f : List Byte} := field_at (s.entryFields_lengths h) k o n (f := f)
    simp only [at_, State.entryRecord_eq]
    refine ⟨field 0 0 1 rfl rfl rfl, field 1 1 1 rfl rfl rfl, field 2 2 1 rfl rfl rfl, field 3 3 1 rfl rfl rfl, ?key,
      field 5 12 2 rfl rfl rfl, ?destination, field 7 22 4 rfl rfl rfl, field 8 26 4 rfl rfl rfl, field 9 30 2 rfl rfl rfl, ?received,
      fun none => ?noHop, fun i hop => ?hop, fun engaged => ?engaged, fun other => ?placed, ?last, field 14 50 1 rfl rfl rfl,
      fun none => ?noWait, fun q wait => ?wait, field 16 59 1 rfl rfl rfl, ?cancelled, ?changed,
      fun c held => s.engineOf_eq held, fun i st hop occupied => ?hopChannel, fun other => ?notReady, fun none => ?unrouted,
      fun i hop none => ?empty, fun i st ready hop occupied => ?ready⟩
    case key => exact (field 4 4 8 rfl rfl rfl).trans (padCall_of_fits keyFits)
    case destination => exact (field 6 14 8 rfl rfl rfl).trans (padCall_of_fits toFits)
    case received => exact (field 10 32 8 rfl rfl rfl).trans (optCall_of_fits fun d from_ => (fits d).2.2 (.inr from_))
    case noHop => exact (field 11 40 1 rfl rfl rfl).trans (by rw [none]; rfl)
    case hop => exact (field 11 40 1 rfl rfl rfl).trans (by rw [hop]; rfl)
    case engaged => exact (field 12 41 1 rfl rfl rfl).trans (by rw [State.derivedChannel, if_pos engaged])
    case placed => exact (field 12 41 1 rfl rfl rfl).trans (by rw [State.derivedChannel, if_neg other]; rfl)
    case last => exact (field 13 42 8 rfl rfl rfl).trans (optCall_of_fits fun d last => (fits d).2.2 (.inl last))
    case noWait => exact (field 15 51 8 rfl rfl rfl).trans (by rw [State.retryRemaining_of_idle none, none]; decide)
    case wait => exact (field 15 51 8 rfl rfl rfl).trans (by rw [State.retryRemaining_of_waiting wait, wait]; rfl)
    case cancelled => exact (field 17 60 1 rfl rfl rfl).trans (by rw [Entry.cancelled_eq]; cases e.cancelPending == some true <;> rfl)
    case changed => exact (field 18 61 1 rfl rfl rfl).trans (by cases e.changed <;> rfl)
    case hopChannel =>
      rw [hop]
      exact congrArg (Option.map Station.channel) occupied
    case notReady => exact (field 19 62 1 rfl rfl rfl).trans (by rw [State.heldIndication_of_not_ready other]; rfl)
    case unrouted => exact (field 19 62 1 rfl rfl rfl).trans (by rw [State.heldIndication_of_unrouted (by rw [none]; rfl)]; rfl)
    case empty => exact (field 19 62 1 rfl rfl rfl).trans (by rw [State.heldIndication_of_unrouted (by rw [hop]; exact none)]; rfl)
    case ready =>
      refine (field 19 62 1 rfl rfl rfl).trans ?_
      rw [State.heldIndication_of_ready ready hop occupied]
      cases s.covered st.channel e <;> rfl
  case station =>
    intro at_ yes limit
    have field (k o n : Nat) {f : List Byte} := field_at (s.stationFields_lengths i st) k o n (f := f)
    simp only [at_, State.stationRecord_eq]
    refine ⟨field 0 0 1 rfl rfl rfl, (field 1 1 8 rfl rfl rfl).trans (padCall_of_fits fits), field 2 9 1 rfl rfl rfl,
      (field 3 10 2 rfl rfl rfl).trans ?_, field 4 12 2 rfl rfl rfl, field 5 14 2 rfl rfl rfl,
      (field 6 16 3 rfl rfl rfl).trans ?_, field 7 19 2 rfl rfl rfl, field 8 21 1 rfl rfl rfl, field 9 22 2 rfl rfl rfl,
      field 10 24 2 rfl rfl rfl, (field 11 26 4 rfl rfl rfl).trans ?_⟩
    · cases st.kind <;> rfl
    · cases st.reach <;> rfl
    · rw [Station.limitBytes_eq, Station.limitBytes_eq]
  case channel =>
    intro x g at_ yes
    have field (k o n : Nat) {f : List Byte} := field_at (s.channelFields_lengths c) k o n (f := f)
    simp only [at_, State.channelRecord_eq]
    refine ⟨field 0 0 26 rfl rfl rfl, field 1 26 5 rfl rfl rfl, field 2 31 4 rfl rfl rfl, field 3 35 1 rfl rfl rfl,
      field 4 36 4 rfl rfl rfl, field 5 40 3 rfl rfl rfl, fun stopped => ?noRehold, fun n running => ?rehold,
      fun owed => ?owedHold, fun owed => ?owedRelease, fun none => ?owedNone, (field 8 46 1 rfl rfl rfl).trans ?phase,
      fun none => ?unreserved, fun h held => ?reserved, field 10 49 1 rfl rfl rfl, fun n f small filled => ?slot,
      fun n small none => ?noSlot, (field 15 98 2 rfl rfl rfl).trans ?transmitter, fun off => ?beaconOff, fun due => ?beaconDue,
      fun b counting => ?beaconCounting, fun onAir => ?beaconOnAir, (field 17 105 8 rfl rfl rfl).trans ?engine,
      field 18 113 1 rfl rfl rfl, (field 19 114 5 rfl rfl rfl).trans ?windowField⟩
    case phase => cases x.receiver.phase <;> rfl
    case transmitter => cases x.transmitter <;> rfl
    case engine =>
      cases x.engine with
      | idle => rfl
      | staged h w n => exact congrArg (fun f => [1] ++ f ++ be16 w ++ [0xFF, 0, 0]) (be16_of_small h.isLt)
      | sending h r =>
        refine (congrArg (fun f => [2] ++ f ++ [0, 0] ++ [(r.map Verdict.code).getD 0xFF] ++ [0, 0]) (be16_of_small h.isLt)).trans ?_
        cases r <;> rfl
      | awaiting h n => exact congrArg (fun f => [3] ++ f ++ [0, 0, 0xFF] ++ be16 n) (be16_of_small h.isLt)
    case windowField => cases s.window c <;> rfl
    case noRehold => exact (field 6 43 2 rfl rfl rfl).trans (by rw [stopped]; rfl)
    case rehold => exact (field 6 43 2 rfl rfl rfl).trans (by rw [running]; rfl)
    case owedHold => exact (field 7 45 1 rfl rfl rfl).trans (by rw [Channel.ownHoldCondition, owed])
    case owedRelease => exact (field 7 45 1 rfl rfl rfl).trans (by rw [Channel.ownHoldCondition, owed])
    case owedNone =>
      refine (field 7 45 1 rfl rfl rfl).trans ?_
      rw [Channel.ownHoldCondition, none]
      simp only [List.any_eq_true]
      exact apply_ite (fun b : Byte => [b]) _ _ _
    case unreserved => exact (field 9 47 2 rfl rfl rfl).trans (by rw [none]; rfl)
    case reserved => exact (field 9 47 2 rfl rfl rfl).trans (by rw [held]; exact be16_of_small h.isLt)
    case slot =>
      have slot : slotAt x.control n = f.slot := by rw [slotAt, filled]; rfl
      have here : (s.channelFields c)[11 + n]? = some (slotAt x.control n) := by
        interval_cases n <;> rfl
      rw [slot] at here
      refine (field (11 + n) (50 + 12 * n) 12 here (by interval_cases n <;> rfl) (by interval_cases n <;> rfl)).trans ?_
      cases f with
      | receipt to_ key v => exact List.append_assoc _ [v.code] (be16 0)
      | ownHold t q => rfl
    case noSlot =>
      have here : (s.channelFields c)[11 + n]? = some (slotAt x.control n) := by
        interval_cases n <;> rfl
      rw [slotAt, none] at here
      exact field (11 + n) (50 + 12 * n) 12 here (by interval_cases n <;> rfl) (by interval_cases n <;> rfl)
    case beaconOff => exact (field 16 100 5 rfl rfl rfl).trans (by rw [Channel.beaconBytes, off]; rfl)
    case beaconDue => exact (field 16 100 5 rfl rfl rfl).trans (by rw [Channel.beaconBytes, due]; rfl)
    case beaconCounting => exact (field 16 100 5 rfl rfl rfl).trans (by rw [Channel.beaconBytes, counting]; rfl)
    case beaconOnAir =>
      refine (part_at (field 16 100 5 rfl rfl rfl) 1 4 (by omega)).trans ?_
      rw [Channel.beaconBytes, onAir]
      rfl
  case status =>
    intro at_ bit bits
    have field (k o n : Nat) {f : List Byte} := field_at s.statusFields_lengths k o n (f := f)
    simp only [at_, State.statusRecord_eq]
    refine ⟨(field 0 0 1 rfl rfl rfl).trans ?_, field 1 1 2 rfl rfl rfl, field 2 3 2 rfl rfl rfl,
      (field 3 5 1 rfl rfl rfl).trans ?_, field 4 6 1 rfl rfl rfl, field 5 7 1 rfl rfl rfl, field 6 8 1 rfl rfl rfl,
      (field 7 9 1 rfl rfl rfl).trans ?_⟩
    · cases s.congestion <;> rfl
    · rw [State.flagByte, chanBits_shift]
      rfl
    · by_cases empty : s.own.call = [] <;> simp [empty, markByte]
  case numbers =>
    refine ⟨?_, fun _ => be32_eq n⟩
    rw [be16_eq, show BitVec.ofNat 8 (w % 256) = BitVec.ofNat 8 w from BitVec.eq_of_toNat_eq (by simp)]

end Sys2Proof.Machine
end

/-! # A cut of a transmitter, what TXDn carries after it, and the end of a break (R98) -/

section
namespace Sys2Proof.Machine

/-! ## The bits of a frame and the place on the line -/

section
variable {g : Settings}

theorem Settings.characterBits_length (g : Settings) (b : Byte) : (g.characterBits b).length = g.bitsPerChar := by
  unfold Settings.characterBits Settings.bitsPerChar parityBit
  cases g.parity <;> cases g.twoStops <;> rfl

theorem Settings.frameBits_length (g : Settings) (f : List Byte) : (g.frameBits f).length = f.length * g.bitsPerChar := by
  induction f with
  | nil => exact (Nat.zero_mul _).symm
  | cons b f ih =>
    unfold Settings.frameBits at ih ⊢
    rw [List.flatMap_cons, List.length_append, ih, Settings.characterBits_length, List.length_cons, Nat.succ_mul, Nat.add_comm]

theorem Settings.bitUnits_pos (g : Settings) : 0 < g.bitUnits := by
  unfold Settings.bitUnits
  omega

variable {f : List Byte} {k : Nat}

/-- Within a frame the bit on the line is the one that its place has reached. -/
theorem bitsBegun_within (within : k * 384 < f.length * g.bitsPerChar * g.bitUnits) :
    bitsBegun g f k = k * 384 / g.bitUnits + 1 :=
  Nat.min_eq_right ((Nat.div_lt_iff_lt_mul g.bitUnits_pos).2 within)

theorem restOfBit_within (within : k * 384 < f.length * g.bitsPerChar * g.bitUnits) : 0 < restOfBit g f k ∧
    restOfBit g f k ≤ g.bitUnits ∧ (k * 384 + restOfBit g f k) % g.bitUnits = 0 := by
  have place := Nat.div_add_mod (k * 384) g.bitUnits
  have part := Nat.mod_lt (k * 384) g.bitUnits_pos
  have rest : restOfBit g f k + k * 384 % g.bitUnits = g.bitUnits := by
    rw [restOfBit, bitsBegun_within within, Nat.succ_mul, Nat.mul_comm (k * 384 / g.bitUnits)]
    omega
  refine ⟨by omega, by omega, ?_⟩
  have whole : k * 384 + restOfBit g f k = g.bitUnits * (k * 384 / g.bitUnits) + g.bitUnits := by omega
  rw [whole, ← Nat.mul_succ]
  exact Nat.mul_mod_right ..

theorem restOfBit_beyond (beyond : f.length * g.bitsPerChar * g.bitUnits ≤ k * 384) : restOfBit g f k = 0 :=
  Nat.sub_eq_zero_of_le ((Nat.mul_le_mul_right _ (Nat.min_le_left ..)).trans beyond)

theorem levelAt_within (within : k * 384 < f.length * g.bitsPerChar * g.bitUnits) :
    (g.frameBits f)[k * 384 / g.bitUnits]? = some (levelAt g f k) := by
  have place : k * 384 / g.bitUnits < (g.frameBits f).length := by
    rw [Settings.frameBits_length]
    exact (Nat.div_lt_iff_lt_mul g.bitUnits_pos).2 within
  rw [levelAt, bitsBegun_within within, Nat.add_sub_cancel, List.getD_eq_getElem _ _ place, List.getElem?_eq_getElem place]

end

/-! ## The end of a break, and the release of keying (R98, R137) -/

/-- A channel's record once its radio is released and its gate has been evaluated. -/
def Channel.released (x : Channel) : Channel := { x with transmitter := .idle }.gated

section
variable {s : State} {c : Chan}

theorem releaseKey_turned (c : Chan) (s : State) : (s.updChan c Channel.released).Turned (releaseKey c s) := by
  have turned := gate_turned c (setTransmitter .idle c s)
  rwa [setTransmitter, State.updChan_updChan] at turned

theorem Channel.released_line (x : Channel) : x.released.transmitter = .idle ∧ x.released.control = x.control ∧
    x.released.busy = (x.enabled && x.carrier) ∧ x.released.queue = x.queue ∧ x.released.engine = x.engine := by
  have busy : x.released.busy = (x.enabled && (x.carrier || false)) := Channel.gated_busy _
  rw [Bool.or_false] at busy
  unfold Channel.released Channel.gated
  refine ⟨?_, (Channel.gated_frames _).1, busy, ?_, ?_⟩
  all_goals split <;> [rfl; split <;> rfl]

theorem breakSent_iff {u r k : Nat} {level : Bool} (sending : (s.chan c).transmitter = .brk u r k level) :
    (s.chan c).breakSent = true ↔ r + 15 * u < (k + 1) * 384 := by
  rw [Channel.breakSent, sending]
  exact decide_eq_true_iff

theorem Channel.txd_of_break {x : Channel} {u r k : Nat} {level : Bool} (breaking : x.transmitter = .brk u r k level) :
    x.txd = if k * 384 < r then level else decide (r + 13 * u ≤ k * 384) := by
  rw [Channel.txd, breaking]

end

/-- Settles O20: the cut case by case, TXDn by the place in the break, and its end as the release of keying. -/
theorem cutAndBreak : Obligations.CutAndBreak := by
  unfold Obligations.CutAndBreak
  refine ⟨fun g x w f k u r n q => ⟨rfl, rfl, rfl, fun level => rfl, g.bitUnits, restOfBit g f k, levelAt g f k, rfl, rfl,
    fun within => ?_, restOfBit_beyond, ?_, ?_⟩, fun x u r k level breaking => ?_, fun s c u r k level breaking => ?_⟩
  · obtain ⟨pos, atMost, whole⟩ := restOfBit_within within
    exact ⟨pos, atMost, whole, levelAt_within within⟩
  · simp [Transmitter.breakRemaining]
  · exact (List.append_assoc ..).symm
  · rw [Channel.txd_of_break breaking]
    refine ⟨fun cut => if_pos cut, fun ended space => ?_, fun mark => ?_⟩
    · rw [if_neg (by omega), decide_eq_false (by omega)]
    · rw [if_neg (by omega), decide_eq_true mark]
  · refine ⟨fun goesOn => ?_, fun ended disabled => ?_, fun ended enabled => ?_⟩
    · exact congrArg Host.Outcome.next (if_neg fun sent => absurd ((breakSent_iff breaking).1 sent) (by omega))
    · refine congrArg Host.Outcome.next ((if_pos ((breakSent_iff breaking).2 ended)).trans (if_neg ?_))
      rw [disabled]
      exact Bool.false_ne_true
    · have turned := (releaseKey_turned c s).trans (.conclude _)
      have line := turned.chan c
      rw [State.chan_updChan_same] at line
      obtain ⟨idle, control, busy, exchange⟩ := (s.chan c).released_line
      refine ⟨_, congrArg Host.Outcome.next ((if_pos ((breakSent_iff breaking).2 ended)).trans (if_pos enabled)), ?_, ?_,
        line.control.trans control, fun d other => ?_, fun k idle => ?_, ?_, turned.response⟩
      · rw [line.keyed, idle]
        rfl
      · rw [line.busy, busy, enabled, Bool.true_and]
      · have other := turned.chan d
        rwa [State.chan_updChan_other s (Ne.symm ‹d ≠ c›)] at other
      · exact ((State.LeavesOthers.of_updChan s c _ exchange k idle).elim fun _ still => turned.others k still).1
      · exact turned.sameTables

end Sys2Proof.Machine
end

/-! # ENABLE CHANNEL (R105, R150) -/

section
namespace Sys2Proof.Machine

variable {s : State} {c : Chan}

/-! ## The record of an enabled channel -/

theorem Channel.SameButOwn.sameBut {x y : Channel} (h : x.SameButOwn y) : y.sampler = x.sampler ∧ y.receiver = x.receiver ∧
    y.clearTime = x.clearTime ∧ y.busyLength = x.busyLength ∧ y.jammed = x.jammed ∧ y.busy = x.busy ∧
    y.settings = x.settings ∧ y.beacon = x.beacon := by
  rw [← h]
  exact ⟨rfl, rfl, rfl, rfl, rfl, rfl, rfl, rfl⟩

theorem Channel.queueOwn_control_congr {x y : Channel} (control : y.control = x.control) (n : Nat) (k : Fin 8) :
    (y.queueOwn n k).control = (x.queueOwn n k).control := by
  unfold Channel.queueOwn
  rw [control]
  split
  · rfl
  · split
    · rfl
    · rfl

/-- A channel's record as its enable leaves it, the own HOLD of a CONGESTED part with it (R90, R105). -/
def State.enabledRecord (s : State) (x : Channel) : Channel :=
  if s.congestion = .congested then (x.started s.time.counter).queueOwn s.own.holdTime s.own.holdCutoff
  else x.started s.time.counter

theorem holdIfCongested_started :
    holdIfCongested c (s.updChan c (Channel.started s.time.counter)) = s.updChan c s.enabledRecord := by
  unfold holdIfCongested State.enabledRecord
  rw [State.updChan_congestion]
  split
  · rw [queueOwnHold, State.updChan_updChan]
    rfl
  · rfl

theorem startChannel_turned (c : Chan) (s : State) : (s.updChan c s.enabledRecord).Turned (startChannel c s) := by
  rw [startChannel, holdIfCongested_started]
  exact (State.Turned.sweep _).trans (.considerAll _)

theorem State.enabledRecord_sameButOwn (x : Channel) : (x.started s.time.counter).SameButOwn (s.enabledRecord x) := by
  unfold State.enabledRecord
  split
  · exact Channel.queueOwn_sameButOwn ..
  · exact .rfl' _

theorem State.enabledRecord_control (x : Channel) : (s.enabledRecord x).control =
    if s.congestion = .congested then (x.queueOwn s.own.holdTime s.own.holdCutoff).control else x.control := by
  unfold State.enabledRecord
  split
  · exact Channel.queueOwn_control_congr (x := x) (y := x.started s.time.counter) rfl ..
  · rfl

theorem enableChannel_starts (called : s.own.call ≠ []) (disabled : (s.chan c).enabled = false) :
    enableChannel c s = (startChannel c s).answer .done [] := by
  rw [enableChannel, if_neg called, if_neg (by rw [disabled]; exact Bool.false_ne_true)]

/-- Settles O18: the enable is the record written, then routing and considerations; the refusals are the branches. -/
theorem enableStartsChannel : Obligations.EnableStartsChannel := by
  unfold Obligations.EnableStartsChannel
  refine ⟨fun s b c channel called disabled => ?_, fun s b => ⟨fun c channel empty => ?_, fun c channel called enabled => ?_,
    fun c channel disabled => ?_, fun outside => ⟨?_, ?_⟩⟩⟩
  · obtain ⟨t, run, turned⟩ := exec_turned (i := .enableChannel b) rfl
      ((onChannel_named _ channel).trans (enableChannel_starts called disabled)) ((startChannel_turned c s).answer .done [])
    have line := turned.chan c
    rw [show ((s.updChan c s.enabledRecord).answer .done []).chan c = s.enabledRecord (s.chan c) from
      State.chan_updChan_same ..] at line
    have own := State.enabledRecord_sameButOwn (s := s) (s.chan c)
    obtain ⟨sampler, receiver, clearTime, busyLength, jammed, busy, settings, beacon⟩ := own.sameBut
    refine ⟨t, run, turned.response, line.enabled.trans own.enabled, line.sampler.trans sampler, line.receiver.trans receiver,
      line.clearTime.trans clearTime, line.busyLength.trans busyLength, line.jammed.trans jammed, ?_,
      line.settings.trans settings, line.beacon.trans beacon, line.control.trans (State.enabledRecord_control _),
      fun d other => ?_, fun k => turned.entry k, turned.sameTables⟩
    · rw [line.busy, line.busyNow, busy, own.busyNow]
      rfl
    · have line := turned.chan d
      rwa [show ((s.updChan c s.enabledRecord).answer .done []).chan d = s.chan d from
        State.chan_updChan_other s (Ne.symm other) _] at line
  · exact exec_answers rfl ((onChannel_named _ channel).trans (if_pos empty))
  · exact exec_answers rfl ((onChannel_named _ channel).trans ((if_neg called).trans (if_pos enabled)))
  · exact exec_answers rfl ((onChannel_named _ channel).trans
      (if_neg (by rw [disabled]; exact Bool.false_ne_true)))
  · exact exec_answers rfl (onChannel_outside _ outside)
  · exact exec_answers rfl (onChannel_outside _ outside)

end Sys2Proof.Machine
end

/-! # The clock and the transmit windows at work (sections 9.3, 9.5) -/

section
namespace Sys2Proof.Machine

/-! ## Four turns, read at one channel -/

/-- What turns at the other channels keep, before and after, and the turn at one channel brings about, four turns bring
about. -/
theorem forChans_at {f : Chan → State → State} {P Q : State → Prop} (c : Chan)
    (before : ∀ d t, d ≠ c → P t → P (f d t)) (here : ∀ t, P t → Q (f c t)) (after : ∀ d t, d ≠ c → Q t → Q (f d t))
    {s : State} (first : P s) : Q (forChans f s) := by
  unfold forChans
  rcases chan_cases c with rfl | rfl | rfl | rfl
  · exact after 3 _ (by decide) (after 2 _ (by decide) (after 1 _ (by decide) (here _ first)))
  · exact after 3 _ (by decide) (after 2 _ (by decide) (here _ (before 0 _ (by decide) first)))
  · exact after 3 _ (by decide) (here _ (before 1 _ (by decide) (before 0 _ (by decide) first)))
  · exact here _ (before 2 _ (by decide) (before 1 _ (by decide) (before 0 _ (by decide) first)))

/-! ## Withdrawals (R39) -/

section
variable {s : State} {c : Chan} {h : Handle}

theorem withdraw_of_not_staged (free : ∀ h w x, (s.chan c).engine ≠ .staged h w x) : withdraw c s = s := by
  unfold withdraw
  split
  · next h w x staged => exact absurd staged (free h w x)
  · rfl

theorem withdraw_engine (c d : Chan) (s : State) : ((withdraw c s).chan d).engine =
    if d = c then (s.chan c).engine.unstaged else (s.chan d).engine := by
  have chan := congrArg Channel.engine (withdraw_chan c d s)
  rw [apply_ite Channel.engine] at chan
  exact chan

theorem withdraw_entry (free : ∀ w x, (s.chan c).engine ≠ .staged h w x) : (withdraw c s).entry h = s.entry h := by
  by_cases staged : ∃ k w x, (s.chan c).engine = .staged k w x
  · obtain ⟨k, w, x, staged⟩ := staged
    obtain ⟨-, -, -, -, others⟩ := withdraw_spec staged
    exact others h fun same => free w x (same ▸ staged)
  · rw [withdraw_of_not_staged fun k w x run => staged ⟨k, w, x, run⟩]

theorem State.KeepsAt.withdraw (free : (s.chan c).engine.entry? ≠ some h) : s.KeepsAt h (withdraw c s) :=
  ⟨.withdraw free, fun d held => by
    rcases (State.Withdrawn.withdraw c s).engine d with same | idle
    · exact same ▸ held
    · rw [idle] at held; cases held⟩

/-- A withdrawal leaves the entry READY in the collection of its route (R39). -/
theorem withdraw_returns {w x : Nat} (staged : (s.chan c).engine = .staged h w x) :
    (withdraw c s).Returns h (s.entry h) .withdrawn := by
  have alike := (State.Moved.withdraw c s).routesAlike
  have noted := State.RoutesAlike.updEntry (idleEngine c s) h fun e => { e with lastOutcome := .withdrawn }
  rw [State.Returns, alike.route, State.collectionFor_congr alike.stations]
  rw [withdraw_of_staged staged, State.returnEntry_entry]
  refine ⟨?_, ?_⟩
  · rw [(State.Moved.idleEngine c s).routesAlike.route]
    rfl
  · have home := State.mem_collection_place ((idleEngine c s).updEntry h fun e => { e with lastOutcome := .withdrawn }) h
    rw [State.collectionFor_congr (State.SameButPlacing.place h _).stations, noted.route, State.entry_updEntry, if_pos rfl,
      (State.Moved.idleEngine c s).routesAlike.route] at home
    exact home

end

/-! ## What routing may touch, wherever (R27, R142) -/

/-- Two states differ at most in the channels' records, and in what routing may touch among the entries that wait or stand in
an exchange. -/
structure State.Rerouted (s t : State) : Prop where
  rest : { t with entries := s.entries, unrouted := s.unrouted, channels := s.channels } = s
  entry : ∀ k, (s.entry k).SameMessage (t.entry k)
  others : s.LeavesOthers t

namespace State.Rerouted

section
variable {s t u : State}

theorem refl (s : State) : s.Rerouted s := ⟨rfl, fun _ => .rfl' _, .refl s⟩

theorem trans (a : s.Rerouted t) (b : t.Rerouted u) : s.Rerouted u where
  rest := by
    have h1 := a.rest; have k1 := b.rest
    obtain ⟨⟩ := s; obtain ⟨⟩ := t; obtain ⟨⟩ := u
    simp_all
  entry k := (a.entry k).trans (b.entry k)
  others := a.others.trans b.others

theorem of_turned (h : s.Turned t) : s.Rerouted t := ⟨h.rest, h.entry, h.others⟩

theorem tables (h : s.Rerouted t) : s.SameTables t := by
  rw [State.SameTables, ← h.rest]
  exact ⟨rfl, rfl, rfl, rfl, rfl, rfl, rfl⟩

theorem of_updChan (s : State) (c : Chan) (f : Channel → Channel)
    (exchange : (f (s.chan c)).queue = (s.chan c).queue ∧ (f (s.chan c)).engine = (s.chan c).engine) :
    s.Rerouted (s.updChan c f) := ⟨rfl, fun _ => .rfl' _, .of_updChan s c f exchange⟩

theorem forChans {f : Chan → State → State} (each : ∀ c t, State.Rerouted t (f c t)) (s : State) :
    s.Rerouted (forChans f s) := (((each 0 s).trans (each 1 _)).trans (each 2 _)).trans (each 3 _)

end

end State.Rerouted

/-! ## Window events (R173, R174) -/

section
variable {s t : State} {c : Chan} {h : Handle}

/-- A window event, if there is one, does what it does on its channel. -/
def applyEvent (e : Option WindowEvent) (c : Chan) (s : State) : State :=
  match e with
  | some e => applyWindow e c s
  | none => s

theorem applyWindow_closed (enabled : (s.chan c).enabled = true) : applyWindow .closed c s = withdraw c s := if_pos enabled

theorem applyWindow_closed_of_disabled (disabled : (s.chan c).enabled ≠ true) : applyWindow .closed c s = s :=
  if_neg disabled

theorem applyEvent_of_closes {e : Option WindowEvent} (closes : (s.chan c).enabled = true ∧ e = some .closed) :
    applyEvent e c s = withdraw c s := by
  rw [closes.2]
  exact applyWindow_closed closes.1

theorem applyEvent_of_keeps {e : Option WindowEvent} (keeps : ¬ ((s.chan c).enabled = true ∧ e = some .closed)) :
    applyEvent e c s = s := by
  match e with
  | none => rfl
  | some .opened => rfl
  | some .closed => exact applyWindow_closed_of_disabled fun enabled => keeps ⟨enabled, rfl⟩

theorem applyEvent_moved (e : Option WindowEvent) (c : Chan) (s : State) : s.Moved (applyEvent e c s) := by
  by_cases closes : (s.chan c).enabled = true ∧ e = some .closed
  · rw [applyEvent_of_closes closes]; exact .withdraw c s
  · rw [applyEvent_of_keeps closes]; exact .refl s

theorem applyEvent_turned (e : Option WindowEvent) (c : Chan) (s : State) : s.Turned (applyEvent e c s) := by
  by_cases closes : (s.chan c).enabled = true ∧ e = some .closed
  · rw [applyEvent_of_closes closes]; exact .withdraw c s
  · rw [applyEvent_of_keeps closes]; exact .refl s

theorem applyEvent_engine_other (e : Option WindowEvent) {d : Chan} (other : d ≠ c) :
    ((applyEvent e c s).chan d).engine = (s.chan d).engine := by
  by_cases closes : (s.chan c).enabled = true ∧ e = some .closed
  · rw [applyEvent_of_closes closes]; exact withdraw_engine_other other
  · rw [applyEvent_of_keeps closes]

theorem State.KeepsAt.applyEvent (e : Option WindowEvent) (free : (s.chan c).engine.entry? ≠ some h) :
    s.KeepsAt h (applyEvent e c s) := by
  by_cases closes : (s.chan c).enabled = true ∧ e = some .closed
  · rw [applyEvent_of_closes closes]; exact .withdraw free
  · rw [applyEvent_of_keeps closes]; exact .refl h s

/-- The window events of the four channels, each on its own (R170). -/
def applyEvents (e : Chan → Option WindowEvent) (s : State) : State := forChans (fun c => applyEvent (e c) c) s

theorem applyEvents_turned (e : Chan → Option WindowEvent) (s : State) : s.Turned (applyEvents e s) :=
  .forChans (fun c t => applyEvent_turned (e c) c t) s

/-- Each engine has what its own channel's event leaves it. -/
theorem applyEvents_engine (e : Chan → Option WindowEvent) (s : State) (c : Chan) : ((applyEvents e s).chan c).engine =
    if (s.chan c).enabled = true ∧ e c = some .closed then (s.chan c).engine.unstaged else (s.chan c).engine := by
  refine forChans_at (P := fun t => (t.chan c).engine = (s.chan c).engine ∧ (t.chan c).enabled = (s.chan c).enabled)
    (Q := fun t => (t.chan c).engine = if (s.chan c).enabled = true ∧ e c = some .closed then (s.chan c).engine.unstaged
      else (s.chan c).engine) c (fun d t other same => ?_) (fun t same => ?_) (fun d t other same => ?_) ⟨rfl, rfl⟩
  · exact ⟨(applyEvent_engine_other _ (Ne.symm other)).trans same.1,
      ((applyEvent_turned (e d) d t).chan c).enabled.trans same.2⟩
  · split
    · next closes =>
      rw [applyEvent_of_closes ⟨same.2 ▸ closes.1, closes.2⟩, withdraw_engine, if_pos rfl, same.1]
    · next keeps => rw [applyEvent_of_keeps fun ⟨enabled, closed⟩ => keeps ⟨same.2 ▸ enabled, closed⟩, same.1]
  · exact (applyEvent_engine_other _ (Ne.symm other)).trans same

/-- An entry whose exchange no close withdraws stands as it did. -/
theorem applyEvents_entry {e : Chan → Option WindowEvent}
    (free : ∀ c w x, (s.chan c).enabled = true ∧ e c = some .closed → (s.chan c).engine ≠ .staged h w x) :
    (applyEvents e s).entry h = s.entry h := by
  refine (forChans_keeps (P := fun t => t.entry h = s.entry h ∧ (∀ d, (t.chan d).enabled = (s.chan d).enabled) ∧
    ∀ d, (t.chan d).engine = (s.chan d).engine ∨ (t.chan d).engine = .idle) (fun c t same => ?_)
    ⟨rfl, fun _ => rfl, fun _ => .inl rfl⟩).1
  obtain ⟨entry, enabled, engine⟩ := same
  by_cases closes : (t.chan c).enabled = true ∧ e c = some .closed
  · rw [applyEvent_of_closes closes]
    refine ⟨(withdraw_entry fun w x staged => ?_).trans entry, fun d => ((State.Turned.withdraw c t).chan d).enabled.trans
      (enabled d), fun d => ?_⟩
    · rcases engine c with same | idle
      · exact free c w x ⟨enabled c ▸ closes.1, closes.2⟩ (same ▸ staged)
      · rw [idle] at staged; cases staged
    · rcases (State.Withdrawn.withdraw c t).engine d with same | idle
      · rw [same]; exact engine d
      · exact .inr idle
  · rw [applyEvent_of_keeps closes]
    exact ⟨entry, enabled, engine⟩

/-- An exchange that a close withdraws leaves its entry READY in the collection of its route (R39, R173). -/
theorem applyEvents_returns {e : Chan → Option WindowEvent} {w x : Nat}
    (closes : (s.chan c).enabled = true ∧ e c = some .closed) (staged : (s.chan c).engine = .staged h w x)
    (held : s.HeldAlone c h) : (applyEvents e s).Returns h (s.entry h) .withdrawn := by
  refine State.EndedHome.returns ?_
  refine forChans_at (P := fun t => s.KeepsAt h t ∧ (t.chan c).engine = (s.chan c).engine ∧ s.Turned t)
    (Q := fun t => t.EndedHome h (s.entry h) .ready .withdrawn) c (fun d t other same => ?_) (fun t same => ?_)
    (fun d t other ended => ?_) ⟨.refl h s, rfl, .refl s⟩
  · obtain ⟨keeps, engine, turned⟩ := same
    exact ⟨keeps.trans (.applyEvent _ fun held' => held.2.2 d other (keeps.engine d held')),
      (applyEvent_engine_other _ (Ne.symm other)).trans engine, turned.trans (applyEvent_turned ..)⟩
  · obtain ⟨keeps, engine, turned⟩ := same
    rw [applyEvent_of_closes ⟨(turned.chan c).enabled.trans closes.1, closes.2⟩, ← keeps.same.1]
    exact withdraw_ended (engine.trans staged) (held.of_keeps keeps engine)
  · exact ended.keeps (.applyEvent _ ((ended.2 rfl).2.free d)) (applyEvent_moved ..).routesAlike

end

/-! ## SET CLOCK (R170) -/

section
variable {s : State}

theorem settleWindow_of_none {c : Chan} (none : (s.chan c).windowDue = none) : settleWindow c s = s := by
  rw [settleWindow, none]

theorem takeWindow_rerouted (e : WindowEvent) (c : Chan) (s : State) : s.Rerouted (takeWindow e c s) :=
  (State.Rerouted.of_updChan s c _ ⟨rfl, rfl⟩).trans
    (.of_turned ((applyEvent_turned (some e) c (clearWindowDue c s)).trans (.conclude _)))

theorem settleWindow_rerouted (c : Chan) (s : State) : s.Rerouted (settleWindow c s) := by
  unfold settleWindow
  split
  · exact takeWindow_rerouted ..
  · exact .refl s

/-- The part as SET CLOCK has it before its considerations: the clock set and each window's event applied. -/
def clockSet (second : Nat) (s : State) : State :=
  (applyEvents (s.windowChange second 0) (writeClock second 0 s)).answer .done []

theorem setClock_accepted {n : Quad} (within : n.toNat ≤ 86399) :
    setClock n s = considerAll (clockSet n.toNat (forChans settleWindow s)) := if_neg (not_lt.2 within)

theorem clockSet_turned (second : Nat) (s : State) :
    ((writeClock second 0 s).answer .done []).Turned (clockSet second s) := (applyEvents_turned ..).answer _ _

end

/-- Settles O25: SET CLOCK is the clock written and the events of the windows' change, then the considerations. -/
theorem clockSetAndRead : Obligations.ClockSetAndRead := by
  unfold Obligations.ClockSetAndRead
  refine fun s n => ⟨fun within => ?_, ?_, fun outside => ?_, exec_answers rfl rfl⟩
  · obtain ⟨settled, eq, before⟩ : ∃ u, forChans settleWindow s = u ∧ s.Rerouted u :=
      ⟨_, rfl, .forChans settleWindow_rerouted s⟩
    obtain ⟨t, run, turned⟩ := exec_turned (i := .setClock n) (s := s) rfl
      ((setClock_accepted within).trans (congrArg (fun u => considerAll (clockSet n.toNat u)) eq))
      ((clockSet_turned n.toNat settled).trans (.considerAll _))
    obtain ⟨stations, own, classes, time, -⟩ := before.tables
    obtain ⟨stations', own', classes', time', -⟩ := turned.sameTables
    refine ⟨t, run, turned.response, time'.trans ?_, stations'.trans stations, own'.trans own, classes'.trans classes,
      fun k => (before.entry k).trans (turned.entry k), fun k idle => ?_⟩
    · exact congrArg (fun t : TimeBase => { t with clockSecond := n.toNat, clockMs := 0 }) time
    · obtain ⟨same, idle'⟩ := before.others k idle
      exact (turned.others k idle').1.trans same
  · intro within none closes
    have settled : forChans settleWindow s = s := forChans_self fun c => settleWindow_of_none (none c)
    have taken : setClock n s = considerAll (clockSet n.toNat s) := by rw [setClock_accepted within, settled]
    have engine (c : Chan) := applyEvents_engine (s.windowChange n.toNat 0) (writeClock n.toNat 0 s) c
    refine ⟨clockSet n.toNat s, _, rfl, ?_, fun noPause => ?_, fun c h w x closed staged => ⟨?_, fun held => ?_⟩,
      fun c keeps => ?_, fun k free => ?_⟩
    · exact (State.Turned.considerAll _).trans (taken ▸ takeRequest_turned (setClock n) s)
    · exact (takeRequest_of_no_pause noPause).trans (congrArg arbitrateAll taken)
    · exact (engine c).trans ((if_pos closed).trans (congrArg Engine.unstaged staged))
    · exact applyEvents_returns (s := writeClock n.toNat 0 s) closed staged held
    · refine (engine c).trans ?_
      split
      · next closed => exact Engine.unstaged_of_not_staged (keeps closed)
      · rfl
    · exact applyEvents_entry (s := writeClock n.toNat 0 s) free
  · exact exec_answers rfl (if_pos outside)

end Sys2Proof.Machine
end

/-! # The millisecond advance and the window events (R166, R173, R174) -/

section
namespace Sys2Proof.Machine

/-! ## What a millisecond counts (R101, R102, R125, R136, R147) -/

/-- A channel's counts after a millisecond, and its transmitter and engine as given. -/
def Channel.ticked (x : Channel) (t : Transmitter) (e : Engine) : Channel :=
  { x with
    clearTime := if x.enabled = true ∧ x.busy = false then min 65535 (x.clearTime + 1) else x.clearTime
    busyLength := if x.enabled = true ∧ x.busy = true ∧ x.transmitter.keyed = false then
      min 65535 (x.busyLength + 1) else x.busyLength
    transmitter := t
    engine := e
    receiver := if x.receiver.phase = .hunt then x.receiver else { x.receiver with gap := x.receiver.gap + 1 } }

theorem Channel.atMs_eq (x : Channel) : x.atMs = x.ticked x.transmitter.atMs x.engine.atMs := by
  simp only [Channel.atMs, Channel.ticked, saturate, Config.saturation, Receiver.atMs, Bool.and_eq_true, Bool.not_eq_true',
    and_assoc]

/-- With no event waiting, none of the marks of the Time Base stands. -/
theorem marks_of_settled {s : State} (settled : settleOnce s = none) :
    s.time.clockDue = false ∧ s.time.quantumDue = false ∧ s.time.secondDue = false := by
  unfold settleOnce at settled
  split at settled
  · cases settled
  split at settled
  · cases settled
  split at settled
  · cases settled
  next clock quantum second => exact ⟨by simpa using clock, by simpa using quantum, by simpa using second⟩

section
variable {t : TimeBase}

theorem TimeBase.atMs_dividers (kept : t.Kept) : t.atMs.quantumDivider = (t.quantumDivider + 1) % 100 ∧
    t.atMs.secondDivider = (t.secondDivider + 1) % 1000 := by
  obtain ⟨quantum, second, -, -⟩ := kept
  unfold TimeBase.atMs
  constructor
  · dsimp only
    split <;> omega
  · dsimp only
    split <;> omega

theorem TimeBase.atMs_marks (kept : t.Kept) (unmarked : t.clockDue = false ∧ t.quantumDue = false ∧ t.secondDue = false) :
    (t.atMs.quantumDue = true ↔ t.quantumDivider = 99) ∧ (t.atMs.secondDue = true ↔ t.secondDivider = 999) ∧
      (t.atMs.clockDue = true ↔ t.clockMs = 999) := by
  obtain ⟨quantum, second, -, ms⟩ := kept
  obtain ⟨noClock, noQuantum, noSecond⟩ := unmarked
  simp only [TimeBase.atMs, noClock, noQuantum, noSecond, Bool.false_or, decide_eq_true_eq]
  omega

theorem TimeBase.atMs_clockMs (kept : t.Kept) :
    (t.clockMs ≠ 999 → t.atMs.clockMs = t.clockMs + 1) ∧ (t.clockMs = 999 → t.atMs.clockMs = 999) := by
  obtain ⟨-, -, -, ms⟩ := kept
  unfold TimeBase.atMs
  dsimp only
  split <;> omega

end

theorem tick_chan (s : State) (c : Chan) : (tick s).chan c = (s.chan c).atMs := getElem_mapVector ..

/-! ## Window events, each taken by its own command (R173, R174) -/

section
variable {s : State} {c : Chan}

theorem clearWindowDue_chan_same : (clearWindowDue c s).chan c = { s.chan c with windowDue := none } :=
  State.chan_updChan_same ..

theorem applyWindow_closed_of_unstaged (unstaged : (s.chan c).enabled = true → ∀ h w x, (s.chan c).engine ≠ .staged h w x) :
    applyWindow .closed c s = s := by
  by_cases enabled : (s.chan c).enabled = true
  · rw [applyWindow_closed enabled, withdraw_of_not_staged (unstaged enabled)]
  · exact applyWindow_closed_of_disabled enabled

theorem conclude_clearWindowDue_engine (runs : (s.chan c).engine ≠ .idle) :
    ((conclude (clearWindowDue c s)).chan c).engine = (s.chan c).engine := by
  have kept : ((clearWindowDue c s).chan c).engine = (s.chan c).engine := by rw [clearWindowDue_chan_same]
  rw [conclude_engine_of_ne_idle (kept ▸ runs), kept]

theorem exec_windowCloseEvent (due : (s.chan c).windowDue = some .closed) :
    exec (.windowCloseEvent c) s = .next (conclude (applyWindow .closed c (clearWindowDue c s))) :=
  congrArg Host.Outcome.next (if_pos due)

end

/-- Settles O44: the advance of a settled part is a tick, and a window event that waits is a withdrawal or nothing, before the
end of its event. -/
theorem millisecondAndWindowEvents : Obligations.MillisecondAndWindowEvents := by
  unfold Obligations.MillisecondAndWindowEvents
  refine ⟨fun s settled kept => ?_, fun s c => ?_⟩
  · obtain ⟨quantum, second⟩ := TimeBase.atMs_dividers kept
    obtain ⟨quantumDue, secondDue, clockDue⟩ := TimeBase.atMs_marks kept (marks_of_settled settled)
    obtain ⟨running, stopped⟩ := TimeBase.atMs_clockMs kept
    refine ⟨tick s, exec_millisecondAdvance_of_none settled, rfl, fun last => ?_, quantum, second, quantumDue, secondDue,
      clockDue, rfl, running, stopped, rfl, fun c => ?_⟩
    · exact (congrArg (· + 1) last).trans (by decide)
    · refine (tick_chan s c).trans ((Channel.atMs_eq _).trans (congrArg₂ (s.chan c).ticked ?_ ?_))
      · cases (s.chan c).transmitter <;> rfl
      · cases (s.chan c).engine <;> rfl
  · intro taken
    have cleared : clearWindowDue c s = taken := rfl
    refine ⟨fun h w x due enabled staged => ?_, fun due unstaged => ⟨?_, .conclude _, conclude_clearWindowDue_engine⟩,
      fun due => ⟨?_, .conclude _, conclude_clearWindowDue_engine⟩, fun other => ?_, fun other => ?_⟩
    · have staged' : (taken.chan c).engine = .staged h w x := by
        rw [← cleared, clearWindowDue_chan_same]
        exact staged
      have enabled' : (taken.chan c).enabled = true := by
        rw [← cleared, clearWindowDue_chan_same]
        exact enabled
      obtain ⟨-, -, -, -, others⟩ := withdraw_spec staged'
      refine ⟨withdraw c taken, ?_, .conclude _, withdraw_returns staged', fun d => ?_, others,
        (State.Turned.withdraw c taken).sameTables, (State.Turned.withdraw c taken).response⟩
      · rw [exec_windowCloseEvent due, cleared, applyWindow_closed enabled']
      · rw [withdraw_chan, staged']
        by_cases here : d = c
        · rw [if_pos here, if_pos here, here]
          rfl
        · rw [if_neg here, if_neg here]
    · have unstaged' : (taken.chan c).enabled = true → ∀ h w x, (taken.chan c).engine ≠ .staged h w x := by
        rw [← cleared, clearWindowDue_chan_same]
        exact unstaged
      rw [exec_windowCloseEvent due, cleared, applyWindow_closed_of_unstaged unstaged']
    · exact congrArg Host.Outcome.next (if_pos due)
    · exact congrArg Host.Outcome.next (if_neg other)
    · exact congrArg Host.Outcome.next (if_neg other)

end Sys2Proof.Machine
end

/-! # An engine that has made its consideration finds nothing more to take (R141, R142, R149)

An engine is rested when each entry of its queue is one that a consideration passes over (`State.Rested`). Its own
consideration leaves it so, and no other engine's undoes that, since that takes entries away at most. -/

section
namespace Sys2Proof.Machine

/-! ## Entries taken away, the others left (R143) -/

/-- Every handle that a collection still holds it held before, and its entry is as it was. -/
def State.Thinned (s t : State) : Prop := ∀ q h, h ∈ t.collection q → h ∈ s.collection q ∧ t.entry h = s.entry h

section
variable {s t u : State} {c d : Chan} {h k : Handle}

theorem State.Thinned.refl (s : State) : s.Thinned s := fun _ _ mem => ⟨mem, rfl⟩

theorem State.Thinned.trans (a : s.Thinned t) (b : t.Thinned u) : s.Thinned u := fun q h mem => by
  obtain ⟨mem', same⟩ := b q h mem
  obtain ⟨mem, same'⟩ := a q h mem'
  exact ⟨mem, same.trans same'⟩

theorem State.Thinned.leave_updEntry (h : Handle) (f : Entry → Entry) (s : State) :
    s.Thinned ((s.leave h).updEntry h f) := fun q k mem => by
  rw [State.collection_updEntry, State.mem_leave] at mem
  exact ⟨mem.1, by rw [State.entry_updEntry, if_neg (Ne.symm mem.2)]; rfl⟩

theorem State.Thinned.updChan {f : Channel → Channel} (queue : (f (s.chan c)).queue = (s.chan c).queue) :
    s.Thinned (s.updChan c f) := fun q k mem => by
  refine ⟨?_, rfl⟩
  cases q with
  | unrouted => exact mem
  | queue d =>
    by_cases here : c = d
    · subst here
      rw [State.collection, State.chan_updChan_same, queue] at mem
      exact mem
    · rw [State.collection, State.chan_updChan_other s here] at mem
      exact mem

theorem State.Thinned.engage (c : Chan) (h : Handle) (s : State) : s.Thinned (engage c h s) :=
  (State.Thinned.leave_updEntry h _ s).trans (.updChan rfl)

theorem State.Thinned.failOversize (h : Handle) (s : State) : s.Thinned (failOversize h s) := .leave_updEntry h _ s

theorem State.Thinned.walk (c : Chan) (q : List Handle) (s : State) : s.Thinned (walk c q s) := by
  induction q generalizing s with
  | nil => exact .refl s
  | cons h q ih =>
    simp only [Machine.walk]
    split
    · exact ih s
    · split
      · exact (State.Thinned.failOversize h s).trans (ih _)
      · split
        · exact .engage c h s
        · exact ih s

theorem State.Thinned.consider (c : Chan) (s : State) : s.Thinned (consider c s) := by
  unfold Machine.consider
  split
  · exact State.Thinned.walk c _ s
  · exact .refl s

/-! ## Entries passed over (R141) -/

/-- A consideration of a channel's queue passes an entry over: it is covered, or it does not fit the window. -/
def State.PassedOver (s : State) (c : Chan) (h : Handle) : Prop :=
  s.covered c (s.entry h) = true ∨
    (s.chan c).settings.oversize (s.needOf c (s.entry h)) = false ∧ (s.window c).fits (s.needOf c (s.entry h)) = false

/-- What the tests of a consideration read, an entry apart, is the same in two states. -/
structure State.SameView (c : Chan) (s t : State) : Prop where
  stations : t.stations = s.stations
  classes : t.classes = s.classes
  time : t.time = s.time
  settings : (t.chan c).settings = (s.chan c).settings
  silence : (t.chan c).silenceRemaining = (s.chan c).silenceRemaining ∧ (t.chan c).silenceCutoff = (s.chan c).silenceCutoff

theorem State.SameView.of_sameLine (tables : s.SameTables t) (line : (s.chan c).SameLine (t.chan c)) : s.SameView c t where
  stations := tables.1
  classes := tables.2.2.1
  time := tables.2.2.2.1
  settings := line.settings
  silence := by rw [← line.rest]; exact ⟨rfl, rfl⟩

theorem State.SameView.of_turned (turned : s.Turned t) : s.SameView c t := .of_sameLine turned.sameTables (turned.chan c)

theorem State.SameView.of_moved (moved : s.Moved t) : s.SameView c t :=
  .of_sameLine (by rw [State.SameTables, ← moved.rest]; exact ⟨rfl, rfl, rfl, rfl, rfl, rfl, rfl⟩) (moved.chan c).sameLine

theorem State.PassedOver.of_view (view : s.SameView c t) (same : t.entry h = s.entry h) (passed : s.PassedOver c h) :
    t.PassedOver c h := by
  obtain ⟨stations, classes, time, settings, remaining, cutoff⟩ := view
  have need : t.needOf c (t.entry h) = s.needOf c (s.entry h) := by
    simp only [State.needOf, State.waitOf, State.classRow, same, settings, classes]
  have station : t.station = s.station := by
    funext i
    rw [State.station, State.station, stations]
  have covered : t.covered c (t.entry h) = s.covered c (s.entry h) := by
    simp only [State.covered, State.held, Channel.silences, same, station, remaining, cutoff]
  unfold State.PassedOver at passed ⊢
  rw [need, covered, State.window, settings, time]
  exact passed

/-- An engine that considers finds only entries that it passes over. -/
def State.Rested (s : State) (c : Chan) : Prop := (s.chan c).considers = true → ∀ h ∈ (s.chan c).queue, s.PassedOver c h

theorem State.Rested.of_view (rested : s.Rested c) (view : s.SameView c t) (thinned : s.Thinned t)
    (considers : (t.chan c).considers = true → (s.chan c).considers = true) : t.Rested c := fun runs h mem => by
  obtain ⟨mem', same⟩ := thinned (.queue c) h mem
  exact (rested (considers runs) h mem').of_view view same

/-! ## A consideration of a rested engine -/

theorem walk_of_passedOver {q : List Handle} (passed : ∀ h ∈ q, s.PassedOver c h) : walk c q s = s := by
  induction q with
  | nil => rfl
  | cons h q ih =>
    have rest := ih fun k mem => passed k (List.mem_cons_of_mem h mem)
    simp only [walk]
    split
    · exact rest
    · next uncovered =>
      obtain ⟨sized, late⟩ := (passed h List.mem_cons_self).resolve_left uncovered
      rw [if_neg (Bool.eq_false_iff.1 sized), if_neg (Bool.eq_false_iff.1 late), rest]

/-- A rested engine takes nothing and fails nothing (R142). -/
theorem State.Rested.consider (rested : s.Rested c) : consider c s = s := by
  unfold Machine.consider
  split
  · next runs => exact walk_of_passedOver (rested runs)
  · rfl

/-- A walk that takes no entry passes over each that it leaves in the queue. -/
theorem walk_rested (enabled : (s.chan c).enabled = true) (q : List Handle) :
    ((walk c q s).chan c).engine ≠ .idle ∨
      ∀ h ∈ q, h ∈ ((walk c q s).chan c).queue → (walk c q s).PassedOver c h := by
  induction q generalizing s with
  | nil => exact .inr nofun
  | cons h q ih =>
    have passing (passed : s.PassedOver c h) : ((walk c q s).chan c).engine ≠ .idle ∨
        ∀ k ∈ h :: q, k ∈ ((walk c q s).chan c).queue → (walk c q s).PassedOver c k :=
      (ih enabled).imp_right fun rest k mem held => by
        rcases List.mem_cons.1 mem with rfl | mem
        · exact passed.of_view (.of_moved (.walk c q s enabled)) (State.Thinned.walk c q s (.queue c) k held).2
        · exact rest k mem held
    simp only [walk]
    split
    · next covered => exact passing (.inl covered)
    · split
      · have failed := State.Moved.failOversize h s
        refine (ih ((failed.chan c).enabled.trans enabled)).imp_right fun rest k mem held => ?_
        rcases List.mem_cons.1 mem with rfl | mem
        · have gone := (State.Thinned.walk c q (failOversize k s) (.queue c) k held).1
          rw [failOversize, State.closeEntry, State.collection_updEntry, State.mem_leave] at gone
          exact absurd rfl gone.2
        · exact rest k mem held
      · next sized =>
        split
        · exact .inl (by rw [engage, State.chan_updChan_same]; exact nofun)
        · next late => exact passing (.inr ⟨Bool.eq_false_iff.2 sized, Bool.eq_false_iff.2 late⟩)

theorem Channel.considers_iff {x : Channel} : x.considers = true ↔
    x.engine = .idle ∧ x.enabled = true ∧ x.jammed = false ∧ x.abortPause = false := by
  simp [Channel.considers, and_assoc]

/-- An engine that has made its consideration is rested. -/
theorem State.rested_consider (c : Chan) (s : State) : (Machine.consider c s).Rested c := by
  by_cases runs : (s.chan c).considers = true
  · intro after h held
    have eq : Machine.consider c s = walk c (s.chan c).queue s := if_pos runs
    rw [eq] at after held ⊢
    have enabled := (Channel.considers_iff.1 runs).2.1
    refine ((walk_rested enabled _).resolve_left fun busy => busy (Channel.considers_iff.1 after).1) h ?_ held
    exact (State.Thinned.walk c _ s (.queue c) h held).1
  · rw [show Machine.consider c s = s from if_neg runs]
    exact fun runs' => absurd runs' runs

theorem State.Rested.consider_other (rested : s.Rested c) (other : c ≠ d) : (Machine.consider d s).Rested c := by
  have moved := State.Moved.consider d s
  refine rested.of_view (.of_moved moved) (.consider d s) fun runs => ?_
  obtain ⟨idle, enabled, clear, running⟩ := Channel.considers_iff.1 runs
  refine Channel.considers_iff.2 ⟨(consider_engine_other other s).symm.trans idle, ?_⟩
  rw [← moved.chan c]
  exact ⟨enabled, clear, running⟩

/-- After the considerations of an event every engine is rested. -/
theorem State.rested_considerAll (c : Chan) (s : State) : (considerAll s).Rested c :=
  forChans_at (P := fun _ => True) (Q := fun t => t.Rested c) c (fun _ _ _ _ => trivial)
    (fun t _ => State.rested_consider c t) (fun _ _ other rested => rested.consider_other (Ne.symm other)) trivial

/-! ## The end of a request (R149) -/

theorem State.Rested.updChan_other (rested : s.Rested c) {f : Channel → Channel} (other : c ≠ d)
    (queue : (f (s.chan d)).queue = (s.chan d).queue) : (s.updChan d f).Rested c := by
  have same := State.chan_updChan_other s (Ne.symm other) f
  refine rested.of_view (.of_sameLine (.refl s) (by rw [same]; exact .rfl' _)) (.updChan queue) fun runs => ?_
  rwa [same] at runs

theorem State.Rested.arbitrate (rested : s.Rested c) (d : Chan) : (Machine.arbitrate d s).Rested c := by
  have rest := fun x : Channel => x.arbitrated_rest
  refine rested.of_view (.of_turned (.arbitrate d s)) (.updChan (Channel.arbitrated_exchange _).1) fun runs => ?_
  by_cases here : d = c
  · subst here
    rw [Machine.arbitrate, State.chan_updChan_same] at runs
    rw [← rest (s.chan d)]
    exact runs
  · rwa [Machine.arbitrate, State.chan_updChan_other s here] at runs

/-- A request ends an abort pause that stood before it, and that channel's engine has then made its consideration. -/
theorem takeRequest_rested {effect : State → State} (paused : (s.chan c).abortPause = true)
    (after : ((effect s).chan c).abortPause = true ∨ (effect s).Rested c) : (takeRequest effect s).Rested c := by
  refine forChans_keeps (P := fun t => t.Rested c) (fun d t rested => rested.arbitrate d) ?_
  refine forChans_at (P := fun t => (t.chan c).abortPause = true ∨ t.Rested c) (Q := fun t => t.Rested c) c
    (fun d t other before => ?_) (fun t before => ?_) (fun d t other rested => ?_) after
  · refine before.imp (fun set => ?_) fun rested => ?_
    · rw [endPause_abortPause, set, decide_eq_false other]
      rfl
    · unfold endPause
      split
      · exact (rested.updChan_other (Ne.symm other) rfl).consider_other (Ne.symm other)
      · exact rested
  · unfold endPause
    split
    · exact State.rested_consider c _
    · next stands =>
      exact before.resolve_left fun set => stands (Bool.and_eq_true_iff.2 ⟨paused, set⟩)
  · unfold endPause
    split
    · exact (rested.updChan_other (Ne.symm other) rfl).consider_other (Ne.symm other)
    · exact rested

end

end Sys2Proof.Machine
end

/-! # The next request ends an abort pause (R149) -/

section
namespace Sys2Proof.Machine

/-- A request's effect leaves a channel's abort pause as it was, or has its engine make a consideration. -/
def State.Steady (s t : State) (c : Chan) : Prop := (t.chan c).abortPause = (s.chan c).abortPause ∨ t.Rested c

section
variable {s t : State} {c : Chan}

theorem State.steady_answer (s : State) (c : Chan) (r : Result) (d : List Byte) : s.Steady (s.answer r d) c := .inl rfl

theorem State.steady_considerAll (s t : State) (c : Chan) : s.Steady (considerAll t) c := .inr (State.rested_considerAll c t)

theorem State.Moved.abortPause (moved : s.Moved t) (c : Chan) : (t.chan c).abortPause = (s.chan c).abortPause := by
  rw [← moved.chan c]

theorem State.Rested.answer (rested : s.Rested c) (r : Result) (d : List Byte) : (s.answer r d).Rested c := rested

theorem steady_onChannel {b : Byte} {f : Chan → State → State} (each : ∀ d, s.Steady (f d s) c) : s.Steady (onChannel b f s) c := by
  unfold onChannel
  split
  · exact s.steady_answer ..
  · exact each _

theorem steady_onStation {b : Byte} {f : Index → Station → State → State} (each : ∀ i st, s.Steady (f i st s) c) :
    s.Steady (onStation b f s) c := by
  unfold onStation
  split
  · exact s.steady_answer ..
  · split
    · exact s.steady_answer ..
    · exact each _ _

theorem steady_onEntry {b : Byte} {f : Handle → State → State} (each : ∀ h, s.Steady (f h s) c) : s.Steady (onEntry b f s) c := by
  unfold onEntry
  split
  · exact s.steady_answer ..
  · exact each _

/-! ## Messages -/

theorem steady_file (p : Byte) (d : CallField) (body : List Byte) : s.Steady (file p d body s) c := by
  unfold file
  split
  · split
    · exact s.steady_answer ..
    · split
      · exact s.steady_answer ..
      · unfold fileMessage
        split
        · exact s.steady_answer ..
        · exact s.steady_considerAll ..
  · exact s.steady_answer ..

theorem steady_readText (o n : Nat) (h : Handle) : s.Steady (readText o n h s) c := by
  unfold readText
  split <;> exact s.steady_answer ..

theorem steady_find (o : CallField) (n : Half) : s.Steady (find o n s) c := by
  unfold find
  split
  · exact s.steady_answer ..
  · split
    · exact s.steady_answer ..
    · split <;> exact s.steady_answer ..

theorem steady_nextChanged : s.Steady (nextChanged s) c := by
  unfold nextChanged
  split
  · exact s.steady_answer ..
  · exact .inl rfl

theorem steady_listQueue (b : Byte) (n : Half) : s.Steady (listQueue b n s) c := by
  unfold listQueue
  split
  · exact s.steady_answer ..
  · split <;> exact s.steady_answer ..

theorem steady_amend (p : Byte) (d : CallField) (h : Handle) : s.Steady (amend p d h s) c := by
  unfold amend
  split
  · split
    · unfold amendEntry
      split
      · exact s.steady_considerAll ..
      · exact .inl rfl
    · exact s.steady_answer ..
  · exact s.steady_answer ..

theorem steady_cancel (h : Handle) : s.Steady (cancel h s) c := by
  unfold cancel
  split
  · exact .inl ((State.Moved.leave s h).abortPause c)
  · exact .inl rfl
  · unfold cancelEngaged
    split
    · exact s.steady_answer ..
    · split
      · exact s.steady_considerAll ..
      · exact .inl rfl
  · exact s.steady_answer ..

theorem steady_renew (h : Handle) : s.Steady (renew h s) c := by
  unfold renew
  split
  · exact s.steady_considerAll ..
  · exact s.steady_answer ..

theorem steady_retire (h : Handle) : s.Steady (retire h s) c := by
  unfold retire
  split
  · exact .inl (congrArg Channel.abortPause ((retireEntry_tested h s).chan c) : _)
  · exact s.steady_answer ..

/-! ## Stations -/

theorem steady_setStation (p : StationBlock) : s.Steady (setStation p s) c := by
  unfold setStation
  split
  · exact s.steady_answer ..
  · split
    · exact s.steady_answer ..
    · exact s.steady_considerAll ..

theorem steady_dropStation (i : Index) : s.Steady (dropStation i s) c := by
  unfold dropStation
  split
  · exact s.steady_answer ..
  · exact s.steady_considerAll ..

theorem steady_forceStation (m : Bool) (i : Index) (st : Station) : s.Steady (forceStation m i st s) c := by
  unfold forceStation
  split
  · exact s.steady_answer ..
  · exact s.steady_considerAll ..

/-! ## Channels -/

theorem writeSettings_abortPause (g : Settings) (d c : Chan) (s : State) :
    ((writeSettings g d s).chan c).abortPause = (s.chan c).abortPause := by
  rw [writeSettings, State.chan_updChan]
  split
  · next here => rw [here]
  · rfl

theorem steady_setChannel (p : SettingsBlock) (d : Chan) : s.Steady (setChannel p d s) c := by
  unfold setChannel
  split
  · exact s.steady_answer ..
  · split
    · exact s.steady_answer ..
    · exact .inl (writeSettings_abortPause _ d c s)

theorem steady_readChannel (d : Chan) : s.Steady (readChannel d s) c := by
  refine .inl ?_
  unfold readChannel drawBeacon
  split <;> rfl

theorem steady_enableChannel (d : Chan) : s.Steady (enableChannel d s) c := by
  unfold enableChannel
  split
  · exact s.steady_answer ..
  · split
    · exact s.steady_answer ..
    · exact .inr (State.Rested.answer (s := startChannel d s) (State.rested_considerAll c _) _ _)

theorem steady_disableChannel (d : Chan) : s.Steady (disableChannel d s) c := by
  unfold disableChannel
  split
  · exact s.steady_considerAll ..
  · exact s.steady_answer ..

theorem steady_abortChannel (d : Chan) : s.Steady (abortChannel d s) c := by
  unfold abortChannel
  split
  · exact s.steady_answer ..
  · exact s.steady_considerAll ..

/-! ## The part as a whole -/

theorem steady_setClass (p l w : Byte) : s.Steady (setClass p l w s) c := by
  unfold setClass
  split
  · exact s.steady_answer ..
  · exact s.steady_considerAll ..

theorem steady_setOwn (p : OwnBlock) : s.Steady (setOwn p s) c := by
  unfold setOwn
  split
  · exact s.steady_answer ..
  · split
    · exact s.steady_answer ..
    · exact s.steady_considerAll ..

theorem steady_readStatus : s.Steady (readStatus s) c := by
  refine .inl (forChans_keeps (P := fun t => (t.chan c).abortPause = (s.chan c).abortPause) (fun d t same => ?_) rfl)
  rw [State.chan_updChan]
  split
  · next here => rw [here]; exact same
  · exact same

theorem steady_setClock (n : Quad) : s.Steady (setClock n s) c := by
  unfold setClock
  split
  · exact s.steady_answer ..
  · exact s.steady_considerAll ..

theorem steady_clearChannels : s.Steady (clearChannels s) c := by
  unfold clearChannels
  split
  · exact s.steady_considerAll ..
  · exact s.steady_answer ..

theorem steady_clearAll : s.Steady (clearAll s) c := by
  refine .inr fun runs => ?_
  rw [clearAll_chan] at runs
  exact absurd (Channel.considers_iff.1 runs).2.1 Bool.false_ne_true

end

/-- Every request is taken as one, and its effect leaves each abort pause or has the engine consider (R149, R175). -/
theorem exec_request {i : Instr} (request : i.isRequest = true) : ∃ effect : State → State,
    (∀ s : State, exec i s = .next (takeRequest effect s)) ∧ ∀ (s : State) (c : Chan), s.Steady (effect s) c := by
  cases i <;> cases request
  case file p d body => exact ⟨_, fun _ => rfl, fun s c => steady_file p d body⟩
  case readEntry h => exact ⟨_, fun _ => rfl, fun s c => steady_onEntry fun h => s.steady_answer ..⟩
  case readText h o n => exact ⟨_, fun _ => rfl, fun s c => steady_onEntry fun h => steady_readText ..⟩
  case find o n => exact ⟨_, fun _ => rfl, fun s c => steady_find ..⟩
  case nextChanged => exact ⟨_, fun _ => rfl, fun s c => steady_nextChanged⟩
  case listQueue q n => exact ⟨_, fun _ => rfl, fun s c => steady_listQueue ..⟩
  case amend h p d => exact ⟨_, fun _ => rfl, fun s c => steady_onEntry fun h => steady_amend ..⟩
  case cancel h => exact ⟨_, fun _ => rfl, fun s c => steady_onEntry fun h => steady_cancel h⟩
  case renew h => exact ⟨_, fun _ => rfl, fun s c => steady_onEntry fun h => steady_renew h⟩
  case retire h => exact ⟨_, fun _ => rfl, fun s c => steady_onEntry fun h => steady_retire h⟩
  case setStation p => exact ⟨_, fun _ => rfl, fun s c => steady_setStation p⟩
  case readStation i => exact ⟨_, fun _ => rfl, fun s c => steady_onStation fun i st => s.steady_answer ..⟩
  case dropStation i => exact ⟨_, fun _ => rfl, fun s c => steady_onStation fun i st => steady_dropStation i⟩
  case forceStation i m =>
    refine ⟨_, fun _ => rfl, fun s c => ?_⟩
    split
    · exact s.steady_answer ..
    · exact steady_onStation fun i st => steady_forceStation ..
  case setChannel b p => exact ⟨_, fun _ => rfl, fun s c => steady_onChannel fun d => steady_setChannel p d⟩
  case readChannel b => exact ⟨_, fun _ => rfl, fun s c => steady_onChannel fun d => steady_readChannel d⟩
  case enableChannel b => exact ⟨_, fun _ => rfl, fun s c => steady_onChannel fun d => steady_enableChannel d⟩
  case disableChannel b => exact ⟨_, fun _ => rfl, fun s c => steady_onChannel fun d => steady_disableChannel d⟩
  case abortChannel b => exact ⟨_, fun _ => rfl, fun s c => steady_onChannel fun d => steady_abortChannel d⟩
  case setClass p l w => exact ⟨_, fun _ => rfl, fun s c => steady_setClass ..⟩
  case setOwn p => exact ⟨_, fun _ => rfl, fun s c => steady_setOwn p⟩
  case readStatus => exact ⟨_, fun _ => rfl, fun s c => steady_readStatus⟩
  case setClock n => exact ⟨_, fun _ => rfl, fun s c => steady_setClock n⟩
  case readClock => exact ⟨_, fun _ => rfl, fun s c => s.steady_answer ..⟩
  case clearChannels => exact ⟨_, fun _ => rfl, fun s c => steady_clearChannels⟩
  case clearAll => exact ⟨_, fun _ => rfl, fun s c => steady_clearAll⟩

/-- The next request ends a pause, and the engine has then made its consideration (R142, R149). -/
theorem request_ends_pause {i : Instr} {s t : State} {c : Chan} (request : i.isRequest = true) (run : exec i s = .next t)
    (paused : (s.chan c).abortPause = true) : (t.chan c).abortPause = false ∧ consider c t = t := by
  obtain ⟨effect, taken, steady⟩ := exec_request request
  obtain rfl := Host.Outcome.next.inj ((taken s).symm.trans run)
  refine ⟨?_, (takeRequest_rested paused ((steady s c).imp_left fun same => same.trans paused)).consider⟩
  rw [takeRequest, arbitrateAll_abortPause]
  exact forChans_endPause_abortPause _ _ c paused

end Sys2Proof.Machine
end

/-! # ABORT CHANNEL (R148, R149) -/

section
namespace Sys2Proof.Machine

/-! ## The gate after an exchange has ended (R100 to R103) -/

section
variable {s t : State} {c d : Chan} {h : Handle}

theorem gate_transmitter (c d : Chan) (s : State) : ((gate c s).chan d).transmitter = (s.chan d).transmitter := by
  rw [show ((gate c s).chan d).transmitter = ((s.updChan c Channel.gated).chan d).transmitter by
    rw [← (gate_moved c s).chan d]]
  rw [State.chan_updChan]
  split
  · next here =>
    subst here
    unfold Channel.gated
    split
    · rfl
    · split <;> rfl
  · rfl

theorem gate_abortPause (c d : Chan) (s : State) : ((gate c s).chan d).abortPause = (s.chan d).abortPause := by
  rw [(gate_moved c s).abortPause, State.chan_updChan]
  split
  · next here =>
    subst here
    unfold Channel.gated
    split
    · rfl
    · split <;> rfl
  · rfl

theorem updChan_engine {f : Channel → Channel} (engine : (f (s.chan c)).engine = (s.chan c).engine) (d : Chan) :
    ((s.updChan c f).chan d).engine = (s.chan d).engine := by
  rw [State.chan_updChan]
  split
  · next here => rw [← here, engine]
  · rfl

theorem gate_engine_of_not_staged (free : ∀ h w x, (s.chan d).engine ≠ .staged h w x) :
    ((gate c s).chan d).engine = (s.chan d).engine := by
  have began : ((s.updChan c Channel.beginBusy).chan d).engine = (s.chan d).engine := updChan_engine rfl d
  have ended : ((s.updChan c Channel.endBusy).chan d).engine = (s.chan d).engine := updChan_engine rfl d
  unfold gate
  simp only
  split
  · rfl
  · split
    · exact began
    · split
      · exact (sweep_engine_of_not_staged fun h w x staged => free h w x (ended ▸ staged)).trans ended
      · exact ended

/-- A sweep changes no more of an entry that no engine holds than its next hop (R72). -/
theorem sweepEntry_entry_of (p : Collection × Handle) (s : State) (h : Handle) :
    (sweepEntry p s).entry h = { s.entry h with nextHop := ((sweepEntry p s).entry h).nextHop } := by
  by_cases here : h = p.2
  · rw [here, sweepEntry_entry]
  · rw [(State.SameAt.sweepEntry here).1]

theorem sweepEntries_entry_of (s : State) (h : Handle) :
    (sweepEntries s).entry h = { s.entry h with nextHop := ((sweepEntries s).entry h).nextHop } := by
  have key : ∀ (L : List (Collection × Handle)) (t : State), let u := L.foldl (fun s p => sweepEntry p s) t
      u.entry h = { t.entry h with nextHop := (u.entry h).nextHop } := by
    intro L
    induction L with
    | nil => exact fun t => rfl
    | cons p L ih =>
      intro t u
      exact (ih (sweepEntry p t)).trans (congrArg (fun e : Entry => { e with nextHop := (u.entry h).nextHop })
        (sweepEntry_entry_of p t h))
  exact key _ s

theorem sweep_entry_of_free (free : ∀ c, (s.chan c).engine.entry? ≠ some h) :
    (sweep s).entry h = { s.entry h with nextHop := ((sweep s).entry h).nextHop } := by
  have free' : ∀ c, ((sweepEntries s).chan c).engine.entry? ≠ some h := fun c => by
    rw [sweepEntries_engine]; exact free c
  rw [(sweep_withdraws free').1.1]
  exact sweepEntries_entry_of s h

theorem gate_entry_of_free (free : ∀ c, (s.chan c).engine.entry? ≠ some h) :
    (gate c s).entry h = { s.entry h with nextHop := ((gate c s).entry h).nextHop } := by
  unfold gate
  simp only
  split
  · rfl
  · split
    · rfl
    · split
      · refine sweep_entry_of_free (s := s.updChan c Channel.endBusy) fun d => ?_
        rw [updChan_engine (f := Channel.endBusy) rfl d]
        exact free d
      · rfl

/-- The gate leaves an entry home that has left its exchange: where it ends JAMMED it brings a sweep. -/
theorem State.EndedHome.gate {e : Entry} {x : EntryState} {o : LastOutcome} (ended : s.EndedHome h e x o) :
    (gate c s).EndedHome h e x o := by
  have alike {f : Channel → Channel} (enabled : (f (s.chan c)).enabled = (s.chan c).enabled)
      (jammed : (f (s.chan c)).jammed = (s.chan c).jammed) : s.RoutesAlike (s.updChan c f) := by
    refine ⟨rfl, rfl, fun d => ?_⟩
    rw [State.chan_updChan]
    split
    · next here => subst here; exact ⟨enabled, jammed⟩
    · exact ⟨rfl, rfl⟩
  unfold Machine.gate
  simp only
  split
  · exact ended
  · split
    · exact ended.keeps (.updChan ⟨rfl, rfl⟩) (alike rfl rfl)
    · split
      · exact (ended.endedAs.keeps (.updChan (f := Channel.endBusy) ⟨rfl, rfl⟩)).sweep
      · next clear => exact ended.keeps (.updChan ⟨rfl, rfl⟩) (alike rfl (Bool.eq_false_iff.2 clear).symm)

theorem gate_rerouted (c : Chan) (s : State) : s.Rerouted (gate c s) :=
  (State.Rerouted.of_updChan s c Channel.gated (by
    unfold Channel.gated
    split
    · exact ⟨rfl, rfl⟩
    · split <;> exact ⟨rfl, rfl⟩)).trans (.of_turned (gate_turned c s))

end

/-! ## The exchange aborted (R148) -/

section
variable {s : State} {c d : Chan} {h : Handle}

/-- A channel's record once ABORT CHANNEL has cut the frame of its exchange. -/
def Channel.exchangeCut (x : Channel) : Channel :=
  match x.engine with
  | .sending _ _ => { x with transmitter := x.transmitter.cut x.settings }
  | _ => x

theorem Channel.exchangeCut_of_sending {x : Channel} {r : Option Verdict} (run : x.engine = .sending h r) :
    x.exchangeCut = { x with transmitter := x.transmitter.cut x.settings } := by
  unfold Channel.exchangeCut
  split
  · rfl
  · next free => exact absurd run (free h r)

theorem Channel.exchangeCut_of_not_sending {x : Channel} (free : ∀ h r, x.engine ≠ .sending h r) : x.exchangeCut = x := by
  unfold Channel.exchangeCut
  split
  · next h r run => exact absurd run (free h r)
  · rfl

theorem cutExchange_eq (c : Chan) (s : State) : cutExchange c s = s.updChan c Channel.exchangeCut := by
  cases run : (s.chan c).engine with
  | sending h r =>
    rw [cutExchange, run, State.updChan, Channel.exchangeCut_of_sending run]
    rfl
  | _ =>
    rw [cutExchange, run, State.updChan_self]
    exact Channel.exchangeCut_of_not_sending (by rw [run]; exact nofun)

theorem Channel.exchangeCut_exchange (x : Channel) : x.exchangeCut.queue = x.queue ∧ x.exchangeCut.engine = x.engine := by
  unfold Channel.exchangeCut
  split <;> exact ⟨rfl, rfl⟩

theorem cutExchange_engine (c d : Chan) (s : State) : ((cutExchange c s).chan d).engine = (s.chan d).engine := by
  rw [cutExchange_eq]
  exact updChan_engine (Channel.exchangeCut_exchange _).2 d

theorem cutExchange_entry (c : Chan) (s : State) (h : Handle) : (cutExchange c s).entry h = s.entry h := by
  rw [cutExchange_eq]
  rfl

theorem cutExchange_keeps (h : Handle) (c : Chan) (s : State) : s.KeepsAt h (cutExchange c s) := by
  rw [cutExchange_eq]
  exact .updChan (Channel.exchangeCut_exchange _)

theorem endExchange_engine_other (other : d ≠ c) (s : State) : ((endExchange c s).chan d).engine = (s.chan d).engine := by
  have idle : ((idleEngine c s).chan d).engine = (s.chan d).engine := by
    rw [idleEngine_chan, if_neg (Ne.symm other)]
  have recorded (h : Handle) (v : Verdict) : (((idleEngine c s).endRecorded h v).chan d).engine = (s.chan d).engine := by
    cases v with
    | full => exact (State.endReturned_engine ..).trans idle
    | _ => exact idle
  unfold endExchange
  split
  · rfl
  · exact withdraw_engine_other other
  · exact recorded _ _
  · exact (State.endReturned_engine ..).trans idle
  · exact (State.endReturned_engine ..).trans idle

/-- The part once the exchange of a channel has been ended by ABORT CHANNEL, before its gate. -/
def abortedAt (c : Chan) (s : State) : State := setPause c (endExchange c (cutExchange c s))

theorem abortExchange_eq (c : Chan) (s : State) : abortExchange c s = gate c (abortedAt c s) := rfl

theorem abortedAt_engine (c : Chan) (s : State) : ((abortedAt c s).chan c).engine = .idle :=
  (updChan_engine rfl c).trans (State.ListensBut.endExchange_idle c _)

theorem abortExchange_engine (c : Chan) (s : State) : ((abortExchange c s).chan c).engine = .idle := by
  rw [abortExchange_eq, gate_engine_of_not_staged, abortedAt_engine]
  intro h w x
  rw [abortedAt_engine]
  exact nofun

theorem abortExchange_paused (c : Chan) (s : State) : ((abortExchange c s).chan c).abortPause = true := by
  rw [abortExchange_eq, gate_abortPause, abortedAt, setPause, State.chan_updChan_same]

theorem abortExchange_transmitter (c : Chan) (s : State) :
    ((abortExchange c s).chan c).transmitter = (s.chan c).exchangeCut.transmitter := by
  rw [abortExchange_eq, gate_transmitter, abortedAt, setPause, State.chan_updChan_same]
  have moved := (State.Moved.endExchange c (cutExchange c s)).chan c
  rw [cutExchange_eq, State.chan_updChan_same] at moved
  rw [cutExchange_eq, ← moved]

theorem abortExchange_rerouted (c : Chan) (s : State) : s.Rerouted (abortExchange c s) := by
  have cut : s.Rerouted (cutExchange c s) := by
    rw [cutExchange_eq]
    exact .of_updChan s c _ (Channel.exchangeCut_exchange _)
  exact ((cut.trans (.of_turned (.endExchange c _))).trans (.of_updChan _ c _ ⟨rfl, rfl⟩)).trans (gate_rerouted c _)

/-- An exchange that ABORT CHANNEL ends leaves an entry that its engine held alone as R39 to R41 and R45 have it. -/
theorem abortExchange_leaves (held : s.HeldAlone c h) : (abortExchange c s).LeftExchange (s.chan c).engine h (s.entry h) := by
  refine State.leftExchange_of_ended fun x o ending => ?_
  have engine := cutExchange_engine c c s
  have ended := endExchange_ended (held.of_keeps (cutExchange_keeps h c s) engine)
    (x := x) (o := o) (by rw [engine, cutExchange_entry]; exact ending)
  rw [cutExchange_entry] at ended
  refine State.EndedHome.gate (ended.keeps (.updChan ⟨rfl, rfl⟩) ⟨rfl, rfl, fun d => ?_⟩)
  rw [setPause, State.chan_updChan]
  split
  · next here => subst here; exact ⟨rfl, rfl⟩
  · exact ⟨rfl, rfl⟩

/-- Where no other engine held the entry, none holds it once its exchange has ended. -/
theorem abortedAt_free (alone : ∀ d, d ≠ c → (s.chan d).engine.entry? ≠ some h) (d : Chan) :
    ((abortedAt c s).chan d).engine.entry? ≠ some h := by
  by_cases here : d = c
  · rw [here, abortedAt_engine]
    exact nofun
  · have other : ((abortedAt c s).chan d).engine = (s.chan d).engine := by
      rw [abortedAt, setPause, State.chan_updChan_other _ (Ne.symm here), ← cutExchange_engine c d s]
      exact endExchange_engine_other here _
    rw [other]
    exact alone d here

end

/-! ## The request (R148, R149) -/

section
variable {s t : State} {c d : Chan} {h : Handle}

/-- The part as ABORT CHANNEL has it before its considerations, the answer given. -/
def abortAnswered (c : Chan) (h : Handle) (s : State) : State :=
  (abortExchange c s).answer .done [be8 h.val, ((abortExchange c s).entry h).state.code]

theorem abortChannel_of_engaged (held : (s.chan c).engine.entry? = some h) :
    abortChannel c s = considerAll (abortAnswered c h s) := by
  rw [abortChannel, held]
  rfl

theorem abortChannel_of_idle (idle : (s.chan c).engine = .idle) : abortChannel c s = s.answer .wrongState [] := by
  rw [abortChannel, idle]
  rfl

/-- An IDLE engine whose pause stands stays so through the end of a request that did not find it (R149). -/
theorem takeRequest_keeps_pause {effect : State → State} (fresh : (s.chan c).abortPause = false)
    (after : ((effect s).chan c).engine = .idle ∧ ((effect s).chan c).abortPause = true) :
    ((takeRequest effect s).chan c).engine = .idle ∧ ((takeRequest effect s).chan c).abortPause = true := by
  rw [takeRequest, arbitrateAll_abortPause, arbitrateAll_chan, (Channel.arbitrated_exchange _).2]
  refine forChans_keeps (P := fun t => (t.chan c).engine = .idle ∧ (t.chan c).abortPause = true) (fun d t same => ?_) after
  unfold endPause
  split
  · next ends =>
    have other : c ≠ d := by
      rintro rfl
      exact Bool.false_ne_true (fresh.symm.trans (Bool.and_eq_true_iff.1 ends).1)
    rw [consider_engine_other other, (State.Moved.consider d _).abortPause, State.chan_updChan_other t (Ne.symm other)]
    exact same
  · exact same

theorem considerAll_keeps_pause (idle : (s.chan c).engine = .idle) (paused : (s.chan c).abortPause = true) :
    ((considerAll s).chan c).engine = .idle ∧ ((considerAll s).chan c).abortPause = true := by
  refine forChans_keeps (P := fun t => (t.chan c).engine = .idle ∧ (t.chan c).abortPause = true) (fun d t same => ?_)
    ⟨idle, paused⟩
  rw [(State.Moved.consider d t).abortPause]
  refine ⟨?_, same.2⟩
  by_cases here : c = d
  · subst here
    rw [show consider c t = t from if_neg fun runs => by simp [Channel.considers, same.2] at runs]
    exact same.1
  · rw [consider_engine_other here]
    exact same.1

/-- How an aborted exchange leaves an entry that no other engine held. -/
theorem abortExchange_entry (alone : ∀ d, d ≠ c → (s.chan d).engine.entry? ≠ some h) :
    (abortExchange c s).entry h = { (endExchange c (cutExchange c s)).entry h with
      nextHop := ((abortExchange c s).entry h).nextHop } := by
  rw [abortExchange_eq]
  exact gate_entry_of_free (abortedAt_free alone)

theorem aborted_staged {w x : Nat} (staged : (s.chan c).engine = .staged h w x)
    (alone : ∀ d, d ≠ c → (s.chan d).engine.entry? ≠ some h) :
    ((abortExchange c s).entry h).state = .ready ∧ ((abortExchange c s).entry h).lastOutcome = .withdrawn := by
  have staged' : ((cutExchange c s).chan c).engine = .staged h w x := (cutExchange_engine c c s).trans staged
  obtain ⟨ready, withdrawn, -⟩ := withdraw_spec staged'
  rw [abortExchange_entry alone, endExchange, staged']
  exact ⟨ready, withdrawn⟩

theorem aborted_on_air (runs : (s.chan c).engine = .sending h none ∨ ∃ n, (s.chan c).engine = .awaiting h n)
    (alone : ∀ d, d ≠ c → (s.chan d).engine.entry? ≠ some h) : ((abortExchange c s).entry h).lastOutcome = .aborted ∧
      ((abortExchange c s).entry h).state = if (s.entry h).cancelPending = some true then .cancelled else .ready := by
  have ended : endExchange c (cutExchange c s) = (idleEngine c (cutExchange c s)).endReturned h .aborted := by
    rcases runs with run | ⟨n, run⟩ <;> rw [endExchange, cutExchange_engine, run]
  obtain ⟨state, outcome⟩ := (idleEngine c (cutExchange c s)).endReturned_entry h .aborted
  rw [abortExchange_entry alone, ended]
  refine ⟨outcome, state.trans ?_⟩
  rw [show (idleEngine c (cutExchange c s)).entry h = s.entry h from cutExchange_entry c s h]

end

/-- Settles O21: the abort is an exchange ended under a pause; the pause stands until the next request, which has the engine
consider. -/
theorem abortEndsExchange : Obligations.AbortEndsExchange := by
  unfold Obligations.AbortEndsExchange
  refine fun s b => ⟨fun c h channel held fresh alone => ?_, fun c h channel held paused => ?_, fun c channel idle => ?_,
    fun outside => exec_answers rfl (onChannel_outside _ outside), fun i t c request run paused =>
      request_ends_pause request run paused⟩
  · have taken := (onChannel_named abortChannel channel).trans (abortChannel_of_engaged (s := s) held)
    have turned : (abortAnswered c h s).Turned (takeRequest (onChannel b abortChannel) s) :=
      (State.Turned.considerAll _).trans (taken ▸ takeRequest_turned _ s)
    have rerouted := abortExchange_rerouted c s
    have stands := takeRequest_keeps_pause (effect := onChannel b abortChannel) fresh
      (by rw [taken]; exact considerAll_keeps_pause (abortExchange_engine c s) (abortExchange_paused c s))
    refine ⟨abortAnswered c h s, _, rfl, turned, rfl, stands.1, stands.2, fun ⟨w, x, staged⟩ => aborted_staged staged alone,
      fun runs => aborted_on_air runs alone, abortExchange_leaves, fun noPause => ?_, fun r run => ?_, fun free => ?_,
      fun k other idle => ?_, rerouted.tables.trans turned.sameTables⟩
    · exact (takeRequest_of_no_pause noPause).trans (congrArg arbitrateAll taken)
    · exact (abortExchange_transmitter c s).trans (by rw [Channel.exchangeCut_of_sending run])
    · refine (abortExchange_transmitter c s).trans ?_
      cases run : (s.chan c).engine with
      | sending k r =>
        rw [run] at held
        exact absurd run (Option.some.inj held ▸ free r)
      | _ => rw [Channel.exchangeCut_of_not_sending (by rw [run]; exact nofun)]
    · obtain ⟨same, idle'⟩ := rerouted.others k idle
      exact (turned.others k idle').1.trans same
  · have taken := (onChannel_named abortChannel channel).trans (abortChannel_of_engaged (s := s) held.1)
    have turned : (abortAnswered c h s).Turned (takeRequest (onChannel b abortChannel) s) :=
      (State.Turned.considerAll _).trans (taken ▸ takeRequest_turned _ s)
    exact ⟨abortAnswered c h s, _, rfl, turned, rfl, abortExchange_engine c s, abortExchange_leaves held,
      (request_ends_pause (i := .abortChannel b) rfl rfl paused).1,
      (abortExchange_rerouted c s).tables.trans turned.sameTables⟩
  · exact exec_answers rfl ((onChannel_named _ channel).trans (abortChannel_of_idle idle))

end Sys2Proof.Machine
end

/-! # DISABLE CHANNEL (R106, R151) -/

section
namespace Sys2Proof.Machine

/-! ## An entry that waits in no collection, through routing (R72, R142) -/

namespace State.KeepsAt

section
variable {s t : State} {c : Chan} {h k : Handle}

theorem updEntry (other : h ≠ k) (f : Entry → Entry) : s.KeepsAt h (s.updEntry k f) :=
  ⟨.updEntry other f, fun _ held => held⟩

theorem closeEntry (other : h ≠ k) (x : EntryState) (o : LastOutcome) : s.KeepsAt h (s.closeEntry k x o) :=
  updEntry other _

theorem leave (other : h ≠ k) : s.KeepsAt h (s.leave k) :=
  ⟨.leave other, fun c held => s.leave_engine k c ▸ held⟩

theorem engage (other : h ≠ k) (c : Chan) (s : State) : s.KeepsAt h (engage c k s) := by
  refine ((leave other).trans (updEntry other
    fun e => { e with state := .engaged, lastHop := s.hopCall e.nextHop, cancelPending := some false })).trans ⟨⟨rfl, fun q => ?_⟩, fun d held => ?_⟩
  · cases q with
    | unrouted => exact .rfl
    | queue d =>
      rw [State.collection, Machine.engage, State.chan_updChan]
      split
      · next here => subst here; exact .rfl
      · exact .rfl
  · by_cases here : c = d
    · subst here
      rw [Machine.engage, State.chan_updChan_same] at held
      exact absurd (Option.some.inj held).symm other
    · rwa [Machine.engage, State.chan_updChan_other _ here] at held

theorem failOversize (other : h ≠ k) (s : State) : s.KeepsAt h (failOversize k s) :=
  (leave other).trans (closeEntry other _ _)

theorem walk {q : List Handle} (apart : h ∉ q) : s.KeepsAt h (walk c q s) := by
  induction q generalizing s with
  | nil => exact .refl h s
  | cons k q ih =>
    have other : h ≠ k := fun same => apart (same ▸ List.mem_cons_self)
    have rest {t : State} : t.KeepsAt h (Machine.walk c q t) := ih fun mem => apart (List.mem_cons_of_mem k mem)
    simp only [Machine.walk]
    split
    · exact rest
    · split
      · exact (failOversize other s).trans rest
      · split
        · exact engage other c s
        · exact rest

theorem consider (apart : ∀ q, h ∉ s.collection q) (c : Chan) : s.KeepsAt h (consider c s) := by
  unfold Machine.consider
  split
  · exact walk (apart (.queue c))
  · exact .refl h s

/-- What stays apart from the collections step by step stays as it is through four turns. -/
theorem forChans {f : Chan → State → State}
    (each : ∀ c t, s.KeepsAt h t → t.KeepsAt h (f c t)) : s.KeepsAt h (forChans f s) :=
  forChans_keeps (P := fun t => s.KeepsAt h t) (fun c t keeps => keeps.trans (each c t keeps)) (.refl h s)

theorem apart (keeps : s.KeepsAt h t) (apart : ∀ q, h ∉ s.collection q) (q : Collection) : h ∉ t.collection q :=
  fun mem => apart q ((keeps.same.2 q).1 mem)

theorem conclude (apart : ∀ q, h ∉ s.collection q) : s.KeepsAt h (conclude s) :=
  (State.KeepsAt.forChans (f := Machine.consider) fun c _ keeps => consider (keeps.apart apart) c).trans
    (State.KeepsAt.forChans (f := Machine.arbitrate) fun _ _ _ => .updChan (Channel.arbitrated_exchange _))

theorem withdrawIf (free : ∀ w x, (s.chan c).engine ≠ .staged h w x) (test : State → Entry → Bool) :
    s.KeepsAt h (withdrawIf test c s) := by
  unfold Machine.withdrawIf
  split
  · next k w x staged =>
    split
    · refine .withdraw fun held => ?_
      rw [staged] at held
      exact free w x (Option.some.inj held ▸ staged)
    · exact .refl h s
  · exact .refl h s

/-- A sweep leaves an entry that waits in no collection and is not STAGED. -/
theorem sweep (apart : ∀ q, h ∉ s.collection q) (free : ∀ c w x, (s.chan c).engine ≠ .staged h w x) :
    s.KeepsAt h (sweep s) := by
  have entries : s.KeepsAt h (sweepEntries s) := ⟨.sweepEntries apart, fun c held => sweepEntries_engine s c ▸ held⟩
  refine entries.trans (forChans_keeps (P := fun t => (sweepEntries s).KeepsAt h t ∧
    ∀ d, (t.chan d).engine = (s.chan d).engine ∨ (t.chan d).engine = .idle) (fun c t before => ?_)
    ⟨.refl h _, fun d => .inl (sweepEntries_engine s d)⟩).1
  obtain ⟨keeps, engine⟩ := before
  refine ⟨keeps.trans (.withdrawIf (fun w x staged => ?_) _), fun d => ?_⟩
  · rcases engine c with same | idle
    · exact free c w x (same ▸ staged)
    · rw [idle] at staged; cases staged
  · rcases (State.Withdrawn.withdrawIf (strayed c) c t).engine d with same | idle
    · rw [same]; exact engine d
    · exact .inr idle

end

end State.KeepsAt

section
variable {s t : State} {c d : Chan} {h : Handle}

theorem takeJam_of_not_reached (waits : (s.chan c).jamReached = false) : takeJam c s = s :=
  if_neg (by rw [waits]; exact Bool.false_ne_true)

/-- A JAMMED that is taken leaves an exchange that is not STAGED (R103). -/
theorem takeJam_heldAlone (held : s.HeldAlone c h)
    (stays : (s.chan c).jamReached = false ∨ ∀ w x, (s.chan c).engine ≠ .staged h w x) :
    s.KeepsAt h (takeJam c s) ∧ ((takeJam c s).chan c).engine = (s.chan c).engine := by
  cases reached : (s.chan c).jamReached with
  | false => rw [takeJam_of_not_reached reached]; exact ⟨.refl h s, rfl⟩
  | true =>
    have running := stays.resolve_left fun waits => Bool.false_ne_true (waits.symm.trans reached)
    obtain ⟨engine, apart, alone⟩ := held
    have unstaged : ∀ k w x, (s.chan c).engine ≠ .staged k w x := fun k w x staged => by
      rw [staged] at engine
      exact running w x (Option.some.inj engine ▸ staged)
    have jam : jammedOf c s = s.updChan c Channel.jam := withdraw_of_not_staged fun k w x => by
      rw [updChan_engine (f := Channel.jam) rfl c]; exact unstaged k w x
    have jamEngine (d : Chan) : ((jammedOf c s).chan d).engine = (s.chan d).engine := by
      rw [jam]; exact updChan_engine rfl d
    have keeps : s.KeepsAt h (jammedOf c s) := jam ▸ .updChan ⟨rfl, rfl⟩
    have swept : (jammedOf c s).KeepsAt h (sweep (jammedOf c s)) := .sweep (keeps.apart apart) fun d w x staged => by
      rw [jamEngine] at staged
      by_cases here : d = c
      · exact running w x (here ▸ staged)
      · exact alone d here (by rw [staged]; rfl)
    have kept : ((sweep (jammedOf c s)).chan c).engine = (s.chan c).engine := by
      rw [sweep_engine_of_not_staged, jamEngine]
      intro k w x
      rw [jamEngine]
      exact unstaged k w x
    rw [takeJam_of_reached reached]
    refine ⟨(keeps.trans swept).trans (.conclude ((keeps.trans swept).apart apart)), ?_⟩
    rw [conclude_engine_of_ne_idle, kept]
    rw [kept]
    intro idle
    rw [idle] at engine
    cases engine

/-! ## What a disable leaves of another channel (R107) -/

/-- Two records have the same configuration, receive record and keying. -/
def Channel.SameAside (x y : Channel) : Prop := y.enabled = x.enabled ∧ y.settings = x.settings ∧ y.receiver = x.receiver ∧
  y.transmitter.keyed = x.transmitter.keyed

theorem Channel.SameAside.trans {x y z : Channel} (a : x.SameAside y) (b : y.SameAside z) : x.SameAside z := by
  obtain ⟨a1, a2, a3, a4⟩ := a
  obtain ⟨b1, b2, b3, b4⟩ := b
  exact ⟨b1.trans a1, b2.trans a2, b3.trans a3, b4.trans a4⟩

theorem Channel.SameLine.sameAside {x y : Channel} (h : x.SameLine y) : x.SameAside y :=
  ⟨h.enabled, h.settings, h.receiver, h.keyed⟩

theorem Channel.SameButOwn.sameAside {x y : Channel} (h : x.SameButOwn y) : x.SameAside y := by
  rw [← h]
  exact ⟨rfl, rfl, rfl, rfl⟩

theorem State.sameAside_updChan (other : d ≠ c) (f : Channel → Channel) :
    (s.chan d).SameAside ((s.updChan c f).chan d) := by
  rw [State.chan_updChan_other s (Ne.symm other)]
  exact (Channel.SameLine.rfl' _).sameAside

theorem damage_sameAside (other : d ≠ c) (s : State) : (s.chan d).SameAside ((damage c s).chan d) :=
  (State.sameAside_updChan other _).trans (damage_chan c d s).sameAside

theorem takeJam_sameAside (other : d ≠ c) (s : State) : (s.chan d).SameAside ((takeJam c s).chan d) :=
  (State.sameAside_updChan other _).trans ((takeJam_turned c s).chan d).sameAside

/-! ## The channel stopped -/

/-- The part once the exchange, the transmitter and the frame in reception of a channel that is disabled have ended. -/
def emptiedAt (c : Chan) (s : State) : State := damage c (cutTransmitter c (endExchange c (markDisabled c s)))

theorem Channel.SameButOwn.eq {x y : Channel} (h : x.SameButOwn y) :
    y = { x with control := y.control, owed := y.owed, rehold := y.rehold } := by
  rw [← h]

theorem Channel.SameButExchange.eq {x y : Channel} (h : x.SameButExchange y) :
    y = { x with queue := y.queue, engine := y.engine } := by
  rw [← h]

theorem emptiedAt_chan (c : Chan) (s : State) : ∃ q k o r, (emptiedAt c s).chan c = { s.chan c with
    enabled := false, transmitter := (s.chan c).transmitter.cut (s.chan c).settings, receiver := .hunt, engine := .idle,
    queue := q, control := k, owed := o, rehold := r } := by
  have moved := ((State.Moved.endExchange c (markDisabled c s)).chan c).eq
  rw [State.ListensBut.endExchange_idle, markDisabled, State.chan_updChan_same] at moved
  have own := (damage_chan c c (cutTransmitter c (endExchange c (markDisabled c s)))).eq
  rw [setReceiver, State.chan_updChan_same, cutTransmitter, State.chan_updChan_same, markDisabled, moved] at own
  exact ⟨_, _, _, _, own⟩

/-- A channel's record as DISABLE CHANNEL leaves it, its queue apart (R90, R106, R107, R151). -/
def Channel.disabledRecord (x : Channel) (q : List Handle) : Channel :=
  { x with
    enabled := false, sampler := .stopped, busy := false, clearTime := 0, busyLength := 0, jammed := false
    jamChanged := x.jamChanged || x.jammed, receiver := .hunt, control := [], owed := none, silenceRemaining := 0
    silenceCutoff := 0, silenceEndDue := false, rehold := none, transmitter := x.transmitter.cut x.settings, beacon := .off
    engine := .idle, abortPause := false, queue := q, windowDue := none }

/-- The part as DISABLE CHANNEL has it before its sweep. -/
def stoppedAt (c : Chan) (s : State) : State := (emptiedAt c s).updChan c Channel.stoppedRecord

theorem stoppedAt_chan (c : Chan) (s : State) : ∃ q, (stoppedAt c s).chan c = (s.chan c).disabledRecord q := by
  obtain ⟨q, k, o, r, emptied⟩ := emptiedAt_chan c s
  refine ⟨q, ?_⟩
  rw [stoppedAt, State.chan_updChan_same, emptied]
  rfl

theorem stoppedAt_sameAside (other : d ≠ c) (s : State) : (s.chan d).SameAside ((stoppedAt c s).chan d) := by
  have disabled := State.sameAside_updChan (s := s) other fun x => { x with enabled := false }
  have ended := ((State.Moved.endExchange c (markDisabled c s)).chan d).sameLine.sameAside
  have cut := State.sameAside_updChan (s := endExchange c (markDisabled c s)) other
    fun x => { x with transmitter := x.transmitter.cut x.settings }
  exact (((disabled.trans ended).trans cut).trans (damage_sameAside other _)).trans (State.sameAside_updChan other _)

theorem endExchange_receiver (c d : Chan) (s : State) : ((endExchange c s).chan d).receiver = (s.chan d).receiver :=
  ((State.Moved.endExchange c s).chan d).sameLine.receiver

theorem State.EventOn.stoppedAt (c : Chan) (s : State) :
    s.EventOn c (s.chan c).receiver.reservation (stoppedAt c s) := by
  have cut : s.EventOn c none (cutTransmitter c (endExchange c (markDisabled c s))) :=
    ((State.EventOn.of_updChan s c _ ⟨rfl, rfl⟩).turned (.endExchange c _)).andThen (.of_updChan _ c _ ⟨rfl, rfl⟩)
  have receiver : ((cutTransmitter c (endExchange c (markDisabled c s))).chan c).receiver = (s.chan c).receiver := by
    rw [cutTransmitter, State.chan_updChan_same]
    refine (endExchange_receiver c c _).trans ?_
    rw [markDisabled, State.chan_updChan_same]
  have damaged := State.EventOn.damage c (cutTransmitter c (endExchange c (markDisabled c s)))
  rw [receiver] at damaged
  obtain ⟨q, k, o, r, emptied⟩ := emptiedAt_chan c s
  refine (cut.before damaged).andThen (.of_updChan _ c _ ?_)
  exact ⟨rfl, rfl⟩

/-- The exchange that DISABLE CHANNEL ends leaves an entry that its engine held alone as R39 to R41 and R45 have it. -/
theorem stoppedAt_ended (held : s.HeldAlone c h) (kept : (s.chan c).receiver.reservation ≠ some h) {x : EntryState}
    {o : LastOutcome} (ending : (s.chan c).engine.ending (s.entry h).cancelled = some (x, o)) :
    (stoppedAt c s).EndedAs h (s.entry h) x o := by
  have disabled : s.KeepsAt h (markDisabled c s) := .updChan ⟨rfl, rfl⟩
  have engine : ((markDisabled c s).chan c).engine = (s.chan c).engine := updChan_engine rfl c
  have ended := (endExchange_ended (held.of_keeps disabled engine) (by rw [engine]; exact ending)).endedAs
  have cut := ended.keeps (t := cutTransmitter c (endExchange c (markDisabled c s))) (.updChan ⟨rfl, rfl⟩)
  have receiver : ((cutTransmitter c (endExchange c (markDisabled c s))).chan c).receiver = (s.chan c).receiver := by
    rw [cutTransmitter, State.chan_updChan_same]
    refine (endExchange_receiver c c _).trans ?_
    rw [markDisabled, State.chan_updChan_same]
  exact (cut.keeps (.damage (receiver ▸ kept))).keeps (.updChan ⟨rfl, rfl⟩)

end

/-! ## The request (R106) -/

section
variable {s t : State} {c d : Chan} {h : Handle}

/-- The part as DISABLE CHANNEL has it before its considerations, the answer given. -/
def disabledAnswered (c : Chan) (s : State) : State := (sweep (stoppedAt c (takeJam c s))).answer .done []

theorem disableChannel_of_enabled (enabled : (s.chan c).enabled = true) :
    disableChannel c s = considerAll (disabledAnswered c s) := if_pos enabled

theorem Transmitter.cut_of_notKeyed {a : Transmitter} (off : a.keyed = false) (g : Settings) : a.cut g = .idle := by
  cases a with
  | idle | clearing _ _ => rfl
  | keying _ _ | sending _ _ _ | brk _ _ _ _ => cases off

theorem Transmitter.SameOnAir.cut {a b : Transmitter} (h : a.SameOnAir b) (g : Settings) : b.cut g = a.cut g := by
  rcases h with rfl | ⟨before, after⟩
  · rfl
  · rw [Transmitter.cut_of_notKeyed before, Transmitter.cut_of_notKeyed after]

theorem Channel.SameLine.eq {x y : Channel} (h : x.SameLine y) :
    y = { x with queue := y.queue, engine := y.engine, abortPause := y.abortPause, transmitter := y.transmitter } := by
  rw [← h.rest]

theorem Channel.disabledRecord_quiet {x y : Channel} {q : List Handle} (line : (x.disabledRecord q).SameLine y)
    (idle : y.engine = .idle) (cut : y.transmitter = x.transmitter.cut x.settings) : y.Quiet := by
  have running : y.abortPause = false := Bool.eq_false_iff.2 fun set => Bool.false_ne_true (line.pause set)
  have breaks : y.transmitter.keyed = true → y.transmitter.breakRemaining.isSome = true := by
    rw [cut]
    rcases Transmitter.cut_cases x.settings x.transmitter with none | ⟨u, r, k, b, brk⟩
    · rw [none]; exact nofun
    · rw [brk]; exact fun _ => rfl
  intro _
  rw [line.eq]
  exact ⟨rfl, rfl, rfl, rfl, rfl, rfl, rfl, rfl, rfl, rfl, rfl, rfl, idle, running, breaks⟩

/-- A transmitter that has been cut, on a disabled channel whose arbiter has acted. -/
theorem Channel.cut_stands {x y : Channel} {g : Settings} {a : Transmitter} (line : x.SameLine y) (acted : y.arbitrated = y)
    (disabled : y.enabled = false) (cut : x.transmitter = a.cut g) : y.transmitter = a.cut g := by
  rcases line.onAir with same | ⟨before, after⟩
  · exact same.symm.trans cut
  · rcases Transmitter.cut_cases g a with idle | ⟨u, r, k, b, brk⟩
    · rw [idle, ← acted, Channel.arbitrated_of_notKeyed after, Channel.granted, disabled]
    · rw [cut, brk] at before
      cases before

theorem State.EndedHome.answer {e : Entry} {x : EntryState} {o : LastOutcome} (ended : s.EndedHome h e x o) (r : Result)
    (b : List Byte) : (s.answer r b).EndedHome h e x o :=
  ended.keeps ⟨⟨rfl, fun _ => .rfl⟩, fun _ held => held⟩ ⟨rfl, rfl, fun _ => ⟨rfl, rfl⟩⟩

/-- The exchange that DISABLE CHANNEL ends leaves its entry as its phase, a recorded verdict and a cancel pending have it. -/
theorem disabledAnswered_ended (held : s.HeldAlone c h) (kept : (s.chan c).receiver.reservation ≠ some h)
    (stays : (s.chan c).jamReached = false ∨ ∀ w x, (s.chan c).engine ≠ .staged h w x) {x : EntryState} {o : LastOutcome}
    (ending : (s.chan c).engine.ending (s.entry h).cancelled = some (x, o)) :
    (disabledAnswered c s).EndedHome h (s.entry h) x o := by
  obtain ⟨keeps, engine⟩ := takeJam_heldAlone held stays
  have entry := keeps.same.1
  have ended := (stoppedAt_ended (held.of_keeps keeps engine) (takeJam_receiver c s ▸ kept)
    (by rw [engine, entry]; exact ending)).sweep
  rw [entry] at ended
  exact ended.answer .done []

/-- What DISABLE CHANNEL does to the rest of the part is what the frame in reception brings with it (R106, R123). -/
theorem State.EventOn.disabled (c : Chan) (s : State) :
    s.EventOn c (s.chan c).receiver.reservation (sweep (Machine.stoppedAt c (Machine.takeJam c s))) := by
  have stopped := State.EventOn.stoppedAt c (Machine.takeJam c s)
  rw [takeJam_receiver] at stopped
  exact ((State.EventOn.takeJam c s).before stopped).turned (.sweep _)

/-- What the end of a request touches of an event's outcome, its answer aside. -/
theorem State.EventOn.answered {u : State} {freed : Option Handle} {r : Result} {b : List Byte} (event : s.EventOn c freed u)
    (turned : (u.answer r b).Turned t) : s.EventOn c freed (t.answer u.response.result u.response.data) :=
  event.turned (turned.answer u.response.result u.response.data)

theorem Channel.jamTaken_settings (x : Channel) : x.jamTaken.settings = x.settings :=
  (congrArg Channel.settings x.jamTaken_rest : _)

theorem Channel.jamTaken_transmitter (x : Channel) : x.jamTaken.transmitter = x.transmitter :=
  (congrArg Channel.transmitter x.jamTaken_rest : _)

theorem takeJam_transmitter_cut (c : Chan) (s : State) (g : Settings) :
    ((takeJam c s).chan c).transmitter.cut g = (s.chan c).transmitter.cut g := by
  rw [(takeJam_chan c s).onAir.cut, Channel.jamTaken_transmitter]

theorem disabledAnswered_chan (c : Chan) (s : State) : ∃ q,
    (((takeJam c s).chan c).disabledRecord q).SameLine ((disabledAnswered c s).chan c) ∧
      ((disabledAnswered c s).chan c).engine = .idle := by
  obtain ⟨q, stopped⟩ := stoppedAt_chan c (takeJam c s)
  have swept := State.Turned.sweep (stoppedAt c (takeJam c s))
  have line := swept.chan c
  have idle := swept.idle c
  rw [stopped] at line idle
  rw [disabledAnswered, State.answer_chan]
  exact ⟨q, line, idle rfl rfl⟩

theorem disabledAnswered_sameAside (other : d ≠ c) (s : State) :
    (s.chan d).SameAside ((disabledAnswered c s).chan d) := by
  rw [disabledAnswered, State.answer_chan]
  exact ((takeJam_sameAside other s).trans (stoppedAt_sameAside other _)).trans
    ((State.Turned.sweep (stoppedAt c (takeJam c s))).chan d).sameAside

/-- Settles O19: the disable is JAMMED taken, the channel stopped, and a sweep. -/
theorem disableStopsChannel : Obligations.DisableStopsChannel := by
  unfold Obligations.DisableStopsChannel
  intro s b c channel enabled
  have taken := (onChannel_named disableChannel channel).trans (disableChannel_of_enabled (s := s) enabled)
  obtain ⟨t, run⟩ : ∃ t, takeRequest (onChannel b disableChannel) s = t := ⟨_, rfl⟩
  have turned : (disabledAnswered c s).Turned t :=
    (State.Turned.considerAll _).trans (taken ▸ run ▸ takeRequest_turned _ s)
  obtain ⟨_, _, event⟩ : ∃ r b, s.EventOn c (s.chan c).receiver.reservation (t.answer r b) :=
    ⟨_, _, (State.EventOn.disabled c s).answered turned⟩
  obtain ⟨q, line, engine⟩ := disabledAnswered_chan c s
  have line := line.trans (turned.chan c)
  have off : (t.chan c).enabled = false := line.enabled
  have acted : (t.chan c).arbitrated = t.chan c := run ▸ takeRequest_arbitrated _ s c
  have jam := takeJam_chan c s
  have settings : ((takeJam c s).chan c).settings = (s.chan c).settings := jam.settings.trans (s.chan c).jamTaken_settings
  have transmitter : (t.chan c).transmitter = ((takeJam c s).chan c).transmitter.cut ((takeJam c s).chan c).settings :=
    Channel.cut_stands line acted off rfl
  have idle : (t.chan c).engine = .idle := turned.idle c ((turned.chan c).enabled.symm.trans off) engine
  refine ⟨disabledAnswered c s, t, congrArg Host.Outcome.next run, turned, turned.response, fun noPause => ?noPause, off,
    Channel.disabledRecord_quiet line idle transmitter, line.settings.trans settings, ?cut, ?jamChanged,
    fun d other => ?aside, fun h held kept stays => ?left, fun h n awaiting cancel held kept => ?cancelled,
    fun h reserved => ?released, event.counts, fun k kept => ⟨event.entry k kept, fun idle => ?_⟩, event.tables⟩
  case noPause => rw [← run, takeRequest_of_no_pause noPause, taken]; rfl
  case cut => rw [transmitter, settings, takeJam_transmitter_cut]
  case jamChanged =>
    have record : (t.chan c).jamChanged = (((takeJam c s).chan c).jamChanged || ((takeJam c s).chan c).jammed) :=
      line.jamChanged
    rw [record, jam.jamChanged, jam.jammed, Channel.jamTaken_jamChanged, Channel.jamTaken_jammed]
    cases (s.chan c).jamChanged <;> cases (s.chan c).jammed <;> cases (s.chan c).jamReached <;> rfl
  case aside =>
    obtain ⟨enabled, settings, receiver, keyed⟩ := (disabledAnswered_sameAside other s).trans (turned.chan d).sameAside
    exact ⟨enabled, settings, receiver, keyed, fun none => event.lines none d other⟩
  case left => exact State.leftExchange_of_ended fun x o ending => disabledAnswered_ended held kept stays ending
  case cancelled =>
    have unstaged (w x : Nat) : (s.chan c).engine ≠ .staged h w x := by rw [awaiting]; exact nofun
    have ended := disabledAnswered_ended held kept (.inr unstaged) (x := .cancelled) (o := .aborted)
      (by rw [awaiting, Entry.cancelled_iff.2 cancel]; rfl)
    obtain ⟨closed, idle⟩ := ended.1 nofun
    have entry := (turned.others h idle).1.trans closed
    rw [entry]
    exact ⟨rfl, rfl, rfl⟩
  case released =>
    obtain ⟨entries, blocks, free⟩ := event.released h reserved
    exact ⟨entries, blocks, fun idle => (free idle).1⟩
  · exact (event.others k idle kept).1

end

end Sys2Proof.Machine
end

/-! # The frame receiver, character by character (R117, R118, R122, R124) -/

section
namespace Sys2Proof.Machine

section
variable {s : State} {c : Chan} {b : Byte}

theorem kindOf_eq_some_iff {k : FrameKind} : kindOf b = some k ↔
    (b, k) ∈ [((0x54 : Byte), FrameKind.traffic), (0x41, .receipt), (0x48, .hold), (0x42, .beacon)] := by
  simp only [List.mem_cons, List.not_mem_nil, or_false, Prod.mk.injEq]
  unfold kindOf
  split
  · next => cases k <;> decide
  · next => cases k <;> decide
  · next => cases k <;> decide
  · next => cases k <;> decide
  · next traffic receipt hold beacon =>
    constructor
    · exact nofun
    · rintro (⟨rfl, -⟩ | ⟨rfl, -⟩ | ⟨rfl, -⟩ | ⟨rfl, -⟩)
      · exact absurd rfl traffic
      · exact absurd rfl receipt
      · exact absurd rfl hold
      · exact absurd rfl beacon

theorem kindOf_eq_none (traffic : b ≠ 0x54) (receipt : b ≠ 0x41) (hold : b ≠ 0x48) (beacon : b ≠ 0x42) : kindOf b = none := by
  unfold kindOf
  split
  · exact absurd rfl traffic
  · exact absurd rfl receipt
  · exact absurd rfl hold
  · exact absurd rfl beacon
  · rfl

/-- What a frame in progress makes of an SOH, whatever its phase (R124). -/
theorem receiveCharacter_soh (inFrame : (s.chan c).receiver.phase ≠ .hunt) :
    receiveCharacter c soh s = restartFrame c s := by
  unfold receiveCharacter
  split
  · next hunt => exact absurd hunt inFrame
  · exact if_pos rfl
  · exact if_pos rfl
  · exact if_pos rfl

theorem receiveCharacter_hunt (hunt : (s.chan c).receiver.phase = .hunt) :
    receiveCharacter c b s = if b = soh then setReceiver .start c s else s := by
  unfold receiveCharacter
  rw [hunt]

theorem receiveCharacter_head (head : (s.chan c).receiver.phase = .head) (other : b ≠ soh) :
    receiveCharacter c b s = collectHeader c b s := by
  unfold receiveCharacter
  rw [head]
  exact if_neg other

theorem receiveCharacter_body (body : (s.chan c).receiver.phase = .body) (other : b ≠ soh) :
    receiveCharacter c b s = collectBody c b s := by
  unfold receiveCharacter
  rw [body]
  exact if_neg other

theorem receiveCharacter_tail (tail : (s.chan c).receiver.phase = .tail) (other : b ≠ soh) :
    receiveCharacter c b s = collectTail c b s := by
  unfold receiveCharacter
  rw [tail]
  exact if_neg other

/-- A receive record in HEAD once a character has joined its header, with the kind that the letter gives (R118). -/
def Receiver.headed (r : Receiver) (b : Byte) (k : FrameKind) : Receiver :=
  { r with header := r.header ++ [b], sum := r.sum + b.setWidth 16, position := r.position + 1, gap := 0, kind := some k }

theorem collectHeader_of_kind {k : FrameKind}
    (kind : (if (s.chan c).receiver.header = [] then kindOf b else (s.chan c).receiver.kind) = some k) :
    collectHeader c b s =
      if (s.chan c).receiver.position + 1 = k.headerLength then completeHeader c ((s.chan c).receiver.headed b k) s
      else setReceiver ((s.chan c).receiver.headed b k) c s := by
  simp only [collectHeader, kind]
  rfl

theorem collectHeader_of_no_kind (first : (s.chan c).receiver.header = []) (none : kindOf b = none) :
    collectHeader c b s = damage c s := by
  simp only [collectHeader, first, none, if_true]

theorem isDigit_iff (b : Byte) : isDigit b = true ↔ 0x30 ≤ b.toNat ∧ b.toNat ≤ 0x39 := by
  simp only [isDigit, Bool.and_eq_true, decide_eq_true_eq, BitVec.le_def]
  rfl

theorem isBodyChar_iff (b : Byte) : isBodyChar b = true ↔ 0x20 ≤ b.toNat ∧ b.toNat ≤ 0x7E ∨ b.toNat = 0x0A := by
  simp only [isBodyChar, Bool.or_eq_true, Bool.and_eq_true, decide_eq_true_eq, beq_iff_eq, BitVec.le_def,
    ← BitVec.toNat_inj]
  rfl

theorem isCheckChar_iff (b : Byte) :
    isCheckChar b = true ↔ 0x30 ≤ b.toNat ∧ b.toNat ≤ 0x39 ∨ 0x41 ≤ b.toNat ∧ b.toNat ≤ 0x46 := by
  simp only [isCheckChar, Bool.or_eq_true, isDigit_iff, Bool.and_eq_true, decide_eq_true_eq, BitVec.le_def]
  rfl

theorem isBodyChar_soh : isBodyChar soh = false := by decide

/-- Settles O31. -/
theorem headerAndBodyCollected : Obligations.HeaderAndBodyCollected := by
  unfold Obligations.HeaderAndBodyCollected
  refine ⟨fun b => ?classes, fun s c b => ?characters, fun s c => ?damaged⟩
  case classes =>
    exact ⟨isBodyChar_iff b, isDigit_iff b, isCheckChar_iff b⟩
  case characters =>
    intro r take
    refine ⟨fun hunt other => ?_, fun hunt same => ?_, fun inFrame same => ?_, fun k head other kind => ?_,
      fun head first other traffic receipt hold beacon => ?_, fun body other bad => ?_, fun body good => ?_⟩
    · exact (receiveCharacter_hunt hunt).trans (if_neg other)
    · exact (receiveCharacter_hunt hunt).trans (if_pos same)
    · rw [same]; exact receiveCharacter_soh inFrame
    · have named : (if r.header = [] then kindOf b else r.kind) = some k := by
        rcases kind with ⟨first, letter⟩ | ⟨later, kind⟩
        · rw [if_pos first, kindOf_eq_some_iff]; exact letter
        · rw [if_neg later, kind]
      rw [receiveCharacter_head head other, collectHeader_of_kind named]
      exact ⟨fun room => if_neg room, fun full => if_pos full⟩
    · rw [receiveCharacter_head head other]
      exact collectHeader_of_no_kind first (kindOf_eq_none traffic receipt hold beacon)
    · rw [receiveCharacter_body body other, collectBody, bad]; rfl
    · have other : b ≠ soh := fun same => by rw [same, isBodyChar_soh] at good; cases good
      rw [receiveCharacter_body body other, collectBody, if_pos good]
      refine ⟨fun none => ?_, fun h reserved => ?_⟩
      · rw [writeBody, none]; rfl
      · rw [writeBody, reserved]; rfl
  case damaged =>
    refine ⟨fun none => ?_, fun h reserved => ?_⟩
    · rw [damage, none]; rfl
    · rw [damage, reserved]; rfl

end

end Sys2Proof.Machine
end

/-! # Key-up of a control frame and of a beacon (R86, R99, R136) -/

section
namespace Sys2Proof.Machine

/-! ## The own frames that a test of congestion queues on a channel (R83, R87, R89) -/

/-- What the test of congestion makes of a channel's record. -/
def State.ownTurned (s : State) (x : Channel) : Channel :=
  if s.congestionNow = s.congestion then x
  else if s.congestionNow = .congested then
    if x.enabled then x.queueOwn s.own.holdTime s.own.holdCutoff else x
  else if s.own.releaseMode then
    if x.enabled then Channel.queueOwn 0 s.own.holdCutoff { x with rehold := none } else { x with rehold := none }
  else { x with rehold := none, owed := none, control := x.control.filter (!·.isOwn) }

theorem State.markCongestion_own (s : State) : s.markCongestion.own = s.own := by
  unfold State.markCongestion
  split <;> rfl

theorem State.markCongestion_chan (s : State) (c : Chan) : s.markCongestion.chan c = s.chan c := by
  unfold State.markCongestion
  split <;> rfl

theorem testCongestion_chan (s : State) (c : Chan) : (testCongestion s).chan c = s.ownTurned (s.chan c) := by
  unfold testCongestion State.ownTurned
  split
  · rfl
  · cases s.congestionNow with
    | congested => rw [if_pos rfl, enterCongested_chan, State.markCongestion_own, State.markCongestion_chan]
    | normal =>
      dsimp only
      rw [if_neg nofun]
      split
      · next release =>
        rw [leaveCongested_chan_of_release (s.markCongestion_own ▸ release), State.markCongestion_own,
          State.markCongestion_chan]
      · next noRelease =>
        rw [leaveCongested_chan_of_noRelease (s.markCongestion_own ▸ Bool.eq_false_iff.2 noRelease),
          State.markCongestion_chan]

/-- Two records hold the same control frames and owe the same own frame. -/
def Channel.SameFrames (x y : Channel) : Prop := y.enabled = x.enabled ∧ y.control = x.control ∧ y.owed = x.owed

theorem Channel.SameFrames.queueOwn {x y : Channel} (h : x.SameFrames y) (n : Nat) (k : Fin 8) :
    (x.queueOwn n k).SameFrames (y.queueOwn n k) := by
  obtain ⟨enabled, control, owed⟩ := h
  unfold Channel.queueOwn
  rw [control]
  split
  · exact ⟨enabled, rfl, owed⟩
  · split
    · exact ⟨enabled, rfl, owed⟩
    · exact ⟨enabled, rfl, rfl⟩

theorem Channel.SameFrames.ownTurned {x y : Channel} (h : x.SameFrames y) (s : State) :
    (s.ownTurned x).SameFrames (s.ownTurned y) := by
  obtain ⟨⟩ := x
  obtain ⟨⟩ := y
  obtain ⟨enabled, control, owed⟩ := h
  dsimp only at enabled control owed
  subst enabled control owed
  unfold State.ownTurned
  dsimp only
  split
  · exact ⟨rfl, rfl, rfl⟩
  · split
    · split
      · refine Channel.SameFrames.queueOwn ?_ _ _
        exact ⟨rfl, rfl, rfl⟩
      · exact ⟨rfl, rfl, rfl⟩
    · split
      · split
        · refine Channel.SameFrames.queueOwn ?_ _ _
          exact ⟨rfl, rfl, rfl⟩
        · exact ⟨rfl, rfl, rfl⟩
      · exact ⟨rfl, rfl, rfl⟩

section
variable {s : State} {c : Chan}

/-- The control frames that damage leaves, whatever the sampler does (R89, R124). -/
theorem damage_sampler_frames (r : Sampler) :
    ((damage c s).chan c).SameFrames ((damage c (setSampler r c s)).chan c) := by
  have reservation : ((setSampler r c s).chan c).receiver = (s.chan c).receiver := by
    rw [setSampler, State.chan_updChan_same]
  have frames : ((setReceiver .hunt c s).chan c).SameFrames ((setReceiver .hunt c (setSampler r c s)).chan c) := by
    simp only [setReceiver, setSampler, State.chan_updChan_same]
    exact ⟨rfl, rfl, rfl⟩
  unfold damage
  rw [reservation]
  cases (s.chan c).receiver.reservation with
  | none => exact frames
  | some h =>
    simp only [releaseEntry, testCongestion_chan]
    exact frames.ownTurned _

/-! ## The radio keyed for a frame that is not TRAFFIC -/

theorem State.compose_congr {t : State} {o : OnAir} (apart : o ≠ .traffic) (own : t.own = s.own) :
    t.compose c o = s.compose c o := by
  cases o with
  | control f => rw [State.compose, State.compose, own]
  | beacon => rw [State.compose, State.compose, own]
  | traffic => exact absurd rfl apart

theorem State.EventOn.keyFor (what : OnAir) (enabled : (s.chan c).enabled = true) (clear : (s.chan c).busy = false) :
    s.EventOn c (s.chan c).receiver.reservation (Machine.keyFor what c s) := by
  have sampled : s.EventOn c none (Machine.setSampler .lineRecovery c s) := .of_updChan s c _ ⟨rfl, rfl⟩
  have damaged := State.EventOn.damage c (Machine.setSampler .lineRecovery c s)
  have reservation : ((Machine.setSampler .lineRecovery c s).chan c).receiver = (s.chan c).receiver := by
    rw [Machine.setSampler, State.chan_updChan_same]
  rw [reservation] at damaged
  rw [keyFor_eq what enabled clear]
  exact (sampled.before damaged).andThen (.of_updChan _ c _ ⟨rfl, rfl⟩)

/-- Of the channel that is keyed, what key-up writes outside the transmitter, the receive side and busy. -/
theorem keyFor_rest (what : OnAir) (enabled : (s.chan c).enabled = true) (clear : (s.chan c).busy = false) :
    ((damage c s).chan c).SameFrames ((keyFor what c s).chan c) ∧
      ((keyFor what c s).chan c).settings = (s.chan c).settings ∧ ((keyFor what c s).chan c).beacon = (s.chan c).beacon := by
  obtain ⟨enabled', control, owed⟩ := damage_sampler_frames (s := s) (c := c) .lineRecovery
  have kept := echoSuppressed_chan c s
  have beacon : ((echoSuppressed c s).chan c).beacon = (s.chan c).beacon := (congrArg Channel.beacon kept : _)
  rw [keyFor_eq what enabled clear, State.chan_updChan_same]
  exact ⟨⟨enabled', control, owed⟩, kept.settings, beacon⟩

/-- What key-up leaves of a channel whose claimant is a control frame or a beacon, and of the rest of the part: `t`, with
`o` keyed, from `s`. -/
def State.KeyedUp (s : State) (c : Chan) (o : OnAir) (t : State) : Prop :=
  (t.chan c).transmitter = s.keyedFor c o ∧ (t.chan c).busy = true ∧ (t.chan c).clearTime = 0 ∧
    (t.chan c).receiver = .hunt ∧ (t.chan c).sampler = .lineRecovery ∧ (t.chan c).settings = (s.chan c).settings ∧
    ((damage c s).chan c).SameFrames (t.chan c) ∧ (t.chan c).beacon = (s.chan c).beacon ∧
    s.EventOn c (s.chan c).receiver.reservation t

theorem keyedUp_conclude {o : OnAir} (apart : o ≠ .traffic) (enabled : (s.chan c).enabled = true)
    (clear : (s.chan c).busy = false) : s.KeyedUp c o (conclude (keyFor o c s)) := by
  obtain ⟨transmitter, busy, clearTime, receiver, sampler⟩ := conclude_keyFor_chan o enabled clear
  obtain ⟨⟨frameEnabled, control, owed⟩, settings, beacon⟩ := keyFor_rest o enabled clear
  have line := (State.Turned.conclude (keyFor o c s)).chan c
  obtain ⟨-, own, -⟩ := (echoSuppressed_tables c s).1
  refine ⟨transmitter.trans ?_, busy, clearTime, receiver, sampler, line.settings.trans settings,
    ⟨line.enabled.trans frameEnabled, line.control.trans control, ?_⟩, line.beacon.trans beacon,
    (State.EventOn.keyFor o enabled clear).conclude⟩
  · rw [State.keyedFor, State.keyedFor, (echoSuppressed_chan c s).settings, State.compose_congr apart own]
  · exact (congrArg Channel.owed line.eq : _).trans owed

/-- The claimant's own mark written first does not change what key-up leaves of the rest. -/
theorem State.KeyedUp.of_updChan {f : Channel → Channel} {o : OnAir} {t : State} (apart : o ≠ .traffic)
    (settings : (f (s.chan c)).settings = (s.chan c).settings)
    (receiver : (f (s.chan c)).receiver = (s.chan c).receiver)
    (exchange : (f (s.chan c)).queue = (s.chan c).queue ∧ (f (s.chan c)).engine = (s.chan c).engine)
    (keyed : (s.updChan c f).KeyedUp c o t) :
    (t.chan c).transmitter = s.keyedFor c o ∧ (t.chan c).settings = (s.chan c).settings ∧
      s.EventOn c (s.chan c).receiver.reservation t := by
  obtain ⟨transmitter, -, -, -, -, settings', -, -, event⟩ := keyed
  have own : (s.updChan c f).own = s.own := rfl
  rw [State.chan_updChan_same] at settings' event
  rw [receiver] at event
  refine ⟨?_, settings'.trans settings, (State.EventOn.of_updChan s c f exchange).before event⟩
  rw [transmitter, State.keyedFor, State.keyedFor, State.chan_updChan_same, settings, State.compose_congr apart own]

/-- The head of the queue that has left it, as a record (R86, R129). -/
theorem Channel.sendHead_eq (own : OwnStation) (rest : List ControlFrame) (x : Channel) : ∃ k,
    x.sendHead own rest = { x with control := k, owed := none } := by
  obtain ⟨⟩ := x
  unfold Channel.sendHead
  dsimp only
  split <;> exact ⟨_, rfl⟩

theorem exec_keyUp_control {w : Nat} {f : ControlFrame} {rest : List ControlFrame} (enabled : (s.chan c).enabled = true)
    (clear : (s.chan c).busy = false) (waited : w ≤ (s.chan c).clearTime)
    (claim : (s.chan c).transmitter = .clearing .control w) (queue : (s.chan c).control = f :: rest) :
    exec (.keyUp c) s = .next (conclude (keyFor (.control f) c (s.updChan c (Channel.sendHead s.own rest)))) := by
  rw [exec_keyUp_of_due enabled clear waited claim]
  simp only [commit, queue]

theorem exec_keyUp_beacon {w : Nat} (enabled : (s.chan c).enabled = true) (clear : (s.chan c).busy = false)
    (waited : w ≤ (s.chan c).clearTime) (claim : (s.chan c).transmitter = .clearing .beacon w) :
    exec (.keyUp c) s = .next (conclude (keyFor .beacon c (s.updChan c fun x => { x with beacon := .onAir }))) := by
  rw [exec_keyUp_of_due enabled clear waited claim]
  simp only [commit]

/-- Settles O36: the claimant's mark is cleared, and the radio keyed for it. -/
theorem keyUpOfControlAndBeacon : Obligations.KeyUpOfControlAndBeacon := by
  unfold Obligations.KeyUpOfControlAndBeacon
  intro s c w enabled clear waited keyed
  have keyed_of {g : Channel → Channel} {o : OnAir} {t : State} (apart : o ≠ .traffic)
      (settings : (g (s.chan c)).settings = (s.chan c).settings)
      (receiver : (g (s.chan c)).receiver = (s.chan c).receiver)
      (exchange : (g (s.chan c)).queue = (s.chan c).queue ∧ (g (s.chan c)).engine = (s.chan c).engine)
      (up : (s.updChan c g).KeyedUp c o t) : keyed t o := by
    obtain ⟨transmitter, settings, event⟩ := up.of_updChan apart settings receiver exchange
    obtain ⟨-, busy, clearTime, hunt, sampler, -⟩ := up
    refine ⟨transmitter, busy, clearTime, hunt, sampler, settings, event.tables,
      fun k idle kept => (event.others k idle kept).1, fun h reserved => ?_, fun none => ?_⟩
    · obtain ⟨entries, blocks, free⟩ := event.released h reserved
      exact ⟨entries, blocks, fun idle => (free idle).1⟩
    · obtain ⟨entries, blocks, -⟩ := event.counts none
      exact ⟨entries, blocks⟩
  refine ⟨fun f rest claim queue => ?control, fun claim => ?beacon⟩
  case control =>
    intro left
    have same : s.updChan c (Channel.sendHead s.own rest) = s.setChan c left := by
      refine congrArg (s.setChan c) ?_
      unfold left
      obtain ⟨⟩ := s.chan c
      unfold Channel.sendHead
      dsimp only
      split <;> rfl
    obtain ⟨k, sent⟩ := Channel.sendHead_eq s.own rest (s.chan c)
    have up := keyedUp_conclude (s := s.updChan c (Channel.sendHead s.own rest)) (c := c) (o := .control f) nofun
      (by rw [State.chan_updChan_same, sent]; exact enabled) (by rw [State.chan_updChan_same, sent]; exact clear)
    refine ⟨_, exec_keyUp_control enabled clear waited claim queue,
      keyed_of nofun (by rw [sent]) (by rw [sent]) (by rw [sent]; exact ⟨rfl, rfl⟩) up, ?_⟩
    obtain ⟨-, -, -, -, -, -, ⟨-, control, owed⟩, -⟩ := up
    rw [same] at control owed ⊢
    refine ⟨fun none => ?_, control, owed⟩
    have quiet : damage c (s.setChan c left) = setReceiver .hunt c (s.setChan c left) := by
      rw [damage, State.chan_setChan, if_pos rfl, show left.receiver = (s.chan c).receiver from rfl, none]
    rw [control, owed, quiet, setReceiver, State.chan_updChan_same, State.chan_setChan, if_pos rfl]
    exact ⟨rfl, rfl⟩
  case beacon =>
    have up := keyedUp_conclude (s := s.updChan c fun x => { x with beacon := .onAir }) (c := c) (o := .beacon) nofun
      (by rw [State.chan_updChan_same]; exact enabled) (by rw [State.chan_updChan_same]; exact clear)
    refine ⟨_, exec_keyUp_beacon enabled clear waited claim, keyed_of nofun rfl rfl ⟨rfl, rfl⟩ up, ?_⟩
    obtain ⟨-, -, -, -, -, -, -, beacon, -⟩ := up
    rw [beacon, State.chan_updChan_same]

end

end Sys2Proof.Machine
end

/-! # The end of a sent frame (R88, R137, R138, R146, R147) -/

section
namespace Sys2Proof.Machine

theorem Channel.released_rest (x : Channel) : x.released.settings = x.settings ∧ x.released.receiver = x.receiver ∧
    x.released.rehold = x.rehold := by
  unfold Channel.released Channel.gated
  split
  · exact ⟨rfl, rfl, rfl⟩
  · split <;> exact ⟨rfl, rfl, rfl⟩

section
variable {s t u : State} {c : Chan} {h : Handle} {what : OnAir}

theorem exec_frameEnd_of_sent {f : List Byte} {k : Nat} (sending : (s.chan c).transmitter = .sending what f k)
    (ended : f.length * (s.chan c).settings.bitsPerChar * (((s.chan c).settings.divisor + 1) * 5) < (k + 1) * 384) :
    exec (.frameEnd c) s = .next (conclude (completeSending what c (releaseKey c s))) := by
  have sent : (s.chan c).frameSent = some what := by
    rw [Channel.frameSent, sending]
    exact if_pos (decide_eq_true ended)
  exact congrArg Host.Outcome.next (by rw [takeFrameEnd, sent])

theorem completeSending_recorded {v : Verdict} (run : (s.chan c).engine = .sending h (some v)) :
    completeSending .traffic c s = endExchange c s := by
  simp only [completeSending, endExchange, run]

theorem completeSending_unrecorded (run : (s.chan c).engine = .sending h none) : completeSending .traffic c s =
    s.updChan c fun x => { x with engine := .awaiting h x.settings.receiptTimeout } := by
  simp only [completeSending, run]

/-- Two states have the same tables and answer, and a channel the same receive record and keying. -/
def State.SameBut (c : Chan) (s t : State) : Prop := s.SameTables t ∧ t.response = s.response ∧
  (t.chan c).receiver = (s.chan c).receiver ∧ (t.chan c).transmitter.keyed = (s.chan c).transmitter.keyed

theorem State.SameBut.refl (c : Chan) (s : State) : s.SameBut c s := ⟨.refl s, rfl, rfl, rfl⟩

theorem State.SameBut.trans (a : s.SameBut c t) (b : t.SameBut c u) : s.SameBut c u := by
  obtain ⟨tables, response, receiver, keyed⟩ := a
  obtain ⟨tables', response', receiver', keyed'⟩ := b
  exact ⟨tables.trans tables', response'.trans response, receiver'.trans receiver, keyed'.trans keyed⟩

theorem State.SameBut.of_turned (turned : s.Turned t) (c : Chan) : s.SameBut c t :=
  ⟨turned.sameTables, turned.response, (turned.chan c).receiver, (turned.chan c).keyed⟩

theorem State.SameBut.of_updChan {f : Channel → Channel} (receiver : (f (s.chan c)).receiver = (s.chan c).receiver)
    (keyed : (f (s.chan c)).transmitter.keyed = (s.chan c).transmitter.keyed) : s.SameBut c (s.updChan c f) := by
  refine ⟨.refl s, rfl, ?_⟩
  rw [State.chan_updChan_same]
  exact ⟨receiver, keyed⟩

theorem State.SameBut.completeSending (what : OnAir) (c : Chan) (s : State) : s.SameBut c (completeSending what c s) := by
  cases what with
  | control f =>
    cases f with
    | receipt a b v => exact .refl c s
    | ownHold n q => exact .of_updChan rfl rfl
  | beacon => exact .of_updChan rfl rfl
  | traffic =>
    cases run : (s.chan c).engine with
    | idle | staged _ _ _ | awaiting _ _ => simp only [Machine.completeSending, run]; exact .refl c s
    | sending h r =>
      cases r with
      | none => rw [completeSending_unrecorded run]; exact .of_updChan rfl rfl
      | some v => rw [completeSending_recorded run]; exact .of_turned (.endExchange c s) c

/-- The release of keying leaves an entry that waits in no collection and is not STAGED. -/
theorem State.KeepsAt.gate (apart : ∀ q, h ∉ s.collection q) (free : ∀ d w x, (s.chan d).engine ≠ .staged h w x) :
    s.KeepsAt h (gate c s) := by
  unfold Machine.gate
  simp only
  split
  · exact .refl h s
  · split
    · exact .updChan ⟨rfl, rfl⟩
    · have ended : s.KeepsAt h (s.updChan c Channel.endBusy) := .updChan ⟨rfl, rfl⟩
      split
      · refine ended.trans (.sweep (ended.apart apart) fun d w x staged => ?_)
        rw [updChan_engine (f := Channel.endBusy) rfl d] at staged
        exact free d w x staged
      · exact ended

theorem State.KeepsAt.releaseKey (apart : ∀ q, h ∉ s.collection q) (free : ∀ d w x, (s.chan d).engine ≠ .staged h w x) :
    s.KeepsAt h (releaseKey c s) := by
  have off : s.KeepsAt h (setTransmitter .idle c s) := .updChan ⟨rfl, rfl⟩
  refine off.trans (.gate (off.apart apart) fun d w x staged => ?_)
  rw [setTransmitter, updChan_engine rfl d] at staged
  exact free d w x staged

theorem releaseKey_engine {d : Chan} (free : ∀ h w x, (s.chan d).engine ≠ .staged h w x) :
    ((releaseKey c s).chan d).engine = (s.chan d).engine := by
  have off : ((setTransmitter .idle c s).chan d).engine = (s.chan d).engine := updChan_engine rfl d
  rw [releaseKey, gate_engine_of_not_staged, off]
  intro h w x
  rw [off]
  exact free h w x

/-- A verdict recorded while the frame was sent ends the exchange as it says (R41, R147). -/
theorem frameEnd_recorded {v : Verdict} (held : s.HeldAlone c h) (run : (s.chan c).engine = .sending h (some v))
    {x : EntryState} {o : LastOutcome} (final : x ≠ .ready)
    (ending : (s.chan c).engine.ending (s.entry h).cancelled = some (x, o)) :
    (conclude (completeSending .traffic c (releaseKey c s))).entry h =
      { s.entry h with
        state := x, lastOutcome := o, nextHop := none, notBefore := none, cancelPending := none, changed := true } := by
  have unstaged (k : Handle) (w x : Nat) : (s.chan c).engine ≠ .staged k w x := by rw [run]; exact nofun
  have ⟨_, apart, alone⟩ := held
  have keeps : s.KeepsAt h (releaseKey c s) := .releaseKey apart fun d w x staged => by
    by_cases here : d = c
    · exact unstaged h w x (here ▸ staged)
    · exact alone d here (by rw [staged]; rfl)
  have engine : ((releaseKey c s).chan c).engine = (s.chan c).engine := releaseKey_engine unstaged
  have entry := keeps.same.1
  have ended := endExchange_ended (held.of_keeps keeps engine) (by rw [engine, entry]; exact ending)
  rw [← completeSending_recorded (engine.trans run), entry] at ended
  obtain ⟨closed, idle⟩ := ended.1 final
  exact ((State.Turned.conclude _).others h idle).1.trans closed

/-- Settles O39: keying released, the frame handed to its owner, and the end of the event. -/
theorem frameEndHandedOn : Obligations.FrameEndHandedOn := by
  unfold Obligations.FrameEndHandedOn
  intro s c w f k enabled sending sent
  have released := releaseKey_turned c s
  have line := released.chan c
  rw [State.chan_updChan_same] at line
  obtain ⟨off, -⟩ := (s.chan c).released_line
  obtain ⟨settings, receiver, rehold⟩ := (s.chan c).released_rest
  have written : s.SameTables (s.updChan c Channel.released) := .refl s
  have handed := State.SameBut.completeSending w c (releaseKey c s)
  have concluded := State.Turned.conclude (completeSending w c (releaseKey c s))
  obtain ⟨tables, response, receiver', keyed⟩ := handed.trans (.of_turned concluded c)
  have time : (releaseKey c s).time = s.time := by obtain ⟨-, -, -, time, -⟩ := released.sameTables; exact time
  have own : (releaseKey c s).own = s.own := released.own
  have congestion : (releaseKey c s).congestion = s.congestion := released.congestion
  refine ⟨_, exec_frameEnd_of_sent sending sent, ?_, (written.trans released.sameTables).trans tables,
    response.trans released.response, receiver'.trans (line.receiver.trans receiver), fun h traffic run => ?_,
    fun h v traffic run verdict apart alone => ?_, fun h traffic run held => ?_, fun beacon => ?_, fun n q hold => ?_,
    fun a b v receipt => ?_⟩
  · rw [keyed, line.keyed, off]; rfl
  · subst traffic
    have engine : ((releaseKey c s).chan c).engine = .sending h none :=
      (releaseKey_engine (by rw [run]; exact nofun)).trans run
    rw [completeSending_unrecorded engine, conclude_engine_of_ne_idle, State.chan_updChan_same, line.settings, settings]
    rw [State.chan_updChan_same]
    exact nofun
  · subst traffic
    have held : s.HeldAlone c h := ⟨by rw [run]; rfl, apart, alone⟩
    rw [frameEnd_recorded held run (x := .sent) (o := .confirmedLate) nofun]
    · exact ⟨rfl, rfl, rfl, rfl⟩
    · rw [run]
      rcases verdict with rfl | rfl <;> rfl
  · subst traffic
    have ending : (s.chan c).engine.ending (s.entry h).cancelled =
        some (if (s.entry h).cancelled then .cancelled else .refused, .noroute) := by rw [run]; rfl
    have closed := frameEnd_recorded held run (by split <;> exact nofun) ending
    rw [State.Closes, closed]
    simp only [Entry.cancelled_iff]
  · subst beacon
    rw [(concluded.chan c).beacon, completeSending, State.chan_updChan_same, Channel.restartBeacon, line.settings,
      settings, time]
  · subst hold
    have written : ((completeSending (.control (.ownHold n q)) c (releaseKey c s)).chan c).rehold =
        (releaseKey c s).reholdAfter n := by rw [completeSending, State.chan_updChan_same]
    rw [(congrArg Channel.rehold (concluded.chan c).eq : _), written, State.reholdAfter, congestion, own]
  · subst receipt
    rw [(congrArg Channel.rehold (concluded.chan c).eq : _), completeSending]
    exact (congrArg Channel.rehold line.eq : _).trans rehold

end

end Sys2Proof.Machine
end

/-! # What a consideration takes and what it fails (R141 to R143, R34) -/

section
namespace Sys2Proof.Machine

section
variable {s t : State} {c : Chan} {h k : Handle} {a r : List Handle}

/-! ## The tests of a consideration -/

/-- An entry that is neither held nor covered but OVERSIZE (R34). -/
def State.TooBig (s : State) (c : Chan) (k : Handle) : Prop :=
  s.covered c (s.entry k) = false ∧ (s.chan c).settings.oversize (s.needOf c (s.entry k)) = true

/-- An entry that a consideration takes where it comes to it (R141). -/
def State.Takes (s : State) (c : Chan) (k : Handle) : Prop :=
  s.covered c (s.entry k) = false ∧ (s.chan c).settings.oversize (s.needOf c (s.entry k)) = false ∧
    (s.window c).fits (s.needOf c (s.entry k)) = true

theorem State.SameView.waitOf (view : s.SameView c t) (e : Entry) : t.waitOf c e = s.waitOf c e := by
  rw [State.waitOf, State.waitOf, State.classRow, State.classRow, view.settings, view.classes]

theorem State.SameView.needOf (view : s.SameView c t) (e : Entry) : t.needOf c e = s.needOf c e := by
  rw [State.needOf, State.needOf, view.waitOf, view.settings]

theorem State.SameView.covered (view : s.SameView c t) (e : Entry) : t.covered c e = s.covered c e := by
  have station : t.station = s.station := by funext i; rw [State.station, State.station, view.stations]
  obtain ⟨remaining, cutoff⟩ := view.silence
  simp only [State.covered, State.held, Channel.silences, station, remaining, cutoff]

theorem State.SameView.window (view : s.SameView c t) : t.window c = s.window c := by
  rw [State.window, State.window, view.settings, view.time]

theorem State.SameView.tooBig (view : s.SameView c t) (same : t.entry k = s.entry k) : t.TooBig c k ↔ s.TooBig c k := by
  rw [State.TooBig, State.TooBig, same, view.covered, view.needOf, view.settings]

theorem State.SameView.takes (view : s.SameView c t) (same : t.entry k = s.entry k) : t.Takes c k ↔ s.Takes c k := by
  rw [State.Takes, State.Takes, same, view.covered, view.needOf, view.settings, view.window]

theorem State.SameView.trans {u : State} (first : s.SameView c t) (second : t.SameView c u) : s.SameView c u where
  stations := second.stations.trans first.stations
  classes := second.classes.trans first.classes
  time := second.time.trans first.time
  settings := second.settings.trans first.settings
  silence := ⟨second.silence.1.trans first.silence.1, second.silence.2.trans first.silence.2⟩

/-! ## The walk, entry by entry -/

theorem walk_cons_of_takes (takes : s.Takes c h) : walk c (h :: r) s = engage c h s := by
  obtain ⟨uncovered, sized, fits⟩ := takes
  simp only [walk]
  rw [if_neg (Bool.eq_false_iff.1 uncovered), if_neg (Bool.eq_false_iff.1 sized), if_pos fits]

theorem walk_cons_of_tooBig (big : s.TooBig c h) : walk c (h :: r) s = walk c r (failOversize h s) := by
  obtain ⟨uncovered, oversize⟩ := big
  simp only [walk]
  rw [if_neg (Bool.eq_false_iff.1 uncovered), if_pos oversize]

theorem walk_cons_of_passedOver (passed : s.PassedOver c h) : walk c (h :: r) s = walk c r s := by
  simp only [walk]
  split
  · rfl
  · next uncovered =>
    obtain ⟨sized, late⟩ := passed.resolve_left uncovered
    rw [if_neg (Bool.eq_false_iff.1 sized), if_neg (Bool.eq_false_iff.1 late)]

theorem State.passedOver_of_not (stays : ¬ s.TooBig c h) (left : ¬ s.Takes c h) : s.PassedOver c h := by
  rw [State.PassedOver, or_iff_not_imp_left, Bool.not_eq_true]
  intro uncovered
  have sized : (s.chan c).settings.oversize (s.needOf c (s.entry h)) = false :=
    Bool.eq_false_iff.2 fun oversize => stays ⟨uncovered, oversize⟩
  exact ⟨sized, Bool.eq_false_iff.2 fun fits => left ⟨uncovered, sized, fits⟩⟩

theorem walk_append_of_passedOver (passed : ∀ k ∈ a, s.PassedOver c k) : walk c (a ++ r) s = walk c r s := by
  induction a with
  | nil => rfl
  | cons k a ih =>
    rw [List.cons_append, walk_cons_of_passedOver (passed k List.mem_cons_self)]
    exact ih fun j mem => passed j (List.mem_cons_of_mem k mem)

/-- A walk has come past the entries `a`, of which it has failed those that are OVERSIZE and left the others (R34, R142). -/
structure State.WalkedPast (s : State) (c : Chan) (a : List Handle) (t : State) : Prop where
  view : s.SameView c t
  engine : ∀ d, (t.chan d).engine = (s.chan d).engine
  failed : ∀ k ∈ a, s.TooBig c k → t.Closes k (s.entry k) .failed .oversize ∧ ∀ q, k ∉ t.collection q
  thinned : s.Thinned t
  left : ∀ k, ¬ (k ∈ a ∧ s.TooBig c k) → t.entry k = s.entry k ∧ ∀ q, k ∈ s.collection q → k ∈ t.collection q

theorem State.WalkedPast.nil (s : State) (c : Chan) : s.WalkedPast c [] s where
  view := ⟨rfl, rfl, rfl, rfl, rfl, rfl⟩
  engine _ := rfl
  failed _ mem := nomatch mem
  thinned := .refl s
  left _ _ := ⟨rfl, fun _ mem => mem⟩

theorem failOversize_view (h : Handle) (c : Chan) (s : State) : s.SameView c (failOversize h s) :=
  .of_moved (.failOversize h s)

theorem failOversize_engine (h : Handle) (d : Chan) (s : State) :
    ((failOversize h s).chan d).engine = (s.chan d).engine := s.leave_engine h d

theorem failOversize_same (h : Handle) (s : State) :
    (failOversize h s).entry h = (s.entry h).closed .failed .oversize := by
  rw [failOversize, State.closeEntry_entry]
  rfl

theorem failOversize_other (other : k ≠ h) : (failOversize h s).entry k = s.entry k :=
  (State.Only.failOversize h s k other).1

theorem mem_failOversize {q : Collection} : k ∈ (failOversize h s).collection q ↔ k ∈ s.collection q ∧ k ≠ h := by
  rw [failOversize, State.closeEntry, State.collection_updEntry, State.mem_leave]

theorem State.WalkedPast.cons_left (past : s.WalkedPast c a t) (stays : ¬ s.TooBig c h) : s.WalkedPast c (h :: a) t where
  view := past.view
  engine := past.engine
  failed k mem big := past.failed k ((List.mem_cons.1 mem).resolve_left fun same => stays (same ▸ big)) big
  thinned := past.thinned
  left k other := past.left k fun both => other ⟨List.mem_cons_of_mem h both.1, both.2⟩

theorem State.WalkedPast.cons_failed (past : (failOversize h s).WalkedPast c a t) (apart : h ∉ a) (big : s.TooBig c h) :
    s.WalkedPast c (h :: a) t := by
  have view := failOversize_view h c s
  have entry {k : Handle} (other : k ≠ h) : (failOversize h s).entry k = s.entry k :=
    failOversize_other other
  obtain ⟨same, -⟩ := past.left h fun both => apart both.1
  refine ⟨view.trans past.view, fun d => (past.engine d).trans (failOversize_engine h d s), fun k mem big' => ?_,
    (State.Thinned.failOversize h s).trans past.thinned, fun k other => ?_⟩
  · rcases List.mem_cons.1 mem with rfl | mem
    · refine ⟨?_, fun q held => ?_⟩
      · exact same.trans (failOversize_same k s)
      · exact (mem_failOversize.1 (past.thinned q k held).1).2 rfl
    · have ne : k ≠ h := fun same => apart (same ▸ mem)
      have failed := past.failed k mem ((view.tooBig (entry ne)).2 big')
      rwa [entry ne] at failed
  · have ne : k ≠ h := fun same => other ⟨same ▸ List.mem_cons_self, same ▸ big⟩
    obtain ⟨same, kept⟩ := past.left k fun both =>
      other ⟨List.mem_cons_of_mem h both.1, (view.tooBig (entry ne)).1 both.2⟩
    exact ⟨same.trans (entry ne), fun q mem => kept q (mem_failOversize.2 ⟨mem, ne⟩)⟩

theorem walk_append (unique : a.Nodup) (passes : ∀ k ∈ a, ¬ s.Takes c k) :
    ∃ t, walk c (a ++ r) s = walk c r t ∧ s.WalkedPast c a t := by
  induction a generalizing s with
  | nil => exact ⟨s, rfl, .nil s c⟩
  | cons h a ih =>
    obtain ⟨apart, unique⟩ := List.nodup_cons.1 unique
    rw [List.cons_append]
    by_cases big : s.TooBig c h
    · obtain ⟨t, walked, past⟩ := ih (s := failOversize h s) unique fun k mem takes => by
        have ne : k ≠ h := fun same => apart (same ▸ mem)
        have entry : (failOversize h s).entry k = s.entry k := failOversize_other ne
        exact passes k (List.mem_cons_of_mem h mem) (((failOversize_view h c s).takes entry).1 takes)
      exact ⟨t, (walk_cons_of_tooBig big).trans walked, past.cons_failed apart big⟩
    · obtain ⟨t, walked, past⟩ := ih unique fun k mem => passes k (List.mem_cons_of_mem h mem)
      exact ⟨t, (walk_cons_of_passedOver (State.passedOver_of_not big (passes h List.mem_cons_self))).trans walked,
        past.cons_left big⟩

/-! ## The entry taken (R33, R143) -/

theorem engage_entry (c : Chan) (h : Handle) (s : State) : (engage c h s).entry h = { s.entry h with
    state := .engaged, lastHop := s.hopCall (s.entry h).nextHop, cancelPending := some false } := by
  rw [engage, State.updChan_entry, State.entry_updEntry, if_pos rfl]
  rfl

theorem engage_engine (c : Chan) (h : Handle) (s : State) :
    ((engage c h s).chan c).engine = .staged h (s.waitOf c (s.entry h)) (s.needOf c (s.entry h)) := by
  rw [engage, State.chan_updChan_same]

theorem mem_engage {q : Collection} : k ∈ (engage c h s).collection q ↔ k ∈ s.collection q ∧ k ≠ h := by
  have written : (engage c h s).collection q = (s.leave h).collection q := by
    cases q with
    | unrouted => rfl
    | queue d =>
      rw [State.collection, engage, State.chan_updChan]
      split
      · next here => subst here; rfl
      · rfl
  rw [written, State.mem_leave]

/-! ## The tests in the terms of the sections that they come from -/

theorem Station.holds_iff {st : Station} {p : Fin 8} : st.holds p = true ↔ 0 < st.holdRemaining ∧ st.holdCutoff ≤ p := by
  simp [Station.holds]

theorem State.covered_iff (e : Entry) : s.covered c e = true ↔
    (∃ i st, e.nextHop = some i ∧ s.station i = some st ∧ 0 < st.holdRemaining ∧ st.holdCutoff ≤ e.precedence) ∨
      0 < (s.chan c).silenceRemaining ∧ (s.chan c).silenceCutoff ≤ e.precedence := by
  have held : s.held e = true ↔
      ∃ i st, e.nextHop = some i ∧ s.station i = some st ∧ 0 < st.holdRemaining ∧ st.holdCutoff ≤ e.precedence := by
    simp only [State.held, Option.any_eq_true, Option.bind_eq_some_iff, Station.holds_iff]
    exact ⟨fun ⟨st, ⟨i, hop, record⟩, covers⟩ => ⟨i, st, hop, record, covers⟩,
      fun ⟨i, st, hop, record, covers⟩ => ⟨st, ⟨i, hop, record⟩, covers⟩⟩
  have silent : (s.chan c).silences e.precedence = true ↔
      0 < (s.chan c).silenceRemaining ∧ (s.chan c).silenceCutoff ≤ e.precedence := by
    simp [Channel.silences]
  rw [State.covered, Bool.or_eq_true, held, silent]

theorem Settings.airTime_bounds (g : Settings) (n : Nat) :
    g.lineUnits n ≤ g.airTime n * 384 ∧ g.airTime n * 384 < g.lineUnits n + 384 := by
  unfold Settings.airTime
  omega

theorem Settings.oversize_iff (g : Settings) (n : Nat) : g.oversize n = true ↔ g.period ≠ 0 ∧ g.length * 1000 < n := by
  simp [Settings.oversize]

/-- Settles O41: the walk along the queue, past the entries that it leaves or fails, up to the one that it takes. -/
theorem considerationTakesFirstEligible : Obligations.ConsiderationTakesFirstEligible := by
  unfold Obligations.ConsiderationTakesFirstEligible
  refine ⟨fun s c => ⟨Channel.considers_iff, fun idle => if_neg fun runs => ?_⟩,
    fun s c a h b runs queue passed uncovered sized fits => ?_,
    fun s c a r runs queue unique => ?_, fun s c e => ⟨s.covered_iff e, ?wait, ?need⟩,
    fun g n => ⟨g.airTime_bounds n, rfl, g.oversize_iff n⟩⟩
  case wait =>
    rw [State.waitOf, Settings.signalFreeWait, Nat.min_comm e.attemptCount]
    rfl
  case need => exact (Nat.add_assoc _ _ _).symm.trans (congrArg (· + _) (Nat.add_assoc _ _ _).symm)
  · obtain ⟨engine, enabled, clear, running⟩ := Channel.considers_iff.1 runs
    rcases idle with busy | off | jammed | paused
    · exact busy engine
    · exact Bool.false_ne_true (off.symm.trans enabled)
    · exact Bool.false_ne_true (clear.symm.trans jammed)
    · exact Bool.false_ne_true (running.symm.trans paused)
  · have taken : consider c s = engage c h s := by
      rw [consider, if_pos runs, queue, walk_append_of_passedOver passed]
      exact walk_cons_of_takes ⟨uncovered, sized, fits⟩
    intro t
    rw [show t = engage c h s from taken]
    exact ⟨engage_entry c h s, engage_engine c h s, fun q mem => (mem_engage.1 mem).2 rfl,
      fun k other => (State.Only.engage c h s k other).1⟩
  · intro big takes t passes first
    rw [queue] at unique
    obtain ⟨uniqueA, -, apart⟩ := List.nodup_append.1 unique
    obtain ⟨u, walked, past⟩ := walk_append (r := r) uniqueA passes
    have considered : t = walk c r u := by
      rw [show t = consider c s from rfl, consider, if_pos runs, queue]
      exact walked
    obtain ⟨engine, -, -, -⟩ := Channel.considers_iff.1 runs
    cases r with
    | nil =>
      rw [show t = u from considered]
      exact ⟨past.failed, fun k other _ => ⟨(past.left k other).1, (past.left k other).2 (.queue c)⟩,
        fun _ => (past.engine c).trans engine, fun h head => nomatch head⟩
    | cons h b =>
      have outside : h ∉ a := fun mem => apart h mem h List.mem_cons_self rfl
      obtain ⟨same, -⟩ := past.left h fun both => outside both.1
      have engaged : t = engage c h u :=
        considered.trans (walk_cons_of_takes ((past.view.takes same).2 (first h rfl)))
      rw [engaged]
      refine ⟨fun k mem tooBig => ?_, fun k other notHead => ?_, nofun, fun k head => ?_⟩
      · have ne : k ≠ h := fun same => outside (same ▸ mem)
        obtain ⟨closed, gone⟩ := past.failed k mem tooBig
        exact ⟨(State.Only.engage c h u k ne).1.trans closed, fun q held => gone q (mem_engage.1 held).1⟩
      · have ne : k ≠ h := fun same => notHead (congrArg some same.symm)
        obtain ⟨kept, stays⟩ := past.left k other
        exact ⟨(State.Only.engage c h u k ne).1.trans kept,
          fun mem => mem_engage (q := .queue c).2 ⟨stays (.queue c) mem, ne⟩⟩
      · obtain rfl := Option.some.inj head
        rw [engage_engine, engage_entry, same, past.view.waitOf, past.view.needOf]
        exact ⟨rfl, rfl⟩

end

end Sys2Proof.Machine
end

/-! # Holds and silences received and ended, and the expiry of a re-hold timer (R75 to R80, R86, R88, R139) -/

section
namespace Sys2Proof.Machine

/-! ## A withdrawal under a test (R39) -/

section
variable {s t : State} {c d : Chan} {h : Handle} {test : State → Entry → Bool}

theorem withdrawIf_of_staged {w x : Nat} (staged : (s.chan c).engine = .staged h w x) :
    withdrawIf test c s = if test s (s.entry h) then withdraw c s else s := by
  simp only [withdrawIf, staged]

theorem withdrawIf_self (passes : ∀ h w x, (s.chan c).engine = .staged h w x → test s (s.entry h) = false) :
    withdrawIf test c s = s := by
  by_cases staged : ∃ h w x, (s.chan c).engine = .staged h w x
  · obtain ⟨h, w, x, staged⟩ := staged
    rw [withdrawIf_of_staged staged, passes h w x staged]
    rfl
  · unfold withdrawIf
    split
    · next h w x run => exact absurd ⟨h, w, x, run⟩ staged
    · rfl

/-! ## Station holds (R76, R77) -/

/-- An entry's next hop is an index whose record holds it. -/
def heldThrough (i : Index) (s : State) (e : Entry) : Bool := e.nextHop = some i && s.held e

theorem writeHold_eq (i : Index) (n : Nat) (k : Fin 8) (s : State) : writeHold i n k s =
    forChans (fun c => withdrawIf (heldThrough i) c) (s.updStation i (Station.ordered n k)) := rfl

theorem Station.ordered_holds_iff {n : Nat} {k p : Fin 8} {st : Station} :
    (st.ordered n k).holds p = true ↔ 0 < n ∧ k ≤ p := by
  rw [Station.holds_iff, Station.ordered]
  split
  · next zero => simp [zero]
  · exact .rfl

theorem heldThrough_iff {i : Index} {n : Nat} {k : Fin 8} {st : Station} {e : Entry}
    (record : s.station i = some (st.ordered n k)) :
    heldThrough i s e = true ↔ 0 < n ∧ e.nextHop = some i ∧ k ≤ e.precedence := by
  rw [heldThrough, Bool.and_eq_true, decide_eq_true_iff, State.held]
  constructor
  · rintro ⟨hop, held⟩
    rw [hop, Option.bind_some, record] at held
    obtain ⟨pos, covers⟩ := Station.ordered_holds_iff.1 held
    exact ⟨pos, hop, covers⟩
  · rintro ⟨pos, hop, covers⟩
    rw [hop, Option.bind_some, record]
    exact ⟨rfl, Station.ordered_holds_iff.2 ⟨pos, covers⟩⟩

/-- The record of an index after a hold has been written there, through the withdrawals that follow. -/
theorem State.Moved.station_of_ordered {i : Index} {n : Nat} {k : Fin 8} {st : Station} (record : s.station i = some st)
    (moved : (s.updStation i (Station.ordered n k)).Moved t) : t.station i = some (st.ordered n k) := by
  rw [State.station, moved.stations]
  have written := State.station_updStation s i i (Station.ordered n k)
  rw [if_pos rfl, record] at written
  exact written

theorem writeHold_station {i : Index} {n : Nat} {k : Fin 8} {st : Station} (record : s.station i = some st) :
    (writeHold i n k s).station i = some (st.ordered n k) ∧
      ∀ j, j ≠ i → (writeHold i n k s).station j = s.station j := by
  refine ⟨(writeHold_moved i n k s).station_of_ordered record, fun j other => ?_⟩
  have written := State.station_updStation s i j (Station.ordered n k)
  rw [if_neg (Ne.symm other)] at written
  rw [State.station, (writeHold_moved i n k s).stations]
  exact written

theorem writeHold_of_not_covers {i : Index} {n : Nat} {k : Fin 8} {st : Station} (record : s.station i = some st)
    (free : ∀ d h w z, (s.chan d).engine = .staged h w z →
      ¬ (0 < n ∧ (s.entry h).nextHop = some i ∧ k ≤ (s.entry h).precedence)) :
    writeHold i n k s = s.setStation i (some (st.ordered n k)) := by
  have written : s.updStation i (Station.ordered n k) = s.setStation i (some (st.ordered n k)) := by
    rw [State.updStation, record]
    rfl
  rw [writeHold_eq, forChans_self, written]
  intro d
  refine withdrawIf_self fun h w x staged => Bool.eq_false_iff.2 fun held => free d h w x staged ?_
  exact (heldThrough_iff (State.Moved.station_of_ordered record (.refl _))).1 held

/-- What the withdrawals of other channels leave of an exchange STAGED for an entry that its engine holds alone. -/
structure State.AwaitsTurn (s : State) (i : Index) (n : Nat) (k : Fin 8) (d : Chan) (h : Handle) (t : State) : Prop where
  keeps : s.KeepsAt h t
  engine : (t.chan d).engine = (s.chan d).engine
  moved : (s.updStation i (Station.ordered n k)).Moved t

theorem State.AwaitsTurn.withdrawIf {i : Index} {n : Nat} {k : Fin 8} (held : s.HeldAlone d h)
    (before : s.AwaitsTurn i n k d h t) (other : c ≠ d) : s.AwaitsTurn i n k d h (withdrawIf test c t) where
  keeps := before.keeps.trans (.withdrawIf (fun w x staged => held.2.2 c other
    (before.keeps.engine c (by rw [staged]; rfl))) test)
  engine := (withdrawIf_engine_other (Ne.symm other) _).trans before.engine
  moved := before.moved.trans (.withdrawIf test c t)

theorem State.AwaitsTurn.start (i : Index) (n : Nat) (k : Fin 8) (d : Chan) (h : Handle) (s : State) :
    s.AwaitsTurn i n k d h (s.updStation i (Station.ordered n k)) where
  keeps := ⟨⟨rfl, fun q => by cases q <;> exact .rfl⟩, fun _ held => held⟩
  engine := rfl
  moved := .refl _

theorem writeHold_withdraws {i : Index} {n : Nat} {k : Fin 8} {st : Station} {w z : Nat} (record : s.station i = some st)
    (staged : (s.chan d).engine = .staged h w z) (held : s.HeldAlone d h)
    (covers : 0 < n ∧ (s.entry h).nextHop = some i ∧ k ≤ (s.entry h).precedence) :
    ((writeHold i n k s).chan d).engine = .idle ∧ (writeHold i n k s).Returns h (s.entry h) .withdrawn := by
  have ended : ((writeHold i n k s).chan d).engine = .idle ∧
      (writeHold i n k s).EndedHome h (s.entry h) .ready .withdrawn := by
    rw [writeHold_eq]
    refine forChans_at (P := s.AwaitsTurn i n k d h)
      (Q := fun t => (t.chan d).engine = .idle ∧ t.EndedHome h (s.entry h) .ready .withdrawn) d
      (fun c t other before => before.withdrawIf held other) (fun t before => ?_) (fun c t other ended => ?_)
      (.start i n k d h s)
    · obtain ⟨keeps, engine, moved⟩ := before
      have still := engine.trans staged
      have test : heldThrough i t (t.entry h) = true := by
        rw [heldThrough_iff (moved.station_of_ordered record), keeps.same.1]
        exact covers
      rw [withdrawIf_of_staged still, if_pos test, withdraw_engine, if_pos rfl, still, ← keeps.same.1]
      exact ⟨rfl, withdraw_ended still (held.of_keeps keeps engine)⟩
    · obtain ⟨idle, home⟩ := ended
      have free := (home.2 rfl).2.free
      refine ⟨(withdrawIf_engine_other (Ne.symm other) _).trans idle, home.keeps (.withdrawIf (fun w x staged => ?_) _)
        (State.Moved.withdrawIf _ c t).routesAlike⟩
      exact free c (by rw [staged]; rfl)
  exact ⟨ended.1, ended.2.returns⟩

theorem writeHold_continues {i : Index} {n : Nat} {k : Fin 8} {st : Station} (record : s.station i = some st)
    (stays : ∀ h w z, (s.chan d).engine = .staged h w z → s.HeldAlone d h ∧
      ¬ (0 < n ∧ (s.entry h).nextHop = some i ∧ k ≤ (s.entry h).precedence)) :
    ((writeHold i n k s).chan d).engine = (s.chan d).engine := by
  rw [writeHold_eq]
  by_cases staged : ∃ h w z, (s.chan d).engine = .staged h w z
  · obtain ⟨h, w, z, staged⟩ := staged
    obtain ⟨held, uncovered⟩ := stays h w z staged
    refine forChans_at (P := s.AwaitsTurn i n k d h) (Q := fun t => (t.chan d).engine = (s.chan d).engine) d
      (fun c t other before => before.withdrawIf held other) (fun t before => ?_)
      (fun c t other same => (withdrawIf_engine_other (Ne.symm other) _).trans same) (.start i n k d h s)
    obtain ⟨keeps, engine, moved⟩ := before
    rw [withdrawIf_of_staged (engine.trans staged), if_neg, engine]
    rw [heldThrough_iff (moved.station_of_ordered record), keeps.same.1]
    exact uncovered
  · refine forChans_at (P := fun t => (t.chan d).engine = (s.chan d).engine)
      (Q := fun t => (t.chan d).engine = (s.chan d).engine) d
      (fun c t other same => (withdrawIf_engine_other (Ne.symm other) _).trans same) (fun t same => ?_)
      (fun c t other same => (withdrawIf_engine_other (Ne.symm other) _).trans same) rfl
    rw [withdrawIf_self, same]
    exact fun h w x run => absurd ⟨h, w, x, same ▸ run⟩ staged

/-! ## Silences (R78, R79, R139) -/

/-- A channel's record once a silence is in force there: a beacon that is due is dropped and counts afresh (R78, R139). -/
theorem Channel.silenced_of_pos {n : Nat} (pos : 0 < n) (k : Fin 8) (now : Quad) (x : Channel) :
    x.silenced n k now = { x with
      silenceRemaining := n, silenceCutoff := k
      beacon := if x.beacon = .due then (if x.settings.beaconInterval = 0 then .off else .counting now) else x.beacon } := by
  rw [Channel.silenced, if_neg (Nat.pos_iff_ne_zero.1 pos)]
  dsimp only
  split
  · rfl
  · rfl

theorem Channel.silenced_engine (n : Nat) (k : Fin 8) (now : Quad) (x : Channel) :
    (x.silenced n k now).engine = x.engine := by
  unfold Channel.silenced
  split
  · rfl
  · split <;> rfl

theorem Channel.silences_silenced {n : Nat} {k p : Fin 8} {now : Quad} {x : Channel} :
    (x.silenced n k now).silences p = true ↔ 0 < n ∧ k ≤ p := by
  rw [Channel.silences, Bool.and_eq_true, decide_eq_true_iff, decide_eq_true_iff]
  rcases Nat.eq_zero_or_pos n with rfl | pos
  · exact ⟨fun both => absurd both.1 (Nat.lt_irrefl 0), fun both => absurd both.1 (Nat.lt_irrefl 0)⟩
  · rw [Channel.silenced_of_pos pos]

/-- The test with which a silence written on a channel withdraws its exchange (R79). -/
def silencedAt (c : Chan) (s : State) (e : Entry) : Bool := (s.chan c).silences e.precedence

theorem writeSilence_eq (c : Chan) (n : Nat) (k : Fin 8) (s : State) :
    writeSilence c n k s = withdrawIf (silencedAt c) c (s.updChan c (Channel.silenced n k s.time.counter)) := rfl

theorem silencedAt_written {n : Nat} {k : Fin 8} {e : Entry} :
    silencedAt c (s.updChan c (Channel.silenced n k s.time.counter)) e = true ↔ 0 < n ∧ k ≤ e.precedence := by
  rw [silencedAt, State.chan_updChan_same]
  exact Channel.silences_silenced

theorem writeSilence_of_not_covers {n : Nat} {k : Fin 8}
    (free : ∀ h w z, (s.chan c).engine = .staged h w z → ¬ (0 < n ∧ k ≤ (s.entry h).precedence)) :
    writeSilence c n k s = s.updChan c (Channel.silenced n k s.time.counter) := by
  rw [writeSilence_eq]
  refine withdrawIf_self fun h w x staged => Bool.eq_false_iff.2 fun covers => free h w x ?_ (silencedAt_written.1 covers)
  rwa [State.chan_updChan_same, Channel.silenced_engine] at staged

theorem writeSilence_of_covers {n : Nat} {k : Fin 8} {w z : Nat} (pos : 0 < n)
    (staged : (s.chan c).engine = .staged h w z) (covers : k ≤ (s.entry h).precedence) :
    writeSilence c n k s = withdraw c (s.updChan c (Channel.silenced n k s.time.counter)) := by
  have still : ((s.updChan c (Channel.silenced n k s.time.counter)).chan c).engine = .staged h w z := by
    rw [State.chan_updChan_same, Channel.silenced_engine, staged]
  rw [writeSilence_eq, withdrawIf_of_staged still]
  exact if_pos (silencedAt_written.2 ⟨pos, covers⟩)

theorem withdraw_sameTables (c : Chan) (s : State) : s.SameTables (withdraw c s) := (State.Turned.withdraw c s).sameTables

/-! ## A HOLD received (R75) -/

theorem applyHold_of_unknown {toAll : Bool} {n : Nat} {k : Fin 8} {call : Call} (unknown : s.findStation call = none) :
    applyHold c toAll call n k s = s := by
  simp only [applyHold, unknown]

theorem applyHold_of_known {toAll : Bool} {n : Nat} {k : Fin 8} {call : Call} {i : Index} {st : Station}
    (found : s.findStation call = some i) (record : s.station i = some st) : applyHold c toAll call n k s =
      if (toAll && st.netControl) = true then writeSilence c n k s else writeHold i n k s := by
  simp only [applyHold, found, record, Option.any_some]

/-! ## The ends (R80, R88) -/

theorem takeHoldEnd_of_due {i : Index} {st : Station} (record : s.station i = some st) (due : st.holdEndDue = true) :
    takeHoldEnd i s = conclude (s.setStation i (some { st with holdEndDue := false })) := by
  rw [takeHoldEnd, record, Option.any_some, if_pos due, State.updStation, record]
  rfl

theorem takeRehold_of_due (due : (s.chan c).rehold = some 0) : takeRehold c s =
    conclude (if s.congestion = .congested then queueOwnHold c (stopRehold c s) else stopRehold c s) := if_pos due

/-- Settles O50. -/
theorem holdSilenceAndReholdEnd : Obligations.HoldSilenceAndReholdEnd := by
  unfold Obligations.HoldSilenceAndReholdEnd
  refine ⟨fun s => ⟨fun i st record due => ?_, fun c due => ?_⟩, fun s c due => ?_, fun s c toAll call n k => ?_⟩
  · exact ⟨congrArg Host.Outcome.next (takeHoldEnd_of_due record due), .conclude _⟩
  · exact ⟨congrArg Host.Outcome.next (if_pos due), .conclude _⟩
  · refine ⟨_, congrArg Host.Outcome.next (takeRehold_of_due due), fun congested => ?_, fun normal => ?_⟩
    · rw [if_pos congested, queueOwnHold, stopRehold, State.updChan_updChan]
      exact .conclude _
    · rw [if_neg (by rw [normal]; exact nofun)]
      exact .conclude _
  · intro t
    refine ⟨applyHold_of_unknown, fun i st found record all control => ?silence, fun i st found record apart => ?hold⟩
    case silence =>
      have written : t = writeSilence c n k s := by
        rw [show t = applyHold c toAll call n k s from rfl, applyHold_of_known found record, all, control]
        rfl
      intro x y
      have silenced (pos : 0 < n) : s.updChan c (Channel.silenced n k s.time.counter) = s.setChan c y :=
        congrArg (s.setChan c) (Channel.silenced_of_pos pos k s.time.counter x)
      refine ⟨fun zero => ?_, fun pos low => ?_, fun h w z pos staged covers => ?_⟩
      · rw [written, writeSilence_of_not_covers fun h w z _ both => Nat.ne_of_gt both.1 zero, zero]
        rfl
      · rw [written, writeSilence_of_not_covers fun h w z staged both => not_le.2 (low h w z staged) both.2, silenced pos]
      · rw [written, writeSilence_of_covers pos staged covers, silenced pos]
        have chan : (s.setChan c y).chan c = y := by rw [State.chan_setChan, if_pos rfl]
        have still : ((s.setChan c y).chan c).engine = .staged h w z := by rw [chan]; exact staged
        obtain ⟨-, -, -, -, others⟩ := withdraw_spec still
        have record := withdraw_chan c c (s.setChan c y)
        rw [if_pos rfl, chan] at record
        refine ⟨record.trans ?_, withdraw_returns still, others, withdraw_sameTables c (s.setChan c y)⟩
        rw [show y.engine = .staged h w z from staged]
        rfl
    case hold =>
      have written : t = writeHold i n k s := by
        rw [show t = applyHold c toAll call n k s from rfl, applyHold_of_known found record]
        rcases apart with one | other
        · rw [one]; rfl
        · rw [other, Bool.and_false]; rfl
      intro r covers
      rw [written]
      obtain ⟨here, others⟩ := writeHold_station (n := n) (k := k) record
      exact ⟨here, others, fun free => writeHold_of_not_covers record free,
        fun d h w z staged held covered => writeHold_withdraws record staged held covered,
        fun d stays => writeHold_continues record stays⟩

end

end Sys2Proof.Machine
end

/-! # CLEAR CHANNELS (R90, R108, R186)

The clear acts on one channel after another. What it does to the rest of the part is the release of the entries reserved
(`State.Frees`), with the congestion change that each release brings. -/

section
namespace Sys2Proof.Machine

/-! ## The entries that a clear frees (R25, R32, R83) -/

/-- `t` follows from `s` by the release of the entries `freed`, in that order, with the congestion that the counts then give,
and by routing. -/
structure State.Frees (freed : List Handle) (s t : State) : Prop where
  tables : s.SameTables t
  response : t.response = s.response
  entry : ∀ k, k ∉ freed → (s.entry k).SameMessage (t.entry k)
  others : ∀ k, ¬ s.Waits k → t.entry k = (if k ∈ freed then Entry.free else s.entry k) ∧ ¬ t.Waits k
  entries : t.freeEntries = s.freeEntries + freed.length
  moreBlocks : s.freeBlocks ≤ t.freeBlocks
  blocks : freed.Nodup → t.freeBlocks = s.freeBlocks + (freed.map fun h => (s.entry h).blockCount).sum
  congestion : freed = [] → t.congestion = s.congestion ∧ t.congestionChanged = s.congestionChanged
  normal : freed ≠ [] → s.own.Ordered → t.HasRoom → t.congestion = .normal
  changed : t.congestion ≠ s.congestion ∨ s.congestionChanged = true → t.congestionChanged = true
  congested : s.congestion = .congested → ¬ t.HasRoom → t.congestion = .congested

namespace State.Frees

section
variable {a b : List Handle} {s t u : State} {c : Chan}

theorem of_rerouted (h : s.Rerouted t) : s.Frees [] t where
  tables := h.tables
  response := by rw [← h.rest]
  entry k _ := h.entry k
  others k idle := by rw [if_neg List.not_mem_nil]; exact h.others k idle
  entries := by rw [← h.rest]; rfl
  moreBlocks := by rw [← h.rest]
  blocks _ := by rw [← h.rest]; rfl
  congestion _ := by rw [← h.rest]; exact ⟨rfl, rfl⟩
  normal nonempty := absurd rfl nonempty
  changed := by
    rw [← h.rest]
    rintro (differs | set)
    · exact absurd rfl differs
    · exact set
  congested := by
    rw [← h.rest]
    exact fun congested _ => congested

theorem of_turned (h : s.Turned t) : s.Frees [] t := .of_rerouted (.of_turned h)

theorem own (h : s.Frees a t) : t.own = s.own := h.tables.2.1

/-- Where no entry has been released the counts stand; so room after is room before. -/
theorem hasRoom_of_nil (h : s.Frees [] t) (room : t.HasRoom) : s.HasRoom := by
  have entries : t.freeEntries = s.freeEntries := h.entries
  have blocks : t.freeBlocks = s.freeBlocks := h.blocks List.nodup_nil
  rwa [State.HasRoom, h.own, entries, blocks] at room

/-- Room only grows. -/
theorem not_hasRoom (h : s.Frees a t) (tight : ¬ t.HasRoom) : ¬ s.HasRoom := fun room => tight <| by
  obtain ⟨entries, blocks⟩ := room
  rw [State.HasRoom, h.own, h.entries]
  exact ⟨entries.trans (Nat.le_add_right ..), blocks.trans h.moreBlocks⟩

theorem blockCount (h : s.Frees a t) {k : Handle} (kept : k ∉ a) : (t.entry k).blockCount = (s.entry k).blockCount :=
  (h.entry k kept).blockCount

theorem trans (h : s.Frees a t) (g : t.Frees b u) : s.Frees (a ++ b) u where
  tables := h.tables.trans g.tables
  response := g.response.trans h.response
  entry k kept := by
    obtain ⟨notA, notB⟩ := not_or.1 (mt List.mem_append.2 kept)
    exact (h.entry k notA).trans (g.entry k notB)
  others k idle := by
    obtain ⟨same, idle'⟩ := h.others k idle
    obtain ⟨same', idle''⟩ := g.others k idle'
    refine ⟨?_, idle''⟩
    rw [same', same]
    simp only [List.mem_append]
    by_cases inB : k ∈ b
    · rw [if_pos inB, if_pos (.inr inB)]
    · rw [if_neg inB]
      exact if_congr (or_iff_left inB).symm rfl rfl
  entries := by rw [g.entries, h.entries, List.length_append, Nat.add_assoc]
  moreBlocks := h.moreBlocks.trans g.moreBlocks
  blocks unique := by
    obtain ⟨uniqueA, uniqueB, apart⟩ := List.nodup_append.1 unique
    have same : (b.map fun h => (t.entry h).blockCount) = b.map fun h => (s.entry h).blockCount :=
      List.map_congr_left fun k mem => h.blockCount fun mem' => apart k mem' k mem rfl
    rw [g.blocks uniqueB, h.blocks uniqueA, same, List.map_append, List.sum_append, Nat.add_assoc]
  congestion none := by
    obtain ⟨rfl, rfl⟩ := List.append_eq_nil_iff.1 none
    obtain ⟨same, changed⟩ := h.congestion rfl
    obtain ⟨same', changed'⟩ := g.congestion rfl
    exact ⟨same'.trans same, changed'.trans changed⟩
  normal nonempty ordered room := by
    cases b with
    | nil =>
      rw [(g.congestion rfl).1]
      exact h.normal (fun none => nonempty (by rw [none]; rfl)) ordered (g.hasRoom_of_nil room)
    | cons k b => exact g.normal nofun (h.own ▸ ordered) room
  changed since := by
    by_cases same : u.congestion = t.congestion
    · exact g.changed (.inr (h.changed (since.imp_left fun differs stands => differs (same.trans stands))))
    · exact g.changed (.inl same)
  congested was tight := g.congested (h.congested was (g.not_hasRoom tight)) tight

theorem turned (h : s.Frees a t) (last : t.Turned u) : s.Frees a u := by
  have all := h.trans (.of_turned last)
  rwa [List.append_nil] at all

end

end State.Frees

/-! ## One reservation released by a clear (R90) -/

section
variable {s t : State} {c d : Chan} {h : Handle}

theorem releaseQuietly_of_none (none : (s.chan c).receiver.reservation = none) : releaseQuietly c s = s := by
  rw [releaseQuietly, none]

theorem releaseQuietly_of_some (reserved : (s.chan c).receiver.reservation = some h) :
    releaseQuietly c s = (freeEntry h s).markCongestion := by
  rw [releaseQuietly, reserved]

theorem State.markCongestion_rest (s : State) : s.markCongestion =
    { s with congestion := s.congestionNow, congestionChanged := s.markCongestion.congestionChanged } := by
  unfold State.markCongestion
  split
  · next same => rw [same]
  · rfl

theorem State.markCongestion_changed (s : State) :
    s.congestionNow ≠ s.congestion ∨ s.congestionChanged = true → s.markCongestion.congestionChanged = true := by
  unfold State.markCongestion
  split
  · next same => exact fun since => since.resolve_left fun differs => differs same
  · exact fun _ => rfl

theorem State.congestionNow_of_hasRoom (ordered : s.own.Ordered) (room : s.HasRoom) : s.congestionNow = .normal := by
  cases was : s.congestion with
  | congested => exact congestionNow_of_congested_high was room
  | normal =>
    obtain ⟨-, -, entries, -, blocks, -⟩ := ordered
    refine congestionNow_of_normal_not_low was ?_
    rintro (low | low)
    · exact absurd (entries.trans room.1) (not_le.2 low)
    · exact absurd (blocks.trans room.2) (not_le.2 low)

theorem State.Frees.markCongestion (h : Handle) (s : State) : s.Frees [h] (freeEntry h s).markCongestion := by
  have waits (k : Handle) : (freeEntry h s).markCongestion.Waits k ↔ s.Waits k := by
    rw [State.markCongestion_rest]
    have collection (q : Collection) : (freeEntry h s).collection q = s.collection q := by cases q <;> rfl
    exact or_congr (exists_congr fun q => by rw [← collection q]; cases q <;> exact .rfl) .rfl
  have entry (k : Handle) : (freeEntry h s).markCongestion.entry k = if h = k then Entry.free else s.entry k := by
    rw [State.markCongestion_rest]
    exact State.entry_setEntry s h k Entry.free
  have changed := (freeEntry h s).markCongestion_changed
  have room : (freeEntry h s).markCongestion.HasRoom ↔ (freeEntry h s).HasRoom := by
    rw [State.markCongestion_rest]
    exact .rfl
  have now : (freeEntry h s).markCongestion.congestion = (freeEntry h s).congestionNow := by
    rw [State.markCongestion_rest]
  refine ⟨?_, ?_, fun k kept => ?_, fun k idle => ⟨?_, fun w => idle ((waits k).1 w)⟩, ?_, ?_, fun _ => ?_, nofun,
    fun _ ordered free => ?_, fun since => ?_, fun was tight => ?_⟩
  · rw [State.markCongestion_rest]
    exact ⟨rfl, rfl, rfl, rfl, rfl, rfl, rfl⟩
  · rw [State.markCongestion_rest]
    rfl
  · rw [entry, if_neg fun same : h = k => kept (same ▸ List.mem_singleton_self h)]
    exact .rfl' _
  · rw [entry]
    exact if_congr (eq_comm.trans List.mem_singleton.symm) rfl rfl
  · rw [State.markCongestion_rest]
    rfl
  · rw [State.markCongestion_rest]
    exact Nat.le_add_right ..
  · rw [State.markCongestion_rest]
    rfl
  · rw [now]
    exact State.congestionNow_of_hasRoom (s := freeEntry h s) ordered (room.1 free)
  · rw [now] at since
    exact changed since
  · rw [now]
    exact congestionNow_of_congested_not_high (s := freeEntry h s) was fun free => tight (room.2 free)

/-- The entry that a channel's frame in reception reserves, as a list. -/
def Channel.reserved (x : Channel) : List Handle := x.receiver.reservation.toList

theorem State.Frees.releaseQuietly (c : Chan) (s : State) : s.Frees (s.chan c).reserved (releaseQuietly c s) := by
  unfold Channel.reserved
  cases reserved : (s.chan c).receiver.reservation with
  | none => rw [releaseQuietly_of_none reserved]; exact .of_turned (.refl s)
  | some h => rw [releaseQuietly_of_some reserved]; exact .markCongestion h s

theorem releaseQuietly_chan (c d : Chan) (s : State) : (releaseQuietly c s).chan d = s.chan d := by
  unfold releaseQuietly
  split
  · exact State.markCongestion_chan _ d
  · rfl

end

end Sys2Proof.Machine
end

/-! # CLEAR CHANNELS, channel by channel (R90, R108, R186) -/

section
namespace Sys2Proof.Machine

section
variable {s t : State} {c d : Chan} {h : Handle}

/-! ## The clear of one channel -/

theorem clearChannel_eq (c : Chan) (s : State) : clearChannel c s =
    (releaseQuietly c (cutTransmitter c (endExchange c s))).updChan c (Channel.clearedRecord s.time.counter) := rfl

theorem cutTransmitter_receiver (c d : Chan) (s : State) :
    ((cutTransmitter c s).chan d).receiver = (s.chan d).receiver := by
  rw [cutTransmitter, State.chan_updChan]
  split
  · next here => subst here; rfl
  · rfl

theorem Channel.clearedRecord_exchange (now : Quad) (x : Channel) :
    (x.clearedRecord now).queue = x.queue ∧ (x.clearedRecord now).engine = x.engine := ⟨rfl, rfl⟩

/-- The clear of a channel frees the entry that its frame in reception reserves (R108). -/
theorem State.Frees.clearChannel (c : Chan) (s : State) : s.Frees (s.chan c).reserved (clearChannel c s) := by
  have ended : s.Rerouted (cutTransmitter c (endExchange c s)) :=
    (State.Rerouted.of_turned (.endExchange c s)).trans (.of_updChan _ c _ ⟨rfl, rfl⟩)
  have released := State.Frees.releaseQuietly c (cutTransmitter c (endExchange c s))
  rw [Channel.reserved, cutTransmitter_receiver, endExchange_receiver] at released
  have all := ((State.Frees.of_rerouted ended).trans released).trans
    (.of_rerouted (.of_updChan _ c (Channel.clearedRecord s.time.counter) (Channel.clearedRecord_exchange ..)))
  rwa [List.nil_append, List.append_nil] at all

theorem State.Frees.ifEnabled (c : Chan) (s : State) :
    s.Frees (if (s.chan c).enabled then (s.chan c).reserved else []) (ifEnabled Machine.clearChannel c s) := by
  unfold Machine.ifEnabled
  split
  · exact .clearChannel c s
  · exact .of_turned (.refl s)

theorem clearChannel_chan_other (other : d ≠ c) (s : State) : (clearChannel c s).chan d = (endExchange c s).chan d := by
  rw [clearChannel_eq, State.chan_updChan_other _ (Ne.symm other), releaseQuietly_chan, cutTransmitter,
    State.chan_updChan_other _ (Ne.symm other)]

/-- The clear of one channel may move entries in another's queue and touches nothing else there (R108). -/
theorem ifEnabled_clear_other (other : d ≠ c) (s : State) :
    { (ifEnabled clearChannel c s).chan d with queue := (s.chan d).queue } = s.chan d := by
  unfold ifEnabled
  split
  · have moved := ((State.Moved.endExchange c s).chan d).eq
    rw [endExchange_engine_other other] at moved
    rw [clearChannel_chan_other other, moved]
  · rfl

/-- A channel's record as CLEAR CHANNELS leaves it, but for the own frames that come after (R90, R108). -/
def Channel.clearedOut (x : Channel) (now : Quad) (q : List Handle) : Channel :=
  Channel.clearedRecord now { x with transmitter := x.transmitter.cut x.settings, engine := .idle, queue := q }

theorem clearChannel_chan (c : Chan) (s : State) :
    ∃ q, (clearChannel c s).chan c = (s.chan c).clearedOut s.time.counter q := by
  have moved := ((State.Moved.endExchange c s).chan c).eq
  rw [State.ListensBut.endExchange_idle] at moved
  refine ⟨((endExchange c s).chan c).queue, ?_⟩
  rw [clearChannel_eq, State.chan_updChan_same, releaseQuietly_chan, cutTransmitter, State.chan_updChan_same, moved]
  rfl

theorem Channel.SameLine.clearedOut {x y : Channel} (line : x.SameLine y) (now : Quad) (q : List Handle) :
    y.clearedOut now q = x.clearedOut now q := by
  have cut : y.transmitter.cut y.settings = x.transmitter.cut x.settings := by rw [line.settings, line.onAir.cut]
  unfold Channel.clearedOut
  rw [cut, line.eq]
  rfl

/-! ## All channels -/

theorem Channel.SameLine.jamReached {x y : Channel} (line : x.SameLine y) : y.jamReached = x.jamReached := by
  rw [line.eq]
  rfl

theorem Channel.SameLine.jamTaken {x y : Channel} (line : x.SameLine y) : x.jamTaken.SameLine y.jamTaken := by
  unfold Channel.jamTaken
  rw [line.jamReached]
  split
  · exact ⟨by rw [line.eq]; rfl, line.onAir, line.pause⟩
  · exact line

theorem forChans_takeJam_chan (c : Chan) (s : State) : (s.chan c).jamTaken.SameLine ((forChans takeJam s).chan c) := by
  refine forChans_at (P := fun t => (s.chan c).SameLine (t.chan c)) (Q := fun t => (s.chan c).jamTaken.SameLine (t.chan c)) c
    (fun d t other line => line.trans ?_) (fun t line => line.jamTaken.trans (takeJam_chan c t))
    (fun d t other line => line.trans ?_) (.rfl' _)
  all_goals
    have turned := (takeJam_turned d t).chan c
    rwa [State.chan_updChan_other t other] at turned

theorem forChans_takeJam_rerouted (s : State) : s.Rerouted (forChans takeJam s) :=
  .forChans (fun c t => (State.Rerouted.of_updChan t c _ (Channel.jamTaken_exchange _)).trans
    (.of_turned (takeJam_turned c t))) s

/-- The part once every enabled channel has been cleared, before the own frames (R108). -/
def emptied (s : State) : State := forChans (ifEnabled clearChannel) (forChans takeJam s)

theorem ifEnabled_clear_time (c : Chan) (s : State) : (ifEnabled clearChannel c s).time = s.time := by
  obtain ⟨-, -, -, time, -⟩ := (State.Frees.ifEnabled c s).tables
  exact time

theorem Channel.sameLine_of_queue {x y : Channel} (queue : { y with queue := x.queue } = x) : x.SameLine y :=
  Channel.SameButExchange.sameLine (by rw [Channel.SameButExchange, ← queue])

theorem Channel.eq_of_queue {x y : Channel} (queue : { y with queue := x.queue } = x) : y = { x with queue := y.queue } := by
  rw [← queue]

theorem Channel.jamTaken_enabled (x : Channel) : x.jamTaken.enabled = x.enabled :=
  (congrArg Channel.enabled x.jamTaken_rest : _)

theorem emptied_chan (enabled : (s.chan c).enabled = true) :
    ∃ q, (emptied s).chan c = (s.chan c).jamTaken.clearedOut s.time.counter q := by
  have time := (forChans_takeJam_rerouted s).tables
  obtain ⟨-, -, -, time, -⟩ := time
  refine forChans_at (P := fun t => (s.chan c).jamTaken.SameLine (t.chan c) ∧ t.time = s.time)
    (Q := fun t => ∃ q, t.chan c = (s.chan c).jamTaken.clearedOut s.time.counter q) c
    (fun d t other before => ?_) (fun t before => ?_) (fun d t other cleared => ?_) ⟨forChans_takeJam_chan c s, time⟩
  · obtain ⟨line, time⟩ := before
    exact ⟨line.trans (Channel.sameLine_of_queue (ifEnabled_clear_other (Ne.symm other) t)),
      (ifEnabled_clear_time d t).trans time⟩
  · obtain ⟨line, time⟩ := before
    have on : (t.chan c).enabled = true := line.enabled.trans ((s.chan c).jamTaken_enabled.trans enabled)
    obtain ⟨q, cleared⟩ := clearChannel_chan c t
    exact ⟨q, by rw [ifEnabled, if_pos on, cleared, line.clearedOut, time]⟩
  · obtain ⟨q, cleared⟩ := cleared
    have same := ifEnabled_clear_other (Ne.symm other) t
    refine ⟨((ifEnabled clearChannel d t).chan c).queue, ?_⟩
    rw [cleared] at same
    exact Channel.eq_of_queue same

theorem emptied_line (disabled : (s.chan c).enabled = false) : (s.chan c).SameLine ((emptied s).chan c) := by
  have jam : (s.chan c).jamTaken = s.chan c := by
    have waits : (s.chan c).jamReached = false := by rw [Channel.jamReached, disabled]; rfl
    rw [Channel.jamTaken, waits]
    rfl
  have first := forChans_takeJam_chan c s
  rw [jam] at first
  refine forChans_keeps (P := fun t => (s.chan c).SameLine (t.chan c)) (fun d t line => ?_) first
  by_cases here : d = c
  · subst here
    rw [ifEnabled, if_neg (by rw [line.enabled, disabled]; exact Bool.false_ne_true)]
    exact line
  · exact line.trans (Channel.sameLine_of_queue (ifEnabled_clear_other (Ne.symm here) t))

/-- The entries reserved on enabled channels. -/
def State.reservedAt (s : State) (c : Chan) : List Handle := if (s.chan c).enabled then (s.chan c).reserved else []

theorem ifEnabled_clear_reservedAt (other : d ≠ c) (s : State) :
    (ifEnabled clearChannel c s).reservedAt d = s.reservedAt d := by
  have same := Channel.eq_of_queue (ifEnabled_clear_other other s)
  rw [State.reservedAt, State.reservedAt, Channel.reserved, Channel.reserved, same]

theorem forChans_takeJam_reservedAt (c : Chan) (s : State) : (forChans takeJam s).reservedAt c = s.reservedAt c := by
  have line := forChans_takeJam_chan c s
  have receiver : (s.chan c).jamTaken.receiver = (s.chan c).receiver :=
    (congrArg Channel.receiver (s.chan c).jamTaken_rest : _)
  rw [State.reservedAt, State.reservedAt, Channel.reserved, Channel.reserved, line.receiver, line.enabled, receiver,
    Channel.jamTaken_enabled]

theorem State.Frees.emptied (s : State) :
    s.Frees (s.reservedAt 0 ++ s.reservedAt 1 ++ s.reservedAt 2 ++ s.reservedAt 3) (emptied s) := by
  have jammed := State.Frees.of_rerouted (forChans_takeJam_rerouted s)
  have turn (c : Chan) (t : State) : t.Frees (t.reservedAt c) (Machine.ifEnabled Machine.clearChannel c t) := .ifEnabled c t
  have all := (((jammed.trans (turn 0 _)).trans (turn 1 _)).trans (turn 2 _)).trans (turn 3 _)
  rw [ifEnabled_clear_reservedAt (by decide), ifEnabled_clear_reservedAt (by decide),
    ifEnabled_clear_reservedAt (by decide), ifEnabled_clear_reservedAt (by decide),
    ifEnabled_clear_reservedAt (by decide), ifEnabled_clear_reservedAt (by decide), forChans_takeJam_reservedAt,
    forChans_takeJam_reservedAt, forChans_takeJam_reservedAt, forChans_takeJam_reservedAt, List.nil_append] at all
  exact all

end

end Sys2Proof.Machine
end

/-! # CLEAR CHANNELS: the exchanges, the own frames, and the whole (R39 to R45, R90, R108) -/

section
namespace Sys2Proof.Machine

section
variable {s t : State} {c d : Chan} {h k : Handle}

/-! ## An entry whose exchange a clear ends -/

theorem State.SameAt.endReturned (other : h ≠ k) (o : LastOutcome) (s : State) : s.SameAt h (s.endReturned k o) := by
  unfold State.endReturned
  split
  · exact .closeEntry other _ _
  · exact .returnEntry other _

theorem State.SameAt.endRecorded (other : h ≠ k) (v : Verdict) (s : State) : s.SameAt h (s.endRecorded k v) := by
  cases v with
  | accept | duplicate | noroute => exact .closeEntry other _ _
  | full => exact .endReturned other _ s

theorem State.KeepsAt.endExchange (free : (s.chan d).engine.entry? ≠ some h) : s.KeepsAt h (endExchange d s) := by
  refine ⟨?_, fun e held => ?_⟩
  · have idle := State.SameAt.idleEngine h d s
    cases run : (s.chan d).engine with
    | idle => rw [Machine.endExchange, run]; exact .refl h s
    | staged k w x => rw [Machine.endExchange, run]; exact .withdraw free
    | awaiting k n =>
      have other : h ≠ k := fun same => free (by rw [run, same]; rfl)
      rw [show Machine.endExchange d s = (Machine.idleEngine d s).endReturned k .aborted by
        simp only [Machine.endExchange, run]]
      exact idle.trans (.endReturned other _ _)
    | sending k r =>
      have other : h ≠ k := fun same => free (by rw [run, same]; rfl)
      cases r with
      | none =>
        rw [show Machine.endExchange d s = (Machine.idleEngine d s).endReturned k .aborted by
          simp only [Machine.endExchange, run]]
        exact idle.trans (.endReturned other _ _)
      | some v =>
        rw [show Machine.endExchange d s = (Machine.idleEngine d s).endRecorded k v by
          simp only [Machine.endExchange, run]]
        exact idle.trans (.endRecorded other v _)
  · by_cases here : e = d
    · subst here
      rw [State.ListensBut.endExchange_idle] at held
      cases held
    · rwa [endExchange_engine_other here] at held

theorem State.KeepsAt.freeEntry (other : h ≠ k) (s : State) : s.KeepsAt h (freeEntry k s) :=
  (State.KeepsAt.updEntry other fun _ => Entry.free).trans ⟨⟨rfl, fun q => by cases q <;> exact .rfl⟩, fun _ held => held⟩

theorem State.KeepsAt.releaseQuietly (kept : (s.chan d).receiver.reservation ≠ some h) :
    s.KeepsAt h (releaseQuietly d s) := by
  unfold Machine.releaseQuietly
  split
  · next k reserved =>
    have other : h ≠ k := fun same => kept (reserved.trans (congrArg some same.symm))
    exact (State.KeepsAt.freeEntry other s).trans (.tested (.markCongestion _))
  · exact .refl h s

/-- After its exchange has ended, the rest of a channel's clear leaves an entry that its frame did not reserve. -/
theorem State.KeepsAt.clearRest (kept : (s.chan d).receiver.reservation ≠ some h) :
    (Machine.endExchange d s).KeepsAt h (clearChannel d s) := by
  have cut : (Machine.endExchange d s).KeepsAt h (cutTransmitter d (Machine.endExchange d s)) := .updChan ⟨rfl, rfl⟩
  have released : (cutTransmitter d (Machine.endExchange d s)).KeepsAt h _ := .releaseQuietly (d := d) (by
    rw [cutTransmitter_receiver, endExchange_receiver]; exact kept)
  exact (cut.trans released).trans (.updChan (Channel.clearedRecord_exchange ..))

theorem State.KeepsAt.clearChannel (free : (s.chan d).engine.entry? ≠ some h)
    (kept : (s.chan d).receiver.reservation ≠ some h) : s.KeepsAt h (clearChannel d s) :=
  (State.KeepsAt.endExchange free).trans (.clearRest kept)

theorem State.mem_reservedAt (enabled : (s.chan d).enabled = true) :
    h ∈ s.reservedAt d ↔ (s.chan d).receiver.reservation = some h := by
  rw [State.reservedAt, if_pos enabled, Channel.reserved, Option.mem_toList]

/-- Clearing a channel reserves nothing. -/
theorem ifEnabled_clear_not_reserved (kept : h ∉ s.reservedAt c) : h ∉ (ifEnabled clearChannel d s).reservedAt c := by
  by_cases here : c = d
  · subst here
    unfold ifEnabled
    split
    · obtain ⟨q, cleared⟩ := clearChannel_chan c s
      rw [State.reservedAt, Channel.reserved, cleared]
      split <;> exact List.not_mem_nil
    · exact kept
  · rwa [ifEnabled_clear_reservedAt here]

theorem ifEnabled_clear_engine_other (other : c ≠ d) : ((ifEnabled clearChannel d s).chan c).engine = (s.chan c).engine := by
  have same := Channel.eq_of_queue (ifEnabled_clear_other other s)
  rw [same]

/-- A JAMMED that is taken on a channel leaves an exchange that it does not withdraw (R103). -/
theorem takeJam_keepsAt (held : s.HeldAlone c h)
    (stays : (s.chan d).jamReached = false ∨ ∀ w x, (s.chan c).engine ≠ .staged h w x) :
    s.KeepsAt h (takeJam d s) ∧ ((takeJam d s).chan c).engine = (s.chan c).engine := by
  by_cases here : d = c
  · subst here; exact takeJam_heldAlone held stays
  · cases reached : (s.chan d).jamReached with
    | false => rw [takeJam_of_not_reached reached]; exact ⟨.refl h s, rfl⟩
    | true =>
      have running := stays.resolve_left fun waits => Bool.false_ne_true (waits.symm.trans reached)
      obtain ⟨engine, apart, alone⟩ := held
      have unstaged (k : Handle) (w x : Nat) : (s.chan c).engine ≠ .staged k w x := fun staged => by
        rw [staged] at engine
        exact running w x (Option.some.inj engine ▸ staged)
      have noted : s.KeepsAt h (s.updChan d Channel.jam) := .updChan ⟨rfl, rfl⟩
      have notedEngine (e : Chan) : ((s.updChan d Channel.jam).chan e).engine = (s.chan e).engine := updChan_engine rfl e
      have keeps : s.KeepsAt h (jammedOf d s) := noted.trans (.withdraw (by rw [notedEngine]; exact alone d here))
      have jamEngine : ((jammedOf d s).chan c).engine = (s.chan c).engine := by
        rw [jammedOf, withdraw_engine, if_neg (Ne.symm here), notedEngine]
      have swept : (jammedOf d s).KeepsAt h (sweep (jammedOf d s)) := .sweep (keeps.apart apart) fun e w x staged => by
        have held : (s.chan e).engine.entry? = some h := keeps.engine e (by rw [staged]; rfl)
        by_cases home : e = c
        · subst home
          rw [jamEngine] at staged
          exact running w x staged
        · exact alone e home held
      have kept : ((sweep (jammedOf d s)).chan c).engine = (s.chan c).engine := by
        rw [sweep_engine_of_not_staged, jamEngine]
        intro k w x
        rw [jamEngine]
        exact unstaged k w x
      rw [takeJam_of_reached reached]
      refine ⟨(keeps.trans swept).trans (.conclude ((keeps.trans swept).apart apart)), ?_⟩
      rw [conclude_engine_of_ne_idle, kept]
      rw [kept]
      intro idle
      rw [idle] at engine
      cases engine

theorem forChans_takeJam_keepsAt (held : s.HeldAlone c h)
    (stays : (∀ d, (s.chan d).jamReached = false) ∨ ∀ w x, (s.chan c).engine ≠ .staged h w x) :
    s.KeepsAt h (forChans takeJam s) ∧ ((forChans takeJam s).chan c).engine = (s.chan c).engine := by
  rcases stays with none | running
  · rw [forChans_self fun d => takeJam_of_not_reached (none d)]
    exact ⟨.refl h s, rfl⟩
  · refine forChans_keeps (P := fun t => s.KeepsAt h t ∧ (t.chan c).engine = (s.chan c).engine) (fun d t same => ?_)
      ⟨.refl h s, rfl⟩
    obtain ⟨keeps, engine⟩ := same
    obtain ⟨keeps', engine'⟩ := takeJam_keepsAt (d := d) (held.of_keeps keeps engine)
      (.inr fun w x staged => running w x (engine ▸ staged))
    exact ⟨keeps.trans keeps', engine'.trans engine⟩

theorem State.EndedAs.free {e : Entry} {x : EntryState} {o : LastOutcome} (ended : s.EndedAs h e x o) (d : Chan) :
    (s.chan d).engine.entry? ≠ some h := fun held => by
  by_cases ready : x = .ready
  · obtain ⟨r, k, -, stands⟩ := ended.2 ready
    exact stands.free d held
  · exact (ended.1 ready).2 (.inr ⟨d, held⟩)

/-- The exchange of an enabled channel leaves its entry as R39 to R41 and R45 have it, whatever the clears of the others do. -/
theorem emptied_ended (enabled : (s.chan c).enabled = true) (held : s.HeldAlone c h) (kept : ∀ d, h ∉ s.reservedAt d)
    (stays : (∀ d, (s.chan d).jamReached = false) ∨ ∀ w x, (s.chan c).engine ≠ .staged h w x) {x : EntryState}
    {o : LastOutcome} (ending : (s.chan c).engine.ending (s.entry h).cancelled = some (x, o)) :
    (emptied s).EndedAs h (s.entry h) x o := by
  obtain ⟨jamKeeps, jamEngine⟩ := forChans_takeJam_keepsAt held stays
  refine forChans_at (P := fun t => s.KeepsAt h t ∧ (t.chan c).engine = (s.chan c).engine ∧ (t.chan c).enabled = true ∧
      ∀ d, h ∉ t.reservedAt d)
    (Q := fun t => t.EndedAs h (s.entry h) x o ∧ ∀ d, h ∉ t.reservedAt d) c
    (fun d t other before => ?_) (fun t before => ?_) (fun d t other ended => ?_)
    ⟨jamKeeps, jamEngine, ?_, fun d => ?_⟩ |>.1
  · obtain ⟨keeps, engine, on, kept⟩ := before
    refine ⟨keeps.trans ?_, (ifEnabled_clear_engine_other (Ne.symm other)).trans engine, ?_,
      fun e => ifEnabled_clear_not_reserved (kept e)⟩
    · unfold ifEnabled
      split
      · next enabled =>
        exact .clearChannel (fun held' => held.2.2 d other (keeps.engine d held'))
          fun reserved => kept d ((State.mem_reservedAt enabled).2 reserved)
      · exact .refl h t
    · rw [Channel.eq_of_queue (ifEnabled_clear_other (Ne.symm other) t)]
      exact on
  · obtain ⟨keeps, engine, on, kept⟩ := before
    refine ⟨?_, fun e => ifEnabled_clear_not_reserved (kept e)⟩
    have ended := endExchange_ended (held.of_keeps keeps engine) (by rw [engine, keeps.same.1]; exact ending)
    rw [keeps.same.1] at ended
    rw [ifEnabled, if_pos on]
    exact ended.endedAs.keeps (.clearRest fun reserved => kept c ((State.mem_reservedAt on).2 reserved))
  · obtain ⟨ended, kept⟩ := ended
    refine ⟨?_, fun e => ifEnabled_clear_not_reserved (kept e)⟩
    unfold ifEnabled
    split
    · next enabled =>
      refine ended.keeps (.clearChannel (fun held' => ?_) fun reserved => kept d ((State.mem_reservedAt enabled).2 reserved))
      exact ended.free d held'
    · exact ended
  · exact (forChans_takeJam_chan c s).enabled.trans ((s.chan c).jamTaken_enabled.trans enabled)
  · rw [forChans_takeJam_reservedAt]
    exact kept d

end

end Sys2Proof.Machine
end

/-! # CLEAR CHANNELS: the own frames that it brings, and the request (R90, R108, R186) -/

section
namespace Sys2Proof.Machine

section
variable {s t u : State} {c d : Chan} {h k : Handle}

/-! ## The own frames (R90) -/

/-- The own frames that a clear queues on an enabled channel whose queue is empty. -/
def clearedFrames (was now : Congestion) (own : OwnStation) : List ControlFrame :=
  if now = .congested then [.ownHold own.holdTime own.holdCutoff]
  else if was = .congested ∧ own.releaseMode = true then [.ownHold 0 own.holdCutoff] else []

theorem Channel.queueOwn_of_empty {x : Channel} (empty : x.control = []) (n : Nat) (k : Fin 8) :
    x.queueOwn n k = { x with control := [.ownHold n k] } := by
  rw [Channel.queueOwn_joins (by rw [empty]; exact nofun) (by rw [empty]; decide), empty]
  rfl

theorem clearFrames_chan (was : Congestion) (enabled : (s.chan c).enabled = true) (empty : (s.chan c).control = []) :
    (clearFrames was s).chan c = { s.chan c with control := clearedFrames was s.congestion s.own } := by
  unfold clearFrames clearedFrames
  split
  · rw [show forChans (ifEnabled queueOwnHold) s = enterCongested s from rfl, enterCongested_chan, if_pos enabled,
      Channel.queueOwn_of_empty empty]
  · split
    · rw [forChans_release_chan, if_pos enabled, Channel.queueOwn_of_empty empty]
    · rw [← empty]

theorem clearFrames_chan_of_disabled (was : Congestion) (disabled : (s.chan c).enabled = false) :
    (clearFrames was s).chan c = s.chan c := by
  have off : ¬ (s.chan c).enabled = true := by rw [disabled]; exact Bool.false_ne_true
  unfold clearFrames
  split
  · rw [show forChans (ifEnabled queueOwnHold) s = enterCongested s from rfl, enterCongested_chan, if_neg off]
  · split
    · rw [forChans_release_chan, if_neg off]
    · rfl

theorem Channel.queueOwn_exchange (n : Nat) (k : Fin 8) (x : Channel) :
    (x.queueOwn n k).queue = x.queue ∧ (x.queueOwn n k).engine = x.engine :=
  ⟨(Channel.queueOwn_sameButOwn n k x).queue, (Channel.queueOwn_sameButOwn n k x).engine⟩

/-- Own frames queued touch no exchange. -/
theorem clearFrames_rerouted (was : Congestion) (s : State) : s.Rerouted (clearFrames was s) := by
  have hold (c : Chan) (t : State) : t.Rerouted (ifEnabled queueOwnHold c t) := by
    unfold ifEnabled
    split
    · exact .of_updChan t c _ (Channel.queueOwn_exchange ..)
    · exact .refl t
  have release (c : Chan) (t : State) : t.Rerouted (ifEnabled queueOwnRelease c t) := by
    unfold ifEnabled
    split
    · exact .of_updChan t c _ (Channel.queueOwn_exchange ..)
    · exact .refl t
  unfold clearFrames
  split
  · exact .forChans hold s
  · split
    · exact .forChans release s
    · exact .refl s

theorem clearFrames_keepsAt (was : Congestion) (h : Handle) (s : State) : s.KeepsAt h (clearFrames was s) := by
  have hold (c : Chan) (t : State) : t.KeepsAt h (ifEnabled queueOwnHold c t) := by
    unfold ifEnabled
    split
    · exact .updChan (Channel.queueOwn_exchange ..)
    · exact .refl h t
  have release (c : Chan) (t : State) : t.KeepsAt h (ifEnabled queueOwnRelease c t) := by
    unfold ifEnabled
    split
    · exact .updChan (Channel.queueOwn_exchange ..)
    · exact .refl h t
  unfold clearFrames
  split
  · exact .forChans fun c t _ => hold c t
  · split
    · exact .forChans fun c t _ => release c t
    · exact .refl h s

/-! ## The part cleared -/

/-- The part as CLEAR CHANNELS has it before its considerations and its answer, where a channel is enabled (R108). -/
def cleared (s : State) : State := sweep (clearFrames s.congestion (emptied s))

theorem clearChannels_of_enabled (some : s.anyEnabled = true) :
    clearChannels s = considerAll ((cleared s).answer .done []) := if_pos some

theorem clearChannels_of_disabled (none : ∀ c, (s.chan c).enabled = false) : clearChannels s = s.answer .done [] := by
  refine if_neg fun some => ?_
  obtain ⟨c, enabled⟩ := State.anyEnabled_iff.1 some
  exact Bool.false_ne_true ((none c).symm.trans enabled)

/-- The entries reserved on enabled channels, in the order of the channels. -/
def State.reservedAll (s : State) : List Handle :=
  s.reservedAt 0 ++ s.reservedAt 1 ++ s.reservedAt 2 ++ s.reservedAt 3

theorem State.Frees.cleared (s : State) : s.Frees s.reservedAll (cleared s) := by
  have all := (State.Frees.emptied s).trans (.of_rerouted (clearFrames_rerouted s.congestion (Machine.emptied s)))
  rw [List.append_nil] at all
  exact all.turned (.sweep _)

theorem State.not_mem_reservedAll (kept : h ∉ s.reservedAll) (c : Chan) : h ∉ s.reservedAt c := by
  simp only [State.reservedAll, List.mem_append, not_or] at kept
  obtain ⟨⟨⟨at0, at1⟩, at2⟩, at3⟩ := kept
  rcases chan_cases c with rfl | rfl | rfl | rfl <;> assumption

theorem cleared_ended (enabled : (s.chan c).enabled = true) (held : s.HeldAlone c h) (kept : h ∉ s.reservedAll)
    (stays : (∀ d, (s.chan d).jamReached = false) ∨ ∀ w x, (s.chan c).engine ≠ .staged h w x) {x : EntryState}
    {o : LastOutcome} (ending : (s.chan c).engine.ending (s.entry h).cancelled = some (x, o)) :
    (cleared s).EndedHome h (s.entry h) x o :=
  ((emptied_ended enabled held (State.not_mem_reservedAll kept) stays ending).keeps (clearFrames_keepsAt ..)).sweep

theorem State.Rerouted.congestion (h : s.Rerouted t) : t.congestion = s.congestion := by rw [← h.rest]

/-- The own frames of a cleared channel do not depend on when they are written. -/
theorem Channel.clearedOut_framed (x : Channel) (now : Quad) (q p : List Handle) (f : List ControlFrame) :
    { { x.clearedOut now q with control := f } with queue := p, engine := .idle } =
      { x.clearedOut now p with control := f } := rfl

theorem emptied_congestion (s : State) : (cleared s).congestion = (emptied s).congestion := by
  have frames := clearFrames_rerouted s.congestion (emptied s)
  exact (State.Turned.congestion (.sweep _)).trans frames.congestion

theorem cleared_chan (enabled : (s.chan c).enabled = true) : ∃ q, (cleared s).chan c =
    { (s.chan c).jamTaken.clearedOut s.time.counter q with
      control := clearedFrames s.congestion (cleared s).congestion s.own } := by
  obtain ⟨q, chan⟩ := emptied_chan enabled
  have on : ((emptied s).chan c).enabled = true := by rw [chan]; exact (s.chan c).jamTaken_enabled.trans enabled
  have empty : ((emptied s).chan c).control = [] := by rw [chan]; rfl
  have framed := clearFrames_chan s.congestion on empty
  have idle : ((clearFrames s.congestion (emptied s)).chan c).engine = .idle := by rw [framed, chan]; rfl
  have swept := ((State.Moved.sweep (clearFrames s.congestion (emptied s))).chan c).eq
  rw [sweep_engine_of_not_staged (by rw [idle]; exact nofun), idle, framed, (State.Frees.emptied s).own, chan] at swept
  rw [Channel.clearedOut_framed, ← emptied_congestion] at swept
  exact ⟨_, swept⟩

theorem cleared_line (disabled : (s.chan c).enabled = false) : (s.chan c).SameLine ((cleared s).chan c) := by
  have line := emptied_line disabled
  have framed := clearFrames_chan_of_disabled s.congestion (line.enabled.trans disabled)
  have swept := (State.Turned.sweep (clearFrames s.congestion (emptied s))).chan c
  rw [framed] at swept
  exact line.trans swept

theorem State.reservedAll_eq (s : State) : [(0 : Chan), 1, 2, 3].filterMap (fun c =>
    if (s.chan c).enabled then (s.chan c).receiver.reservation else none) = s.reservedAll := by
  have one (c : Chan) : (if (s.chan c).enabled then (s.chan c).receiver.reservation else none).toList =
      s.reservedAt c := by
    rw [State.reservedAt, apply_ite Option.toList]
    rfl
  rw [List.filterMap_eq_flatMap_toList]
  simp only [List.flatMap_cons, List.flatMap_nil, one, State.reservedAll, List.append_nil, List.append_assoc]

/-- What the end of the request leaves of the releases, its answer aside. -/
theorem State.Frees.answered {a : List Handle} {r : Result} {b : List Byte} (frees : s.Frees a u)
    (turned : (u.answer r b).Turned t) : s.Frees a (t.answer u.response.result u.response.data) :=
  frees.turned (turned.answer u.response.result u.response.data)

/-- A request that leaves no pause that stood before it ends with the arbiters. -/
theorem takeRequest_of_no_pause_after {effect : State → State}
    (none : ∀ c, (s.chan c).abortPause = true → ((effect s).chan c).abortPause = false) :
    takeRequest effect s = arbitrateAll (effect s) := by
  rw [takeRequest, forChans_self fun c => ?_]
  rw [endPause]
  cases was : (s.chan c).abortPause with
  | false => rfl
  | true => rw [none c was]; rfl

/-! ## The request (R186) -/

/-- What CLEAR CHANNELS does before its considerations, its answer aside: `v` from `s`. -/
structure State.ClearedTo (s v : State) : Prop where
  frees : s.Frees s.reservedAll v
  chan : ∀ c, (s.chan c).enabled = true → ∃ q, v.chan c =
    { (s.chan c).jamTaken.clearedOut s.time.counter q with control := clearedFrames s.congestion v.congestion s.own }
  line : ∀ c, (s.chan c).enabled = false → (s.chan c).SameLine (v.chan c)
  ended : ∀ c h, (s.chan c).enabled = true → s.HeldAlone c h → h ∉ s.reservedAll →
    ((∀ d, (s.chan d).jamReached = false) ∨ ∀ w x, (s.chan c).engine ≠ .staged h w x) →
    v.LeftExchange (s.chan c).engine h (s.entry h)

theorem considerAll_of_disabled (none : ∀ c, (s.chan c).enabled = false) : considerAll s = s :=
  forChans_self fun c => if_neg fun runs => by
    obtain ⟨-, on, -, -⟩ := Channel.considers_iff.1 runs
    exact Bool.false_ne_true ((none c).symm.trans on)

theorem clearChannels_clearedTo (s : State) :
    ∃ v, clearChannels s = considerAll (v.answer .done []) ∧ s.ClearedTo v := by
  cases some : s.anyEnabled with
  | true =>
    exact ⟨cleared s, clearChannels_of_enabled some, .cleared s, fun c enabled => cleared_chan enabled,
      fun c disabled => cleared_line disabled, fun c h enabled held kept stays =>
        State.leftExchange_of_ended fun x o ending => cleared_ended enabled held kept stays ending⟩
  | false =>
    have none (c : Chan) : (s.chan c).enabled = false := Bool.eq_false_iff.2 fun enabled => by
      rw [State.anyEnabled_iff.2 ⟨c, enabled⟩] at some
      cases some
    have free (c : Chan) : s.reservedAt c = [] := if_neg (by rw [none c]; exact Bool.false_ne_true)
    have empty : s.reservedAll = [] := by rw [State.reservedAll, free, free, free, free]; rfl
    have off {c : Chan} {p : Prop} (enabled : (s.chan c).enabled = true) : p :=
      absurd ((none c).symm.trans enabled) Bool.false_ne_true
    refine ⟨s, ?_, empty ▸ .of_turned (.refl s), fun c enabled => off enabled, fun c _ => .rfl' _,
      fun c h enabled => off enabled⟩
    rw [clearChannels_of_disabled none, considerAll_of_disabled]
    exact none

/-- A cleared record in the terms of the statement: the own frames, and busy as the inputs stand. -/
theorem Channel.clearedOut_eq (x : Channel) (now : Quad) (q : List Handle) (f : List ControlFrame) :
    let y := { x with
      sampler := .lineRecovery, receiver := .hunt, clearTime := 0, busyLength := 0, jammed := false,
      jamChanged := x.jamChanged || x.jammed || x.jamReached, owed := none, silenceRemaining := 0,
      silenceCutoff := 0, silenceEndDue := false, rehold := none, engine := .idle, abortPause := false,
      transmitter := x.transmitter.cut x.settings,
      beacon := if x.settings.beaconInterval = 0 then .off else .counting now, control := f }
    { x.jamTaken.clearedOut now q with control := f } = { y with busy := y.busyNow, queue := q } := by
  have jam : x.jamTaken = { x with jammed := x.jammed || x.jamReached, jamChanged := x.jamChanged || x.jamReached } := by
    rw [← x.jamTaken_jammed, ← x.jamTaken_jamChanged]
    exact (congrArg (fun y : Channel => { y with jammed := x.jamTaken.jammed, jamChanged := x.jamTaken.jamChanged })
      x.jamTaken_rest : _)
  have changed : (x.jamChanged || x.jamReached || (x.jammed || x.jamReached)) =
      (x.jamChanged || x.jammed || x.jamReached) := by
    cases x.jamChanged <;> cases x.jammed <;> cases x.jamReached <;> rfl
  dsimp only
  rw [jam, ← changed]
  rfl

/-- Settles O27: the clears of the four channels, their own frames, a sweep, and the end of the request. -/
theorem clearChannelsClears : Obligations.ClearChannelsClears := by
  unfold Obligations.ClearChannelsClears
  intro s held
  have all : held = s.reservedAll := s.reservedAll_eq
  rw [all]
  obtain ⟨v, taken, clear⟩ := clearChannels_clearedTo s
  obtain ⟨t, run⟩ : ∃ t, takeRequest clearChannels s = t := ⟨_, rfl⟩
  have considered := State.Turned.considerAll (v.answer .done [])
  have turned : (v.answer .done []).Turned t := considered.trans (taken ▸ run ▸ takeRequest_turned _ s)
  have frees := clear.frees
  have ends := frees.answered turned
  refine ⟨v.answer .done [], t, congrArg Host.Outcome.next run, turned, rfl, frees.tables, fun quiet => ?pause,
    fun c enabled => ?record, fun c disabled => (clear.line c disabled).trans (turned.chan c),
    fun c h enabled alone kept stays => clear.ended c h enabled alone kept stays, fun h mem idle => ?freed, frees.entries,
    frees.blocks, frees.congestion, fun some was ordered entries blocks => ?normal, fun was tight => ?congested,
    fun k kept => ⟨frees.entry k kept, fun idle => ?kept⟩, fun none => ?none⟩
  case pause =>
    rw [← run, takeRequest_of_no_pause_after fun c paused => ?_, taken]
    · rfl
    · have enabled : (s.chan c).enabled = true := by_contra fun off =>
        Bool.false_ne_true ((quiet c (Bool.eq_false_iff.2 off)).symm.trans paused)
      obtain ⟨q, record⟩ := clear.chan c enabled
      rw [taken]
      refine Bool.eq_false_iff.2 fun set => ?_
      have before := (considered.chan c).pause set
      rw [State.answer_chan, record] at before
      cases before
  case record =>
    obtain ⟨q, record⟩ := clear.chan c enabled
    rw [State.answer_chan, record, Channel.clearedOut_eq]
    rfl
  case freed =>
    have after := (ends.others h idle).1
    rw [if_pos mem] at after
    exact after
  case normal =>
    have normal := frees.normal some ordered ⟨by rw [frees.own]; exact entries, by rw [frees.own]; exact blocks⟩
    exact ⟨normal, frees.changed (.inl (by rw [normal, was]; exact nofun))⟩
  case congested =>
    refine frees.congested was fun room => ?_
    obtain ⟨entries, blocks⟩ := room
    rw [frees.own] at entries blocks
    exact tight.elim (not_lt.2 entries) (not_lt.2 blocks)
  case kept =>
    have after := (ends.others k idle).1
    rw [if_neg kept] at after
    exact after
  case none =>
    obtain ⟨t', run', ends'⟩ := exec_answers (i := .clearChannels) rfl (clearChannels_of_disabled none)
    obtain rfl : t' = t := Host.Outcome.next.inj (run'.symm.trans (congrArg Host.Outcome.next run))
    exact ends'

end

end Sys2Proof.Machine
end

/-! # The completion of a frame (R30, R31, R123, R126 to R129) -/

section
namespace Sys2Proof.Machine

section
variable {s t : State} {c : Chan} {h : Handle} {i : Index} {st : Station} {b : Byte} {r : Receiver} {x : Header}
  {sender : Call} {key : Key} {v : Verdict}

/-! ## Owed receipts (R128, R129) -/

theorem queueReceipt_of_room (room : (s.chan c).control.length < 4) : queueReceipt sender key v c s =
    s.setChan c { s.chan c with control := (s.chan c).control ++ [.receipt sender key v] } :=
  congrArg (s.setChan c) (if_pos room)

theorem queueReceipt_of_full (full : 4 ≤ (s.chan c).control.length) : queueReceipt sender key v c s = s :=
  s.updChan_self c _ (if_neg (not_lt.2 full))

theorem queueReceipt_entry (k : Handle) : (queueReceipt sender key v c s).entry k = s.entry k := rfl

theorem queueReceipt_control (room : (s.chan c).control.length < 4) :
    ((queueReceipt sender key v c s).chan c).control = (s.chan c).control ++ [.receipt sender key v] := by
  rw [queueReceipt_of_room room, State.chan_setChan, if_pos rfl]

theorem queueReceipt_collection (q : Collection) :
    (queueReceipt sender key v c s).collection q = s.collection q := by
  cases q with
  | unrouted => rfl
  | queue d =>
    rw [State.collection, queueReceipt, State.chan_updChan]
    split
    · next here => subst here; split <;> rfl
    · rfl

/-! ## A reserved message by its role (R30, R31, R127) -/

theorem applyTraffic_of_reserved (reserved : r.reservation = some h) :
    applyTraffic c r sender key s = arrive h c sender key s := by
  rw [applyTraffic, reserved]

theorem arrive_of_local (role : (s.entry h).role = .localDelivery) :
    arrive h c sender key s = queueReceipt sender key .accept c (arriveLocal h s) := by
  rw [arrive, role]

theorem arrive_of_relay {i : Index} (role : (s.entry h).role = .relay) (route : s.route (s.entry h) = some i) :
    arrive h c sender key s = queueReceipt sender key .accept c (s.place h) := by
  rw [arrive, role, route]

theorem arrive_of_no_route (role : (s.entry h).role = .relay) (none : s.route (s.entry h) = none) :
    arrive h c sender key s = queueReceipt sender key .noroute c (releaseEntry h s) := by
  rw [arrive, role, none]

theorem State.place_control (h : Handle) (s : State) (c : Chan) : ((s.place h).chan c).control = (s.chan c).control :=
  (congrArg Channel.control ((State.SameButPlacing.place h s).2.1 c) : _)

theorem releaseEntry_counts (h : Handle) (s : State) : (releaseEntry h s).entry h = Entry.free ∧
    (releaseEntry h s).freeEntries = s.freeEntries + 1 ∧
    (releaseEntry h s).freeBlocks = s.freeBlocks + (s.entry h).blockCount := by
  have tested := releaseEntry_tested h s
  refine ⟨?_, (congrArg State.freeEntries tested.rest : _), (congrArg State.freeBlocks tested.rest : _)⟩
  rw [releaseEntry, testCongestion_entry, freeEntry]
  exact (State.entry_setEntry s h h Entry.free).trans (if_pos rfl)

/-! ## TAIL (R123) -/

theorem collectTail_of_check (short : (s.chan c).receiver.check.length < 4) :
    collectTail c b s = if isCheckChar b then setReceiver { (s.chan c).receiver with
      check := (s.chan c).receiver.check ++ [b], position := (s.chan c).receiver.position + 1, gap := 0 } c s
    else damage c s := if_pos short

theorem collectTail_of_last (full : 4 ≤ (s.chan c).receiver.check.length) : collectTail c b s =
    if b = eot ∧ checkValue (s.chan c).receiver.check = (s.chan c).receiver.sum.toNat then completeFrame c s
    else damage c s := if_neg (not_lt.2 full)

/-! ## The refresh of the sender (R64, R66, R126) -/

theorem refreshSender_of_unknown (unknown : s.findStation sender = none) : refreshSender sender s = s := by
  rw [refreshSender, unknown]

theorem refreshSender_of_known (found : s.findStation sender = some i) : refreshSender sender s = goodFrameFrom i s := by
  rw [refreshSender, found]

theorem reachChange_own (s : State) : (reachChange s).own = s.own := (State.Turned.sweep _).own

theorem loseStation_own (i : Index) (s : State) : (loseStation i s).own = s.own := by
  unfold loseStation
  split
  · exact reachChange_own _
  · rfl

theorem refreshSender_own (sender : Call) (s : State) : (refreshSender sender s).own = s.own := by
  unfold refreshSender goodFrameFrom
  split
  · next i _ =>
    dsimp only
    split
    · exact (reachChange_own _).trans (loseStation_own i s)
    · exact loseStation_own i s
  · rfl

theorem State.setStation_self (s : State) (i : Index) : s.setStation i (s.station i) = s := by
  simp [State.setStation, State.station]

theorem State.updStation_self {f : Station → Station} (record : s.station i = some st) (same : f st = st) :
    s.updStation i f = s := by
  rw [State.updStation, record, Option.map_some, same, ← record, State.setStation_self]

theorem loseStation_of_settled (record : s.station i = some st) (settled : st.overLimitDue = false) :
    loseStation i s = s := by
  have stands : ((s.station i).any (·.lost)) = false := by
    rw [record, Option.any_some, Station.lost, settled]
    rfl
  rw [loseStation, stands]
  exact State.updStation_self record (by rw [← settled])

theorem State.updStation_of_some (f : Station → Station) (record : s.station i = some st) :
    s.updStation i f = s.setStation i (some (f st)) := by
  rw [State.updStation, record]
  rfl

/-- A good frame changes the reach state of an UNHEARD station that it makes HEARD, and no other (R66). -/
theorem Station.refreshed_reach_iff (st : Station) :
    st.refreshed.reach ≠ st.reach ↔ st.reach = .unheard ∧ st.refreshed.reach = .heard := by
  cases reach : st.reach with
  | heard =>
    rw [Station.refreshed_of_heard reach]
    exact ⟨fun differs => absurd reach differs, nofun⟩
  | unheard =>
    cases st.refreshed.reach with
    | heard => exact ⟨fun _ => ⟨rfl, rfl⟩, fun _ => nofun⟩
    | unheard => exact ⟨fun differs => absurd rfl differs, nofun⟩

theorem goodFrameFrom_of_settled (record : s.station i = some st) (settled : st.overLimitDue = false) :
    goodFrameFrom i s = if st.refreshed.reach ≠ st.reach then reachChange (s.setStation i (some st.refreshed))
      else s.setStation i (some st.refreshed) := by
  have written := State.updStation_of_some Station.refreshed record
  have after : (s.setStation i (some st.refreshed)).station i = some st.refreshed := by
    rw [State.station_setStation, if_pos rfl]
  simp only [goodFrameFrom, loseStation_of_settled record settled, written, after, record, Option.any_some,
    Bool.and_eq_true, decide_eq_true_eq, Station.refreshed_reach_iff]

theorem reachChange_station (j : Index) (s : State) : (reachChange s).station j = s.station j :=
  (State.Turned.sweep _).station j

theorem reachChange_reachChanged (s : State) : (reachChange s).reachChanged = true :=
  (State.Turned.sweep { s with reachChanged := true }).reachChanged

theorem goodFrameFrom_station (record : s.station i = some st) (settled : st.overLimitDue = false) (j : Index) :
    (goodFrameFrom i s).station j = if i = j then some st.refreshed else s.station j := by
  rw [goodFrameFrom_of_settled record settled, apply_ite (State.station · j), reachChange_station, ite_self,
    State.station_setStation]

/-! ## The completion (R126, R127) -/

theorem State.handsOn_iff : s.handsOn x = true ↔
    (x.toCall = .all ∨ x.toCall = .station s.own.call) ∧ x.fromCall ≠ s.own.call := by
  simp [State.handsOn]

theorem completeFrame_of_parsed (parsed : (s.chan c).receiver.parsed = some x) : completeFrame c s =
    setReceiver .hunt c (if (x.toCall = .all ∨ x.toCall = .station s.own.call) ∧ x.fromCall ≠ s.own.call then
      applyFrame c (s.chan c).receiver x (refreshSender x.fromCall s) else refreshSender x.fromCall s) := by
  simp only [completeFrame, parsed, State.handsOn_iff, refreshSender_own]

theorem applyFrame_traffic {to_ : Call} {p : Fin 8} {d : Call} {n : Nat} (toCall : x.toCall = .station to_)
    (fields : x.fields = .traffic p key d n) : applyFrame c r x s = applyTraffic c r x.fromCall key s := by
  simp only [applyFrame, toCall, fields]

theorem applyFrame_receipt {to_ : Call} (toCall : x.toCall = .station to_) (fields : x.fields = .receipt key v) :
    applyFrame c r x s = applyReceipt key v x.fromCall s := by
  simp only [applyFrame, toCall, fields]

theorem applyFrame_hold {n : Nat} {k : Fin 8} (fields : x.fields = .hold n k) :
    applyFrame c r x s = applyHold c (decide (x.toCall = .all)) x.fromCall n k s := by
  simp only [applyFrame, fields]

theorem applyFrame_beacon (fields : x.fields = .beacon) : applyFrame c r x s = s := by
  simp only [applyFrame, fields]

theorem applyFrame_all (toCall : x.toCall = .all) (fields : ∀ n k, x.fields ≠ .hold n k) : applyFrame c r x s = s := by
  cases named : x.fields with
  | traffic | receipt | beacon => simp only [applyFrame, toCall, named]
  | hold n k => exact absurd named (fields n k)

end

/-- Settles O33. -/
theorem arrivalByRole : Obligations.ArrivalByRole := by
  unfold Obligations.ArrivalByRole
  refine ⟨fun s c r sender key h reserved room => ?arrival, fun s c r sender key => ?applied,
    fun s c b tail other => ?tail, fun s c x parsed => ?completion, fun s c r x => ?kinds⟩
  case arrival =>
    intro t e
    have arrived : t = arrive h c sender key s := applyTraffic_of_reserved reserved
    rw [arrived]
    refine ⟨fun role => ?_, fun i role route => ?_, fun role none => ?_⟩
    · rw [arrive_of_local role, queueReceipt_entry, arriveLocal, State.entry_updEntry, if_pos rfl,
        queueReceipt_control (s := s.updEntry h _) room]
      exact ⟨rfl, rfl⟩
    · have placed := s.place_entry h
      have there := State.mem_collection_place s h
      have stations : (queueReceipt sender key .accept c (s.place h)).stations = (s.place h).stations := rfl
      rw [route] at placed there
      rw [arrive_of_relay role route, queueReceipt_entry, queueReceipt_collection, State.collectionFor_congr stations,
        queueReceipt_control (by rw [State.place_control]; exact room), State.place_control]
      exact ⟨placed, there, rfl⟩
    · obtain ⟨free, entries, blocks⟩ := releaseEntry_counts h s
      rw [arrive_of_no_route role none]
      exact ⟨free, entries, blocks, rfl⟩
  case applied =>
    refine ⟨fun h reserved role => (applyTraffic_of_reserved reserved).trans (arrive_of_local role),
      fun h i reserved role route => (applyTraffic_of_reserved reserved).trans (arrive_of_relay role route),
      fun v none owed => by rw [applyTraffic, none, owed], fun none owed => by rw [applyTraffic, none, owed],
      fun v => ⟨queueReceipt_of_room, queueReceipt_of_full⟩⟩
  case tail =>
    intro r t
    have taken : t = collectTail c b s := receiveCharacter_tail tail other
    rw [taken]
    refine ⟨fun short check => ?_, fun short bad => ?_, fun full last good => ?_, fun full wrong => ?_⟩
    · rw [collectTail_of_check short, if_pos check]; rfl
    · rw [collectTail_of_check short, bad]; rfl
    · exact (collectTail_of_last full).trans (if_pos ⟨last, good⟩)
    · exact (collectTail_of_last full).trans (if_neg fun both => wrong.elim (fun ne => ne both.1) fun ne => ne both.2)
  case completion =>
    intro u hunting mine
    refine ⟨fun toUs apart => ?_, fun not => ?_, refreshSender_of_unknown, fun i st found record settled => ?_⟩
    · rw [completeFrame_of_parsed parsed, if_pos ⟨toUs, apart⟩]; rfl
    · rw [completeFrame_of_parsed parsed, if_neg fun both => not.elim (fun ne => ne both.1) both.2]; rfl
    · have refreshed : u = goodFrameFrom i s := refreshSender_of_known found
      rw [refreshed]
      refine ⟨?_, fun j other => ?_, fun same => ?_, fun differs => ?_⟩
      · rw [goodFrameFrom_station record settled, if_pos rfl]
      · rw [goodFrameFrom_station record settled, if_neg (Ne.symm other)]
      · rw [goodFrameFrom_of_settled record settled, if_neg (not_not.2 same)]
      · rw [goodFrameFrom_of_settled record settled, if_pos differs, reachChange_reachChanged]
  case kinds =>
    exact ⟨fun to_ p key d n => applyFrame_traffic, fun to_ key v => applyFrame_receipt, fun n k => applyFrame_hold,
      applyFrame_beacon, applyFrame_all⟩

end Sys2Proof.Machine
end

/-! # Which headers are valid, and the decision of a TRAFFIC header (R112, R113, R119 to R121) -/

section
namespace Sys2Proof.Machine

/-! ## Calls and addresses (R112) -/

section
variable {b : Byte} {f : List Byte} {d : Call}

theorem isCallChar_iff : isCallChar b = true ↔ 0x41 ≤ b ∧ b ≤ 0x5A ∨ 0x30 ≤ b ∧ b ≤ 0x39 ∨ b = 0x2F := by
  simp [isCallChar, or_assoc]

theorem isCallChar_ne_space (call : isCallChar b = true) : b ≠ space := by
  rintro rfl
  revert call
  decide

/-- What a call field holds: the call and the spaces that pad it (R112). -/
theorem parseCall_eq_some_iff : parseCall f = some d ↔ 1 ≤ d.length ∧ d.length ≤ 8 ∧
    (∀ b ∈ d, isCallChar b = true) ∧ f = d ++ List.replicate (8 - d.length) space := by
  rw [parseCall]
  simp only [Option.ite_none_right_eq_some, Option.some.injEq]
  constructor
  · rintro ⟨⟨length, nonempty, chars, blank⟩, rfl⟩
    obtain ⟨tail, split⟩ := List.takeWhile_prefix (p := fun x => decide (x ≠ space)) (l := f)
    generalize f.takeWhile (fun x => decide (x ≠ space)) = call at *
    subst split
    rw [List.length_append] at length
    rw [List.drop_left' rfl] at blank
    refine ⟨List.length_pos_iff.2 nonempty, by omega, List.all_eq_true.1 chars, ?_⟩
    rw [show 8 - call.length = tail.length by omega,
      ← List.eq_replicate_of_mem fun b mem => beq_iff_eq.1 (List.all_eq_true.1 blank b mem)]
  · rintro ⟨pos, short, chars, rfl⟩
    have taken : (d ++ List.replicate (8 - d.length) space).takeWhile (· ≠ space) = d := by
      rw [List.takeWhile_append_of_pos fun b mem => decide_eq_true (isCallChar_ne_space (chars b mem))]
      cases 8 - d.length with
      | zero => exact List.append_nil d
      | succ n => rw [List.replicate_succ, List.takeWhile_cons_of_neg (by decide), List.append_nil]
    rw [taken, List.drop_left' rfl]
    refine ⟨⟨?_, List.length_pos_iff.1 pos, List.all_eq_true.2 chars, ?_⟩, rfl⟩
    · rw [List.length_append, List.length_replicate]; omega
    · exact List.all_eq_true.2 fun b mem => beq_iff_eq.2 (List.eq_of_mem_replicate mem)

theorem parseCall_allStations : parseCall allStationsField = none := by decide

theorem parseAddress_station_iff : parseAddress f = some (.station d) ↔ parseCall f = some d := by
  unfold parseAddress
  split
  · next all => rw [all, parseCall_allStations]; exact ⟨nofun, nofun⟩
  · simp

theorem parseAddress_all_iff : parseAddress f = some .all ↔ f = allStationsField := by
  unfold parseAddress
  split
  · next all => exact ⟨fun _ => all, fun _ => rfl⟩
  · next other => simp [other]

/-! ## Digit fields (R113) -/

/-- A field holds digits that spell a number of a range. -/
def Spells (f : List Byte) (lo hi n : Nat) : Prop := (∀ b ∈ f, isDigit b = true) ∧
  n = f.foldl (fun m b => 10 * m + (b.toNat - 0x30)) 0 ∧ lo ≤ n ∧ n ≤ hi

theorem parseDigits_eq_some_iff {n : Nat} : parseDigits f = some n ↔ (∀ b ∈ f, isDigit b = true) ∧
    n = f.foldl (fun m b => 10 * m + (b.toNat - 0x30)) 0 := by
  rw [parseDigits, Option.ite_none_right_eq_some, List.all_eq_true, Option.some.injEq, eq_comm (a := n)]

theorem parseDigitsIn_eq_some_iff {lo hi n : Nat} : parseDigitsIn lo hi f = some n ↔ Spells f lo hi n := by
  rw [parseDigitsIn, Option.filter_eq_some_iff, parseDigits_eq_some_iff, Bool.and_eq_true, decide_eq_true_iff,
    decide_eq_true_iff, Spells, and_assoc]

theorem parsePrecedence_eq_some_iff {p : Fin 8} : parsePrecedence f = some p ↔ Spells f 0 7 p.val := by
  rw [parsePrecedence, Option.bind_eq_some_iff, Spells]
  constructor
  · rintro ⟨n, digits, fits⟩
    obtain ⟨all, value⟩ := parseDigits_eq_some_iff.1 digits
    split at fits
    · next small =>
      obtain rfl := Option.some.inj fits
      exact ⟨all, value, Nat.zero_le _, Nat.le_of_lt_succ small⟩
    · cases fits
  · rintro ⟨all, value, -, small⟩
    exact ⟨p.val, parseDigits_eq_some_iff.2 ⟨all, value⟩, dif_pos p.isLt⟩

theorem verdictOf_eq_some_iff {v : Verdict} : verdictOf f = some v ↔
    (f, v) ∈ [([(0x41 : Byte)], Verdict.accept), ([0x44], .duplicate), ([0x4E], .noroute), ([0x46], .full)] := by
  simp only [List.mem_cons, List.not_mem_nil, or_false, Prod.mk.injEq]
  unfold verdictOf
  split
  · cases v <;> decide
  · cases v <;> decide
  · cases v <;> decide
  · cases v <;> decide
  · next accept duplicate noroute full =>
    refine ⟨nofun, ?_⟩
    rintro (⟨rfl, -⟩ | ⟨rfl, -⟩ | ⟨rfl, -⟩ | ⟨rfl, -⟩)
    · exact absurd rfl accept
    · exact absurd rfl duplicate
    · exact absurd rfl noroute
    · exact absurd rfl full

theorem parseKey_eq_some_iff {g : List Byte} {key : Key} :
    parseKey f g = some key ↔ parseCall f = some key.call ∧ Spells g 1 9999 key.serial := by
  simp only [parseKey, Option.bind_eq_some_iff, Option.map_eq_some_iff, parseDigitsIn_eq_some_iff]
  exact ⟨fun ⟨call, called, n, spelled, same⟩ => same ▸ ⟨called, spelled⟩, fun ⟨called, spelled⟩ =>
    ⟨key.call, called, key.serial, spelled, rfl⟩⟩

end

/-! ## Headers (R119) -/

section
variable {h : List Byte} {k : FrameKind} {x : Header} {y : HeaderFields}

theorem parseFields_traffic_iff : parseFields .traffic h = some y ↔ ∃ p key d n, y = .traffic p key d n ∧
    Spells (positions h 19 19) 0 7 p.val ∧ parseCall (positions h 20 27) = some key.call ∧
    Spells (positions h 28 31) 1 9999 key.serial ∧ parseCall (positions h 32 39) = some d ∧
    Spells (positions h 40 42) 0 960 n := by
  simp only [parseFields, Option.bind_eq_some_iff, Option.map_eq_some_iff, parsePrecedence_eq_some_iff,
    parseKey_eq_some_iff, parseDigitsIn_eq_some_iff]
  constructor
  · rintro ⟨p, precedence, key, ⟨call, serial⟩, d, destination, n, length, rfl⟩
    exact ⟨p, key, d, n, rfl, precedence, call, serial, destination, length⟩
  · rintro ⟨p, key, d, n, rfl, precedence, call, serial, destination, length⟩
    exact ⟨p, precedence, key, ⟨call, serial⟩, d, destination, n, length, rfl⟩

theorem parseFields_receipt_iff : parseFields .receipt h = some y ↔ ∃ key v, y = .receipt key v ∧
    parseCall (positions h 19 26) = some key.call ∧ Spells (positions h 27 30) 1 9999 key.serial ∧
    (positions h 31 31, v) ∈ [([(0x41 : Byte)], Verdict.accept), ([0x44], .duplicate), ([0x4E], .noroute), ([0x46], .full)] := by
  simp only [parseFields, Option.bind_eq_some_iff, Option.map_eq_some_iff, parseKey_eq_some_iff, verdictOf_eq_some_iff]
  constructor
  · rintro ⟨key, ⟨call, serial⟩, v, verdict, rfl⟩
    exact ⟨key, v, rfl, call, serial, verdict⟩
  · rintro ⟨key, v, rfl, call, serial, verdict⟩
    exact ⟨key, ⟨call, serial⟩, v, verdict, rfl⟩

theorem parseFields_hold_iff : parseFields .hold h = some y ↔ ∃ t q, y = .hold t q ∧
    Spells (positions h 19 23) 0 65535 t ∧ Spells (positions h 24 24) 0 7 q.val := by
  simp only [parseFields, Option.bind_eq_some_iff, Option.map_eq_some_iff, parsePrecedence_eq_some_iff,
    parseDigitsIn_eq_some_iff]
  constructor
  · rintro ⟨t, time, q, cutoff, rfl⟩
    exact ⟨t, q, rfl, time, cutoff⟩
  · rintro ⟨t, q, rfl, time, cutoff⟩
    exact ⟨t, time, q, cutoff, rfl⟩

theorem parseFields_beacon_iff : parseFields .beacon h = some y ↔ y = .beacon := by
  rw [parseFields, Option.some.injEq, eq_comm]

theorem parseHeader_eq_some_iff : parseHeader k h = some x ↔ parseAddress (positions h 3 10) = some x.toCall ∧
    parseCall (positions h 11 18) = some x.fromCall ∧ parseFields k h = some x.fields := by
  simp only [parseHeader, Option.bind_eq_some_iff, Option.map_eq_some_iff]
  exact ⟨fun ⟨_, address, _, call, _, fields, same⟩ => same ▸ ⟨address, call, fields⟩,
    fun ⟨address, call, fields⟩ => ⟨_, address, _, call, _, fields, rfl⟩⟩

end

/-! ## The decision of a TRAFFIC header to the own call (R120, R121) -/

section
variable {s u : State} {c : Chan} {r : Receiver} {p : Fin 8} {key : Key} {d sender : Call} {n : Nat} {h : Handle}

theorem State.refusesTraffic_iff : s.refusesTraffic p = true ↔ s.congestion = .congested ∧ s.own.holdCutoff ≤ p := by
  simp [State.refusesTraffic]

theorem decideTraffic_of_own (own : sender = s.own.call) :
    decideTraffic c r p key d n sender s = setReceiver (r.afterHeader n) c s := if_pos own

theorem decideTraffic_of_held (other : sender ≠ s.own.call) (held : (s.findKey key).isSome = true) :
    decideTraffic c r p key d n sender s = setReceiver { r.afterHeader n with owed := some .duplicate } c s :=
  (if_neg other).trans (if_pos held)

theorem decideTraffic_of_refused (other : sender ≠ s.own.call) (new : ¬ (s.findKey key).isSome = true)
    (refused : s.refusesTraffic p = true) :
    decideTraffic c r p key d n sender s = setReceiver { r.afterHeader n with owed := some .full } c s :=
  (if_neg other).trans ((if_neg new).trans (if_pos refused))

theorem decideTraffic_of_no_room (other : sender ≠ s.own.call) (new : ¬ (s.findKey key).isSome = true)
    (taken : ¬ s.refusesTraffic p = true) (full : s.allocate (s.arrivingEntry p key d n sender) = none) :
    decideTraffic c r p key d n sender s = setReceiver { r.afterHeader n with owed := some .full } c s := by
  rw [decideTraffic, if_neg other, if_neg new, if_neg taken, full]

theorem decideTraffic_of_allocated (other : sender ≠ s.own.call) (new : ¬ (s.findKey key).isSome = true)
    (taken : ¬ s.refusesTraffic p = true) (given : s.allocate (s.arrivingEntry p key d n sender) = some (h, u)) :
    decideTraffic c r p key d n sender s =
      testCongestion (setReceiver { r.afterHeader n with reservation := some h } c u) := by
  rw [decideTraffic, if_neg other, if_neg new, if_neg taken, given]

theorem testCongestion_counts (s : State) :
    (testCongestion s).freeEntries = s.freeEntries ∧ (testCongestion s).freeBlocks = s.freeBlocks :=
  have rest := (State.Tested.testCongestion s).rest
  ⟨(congrArg State.freeEntries rest : _), (congrArg State.freeBlocks rest : _)⟩

theorem completeHeader_of_traffic {to_ : Address} (parsed : r.parsed = some ⟨to_, sender, .traffic p key d n⟩) :
    completeHeader c r s = if to_ = .station s.own.call then decideTraffic c r p key d n sender s
      else setReceiver (r.afterHeader n) c s := by
  rw [completeHeader, parsed]

theorem completeHeader_of_other {x : Header} (parsed : r.parsed = some x)
    (other : ∀ p key d n, x.fields ≠ .traffic p key d n) : completeHeader c r s = setReceiver (r.afterHeader 0) c s := by
  obtain ⟨to_, sender, fields⟩ := x
  rw [completeHeader, parsed]
  cases fields with
  | traffic p key d n => exact absurd rfl (other p key d n)
  | receipt | hold | beacon => rfl

end

/-- Settles O32. -/
theorem trafficDecided : Obligations.TrafficDecided := by
  unfold Obligations.TrafficDecided
  refine ⟨fun s c r p key d n sender => ?decision, fun s c r => ?completion, fun k h x => ?header, fun f d => ?call⟩
  case decision =>
    intro r1 t held refused
    have heldIff : held ↔ (s.findKey key).isSome = true := State.findKey_isSome_iff.symm
    have refusedIff : refused ↔ s.refusesTraffic p = true := State.refusesTraffic_iff.symm
    rw [heldIff, refusedIff]
    refine ⟨decideTraffic_of_own, decideTraffic_of_held, decideTraffic_of_refused, decideTraffic_of_no_room,
      fun h u other new taken given => ?_⟩
    have decided : t = testCongestion (setReceiver { r.afterHeader n with reservation := some h } c u) :=
      decideTraffic_of_allocated other new taken given
    obtain ⟨stored, others⟩ := allocate_stores given
    obtain ⟨entries, blocks⟩ := testCongestion_counts (setReceiver { r.afterHeader n with reservation := some h } c u)
    have entry (k : Handle) : t.entry k = u.entry k := by rw [decided, testCongestion_entry]; rfl
    refine ⟨?_, (entry h).trans stored, ?_, ?_, decided, fun k ne => (entry k).trans (others k ne)⟩
    · have tested := (State.Tested.testCongestion (setReceiver { r.afterHeader n with reservation := some h } c u)).chan c
      rw [decided, tested.receiver, setReceiver_receiver]
      rfl
    · rw [decided, entries]
      exact (allocate_freeEntries given : u.freeEntries = _)
    · rw [decided, blocks]
      exact (allocate_freeBlocks given : u.freeBlocks = _)
  case completion =>
    intro on
    refine ⟨fun none => by rw [completeHeader, none], fun to_ sender p key d n parsed => ⟨fun mine => ?_, fun other => ?_⟩,
      fun x parsed other => completeHeader_of_other parsed other⟩
    · rw [completeHeader_of_traffic parsed, if_pos mine]
    · rw [completeHeader_of_traffic parsed, if_neg other]; rfl
  case header =>
    intro at_ number
    obtain ⟨to_, sender, fields⟩ := x
    rw [parseHeader_eq_some_iff]
    refine and_congr_right fun _ => and_congr_right fun _ => ?_
    cases k with
    | traffic =>
      rw [parseFields_traffic_iff]
      cases fields with
      | traffic p key d n =>
        refine ⟨?_, fun valid => ⟨p, key, d, n, rfl, valid⟩⟩
        rintro ⟨p', key', d', n', same, valid⟩
        cases same
        exact valid
      | receipt | hold | beacon => exact ⟨fun ⟨_, _, _, _, same, _⟩ => (nomatch same), nofun⟩
    | receipt =>
      rw [parseFields_receipt_iff]
      cases fields with
      | receipt key v =>
        refine ⟨?_, fun valid => ⟨key, v, rfl, valid⟩⟩
        rintro ⟨key', v', same, valid⟩
        cases same
        exact valid
      | traffic | hold | beacon => exact ⟨fun ⟨_, _, same, _⟩ => (nomatch same), nofun⟩
    | hold =>
      rw [parseFields_hold_iff]
      cases fields with
      | hold t q =>
        refine ⟨?_, fun valid => ⟨t, q, rfl, valid⟩⟩
        rintro ⟨t', q', same, valid⟩
        cases same
        exact valid
      | traffic | receipt | beacon => exact ⟨fun ⟨_, _, same, _⟩ => (nomatch same), nofun⟩
    | beacon =>
      rw [parseFields_beacon_iff]
      cases fields with
      | beacon => exact ⟨fun _ => trivial, fun _ => rfl⟩
      | traffic | receipt | hold => exact ⟨nofun, nofun⟩
  case call =>
    refine ⟨?_, parseAddress_station_iff, parseAddress_all_iff⟩
    simp only [parseCall_eq_some_iff, isCallChar_iff]
    rfl

end Sys2Proof.Machine
end

/-! # The frames that the part composes, and their reading back (R111 to R115) -/

section
namespace Sys2Proof.Machine

/-! ## Digit fields (R113, section 11.1) -/

theorem digitField_length (w n : Nat) : (digitField w n).length = w := by
  induction w generalizing n with
  | zero => rfl
  | succ w ih => rw [digitField, List.length_append, ih, List.length_singleton]

/-- The digits of a number, most significant first, each by its place. -/
theorem digitField_eq (w n : Nat) :
    digitField w n = (List.range w).map fun i => BitVec.ofNat 8 (0x30 + n / 10 ^ (w - 1 - i) % 10) := by
  induction w generalizing n with
  | zero => rfl
  | succ w ih =>
    rw [digitField, ih, List.range_succ, List.map_append, List.map_singleton]
    have last : n / 10 ^ (w + 1 - 1 - w) = n := by rw [Nat.add_sub_cancel, Nat.sub_self, Nat.pow_zero, Nat.div_one]
    rw [last]
    refine congrArg (· ++ _) (List.map_congr_left fun i mem => ?_)
    have place : w + 1 - 1 - i = (w - 1 - i) + 1 := by
      have := List.mem_range.1 mem
      omega
    rw [Nat.div_div_eq_div_mul, place, Nat.pow_succ, Nat.mul_comm 10]

theorem digit_toNat (n : Nat) : (BitVec.ofNat 8 (0x30 + n % 10)).toNat = 0x30 + n % 10 := by
  rw [BitVec.toNat_ofNat]
  omega

theorem isDigit_digit (n : Nat) : isDigit (BitVec.ofNat 8 (0x30 + n % 10)) = true := by
  rw [isDigit_iff, digit_toNat]
  omega

/-- A number that has a digit field of a width is the number that the field spells. -/
theorem spells_digitField {w n lo hi : Nat} (fits : n < 10 ^ w) (low : lo ≤ n) (high : n ≤ hi) :
    Spells (digitField w n) lo hi n := by
  have spelled : (∀ b ∈ digitField w n, isDigit b = true) ∧
      n = (digitField w n).foldl (fun m b => 10 * m + (b.toNat - 0x30)) 0 := by
    clear low high
    induction w generalizing n with
    | zero => exact ⟨nofun, Nat.lt_one_iff.1 fits⟩
    | succ w ih =>
      obtain ⟨digits, value⟩ := ih (n := n / 10) (Nat.div_lt_of_lt_mul (by rwa [← Nat.pow_succ']))
      rw [digitField, List.foldl_append, ← value]
      refine ⟨fun b mem => ?_, ?_⟩
      · rcases List.mem_append.1 mem with first | last
        · exact digits b first
        · rw [List.mem_singleton.1 last]; exact isDigit_digit n
      · rw [List.foldl_cons, List.foldl_nil, digit_toNat]
        omega
  exact ⟨spelled.1, spelled.2, low, high⟩

/-! ## Calls (R112) -/

section
variable {c : Call}

/-- A call in the terms of R112. -/
theorem parseCall_padCall (pos : 1 ≤ c.length) (short : c.length ≤ 8)
    (chars : ∀ b ∈ c, 0x41 ≤ b ∧ b ≤ 0x5A ∨ 0x30 ≤ b ∧ b ≤ 0x39 ∨ b = 0x2F) : parseCall (padCall c) = some c :=
  parseCall_eq_some_iff.2 ⟨pos, short, fun b mem => isCallChar_iff.2 (chars b mem), padCall_of_fits short⟩

end

/-! ## Frames (R111, R115) -/

/-- The check characters of a word are four. -/
theorem checkField_length (w : Half) : (checkField w).length = 4 := rfl

theorem frameOf_length (kind : Byte) (a own f : List Byte) :
    (frameOf kind a own f).length = a.length + f.length + 15 := by
  simp [frameOf, padCall_length, checkField_length]
  omega

theorem trafficFrame_length (own : Call) (e : Entry) : (trafficFrame own e).length = 47 + e.text.length := by
  rw [trafficFrame, frameOf_length]
  simp only [List.length_append, padCall_length, digitField_length]
  omega

theorem controlFrameOf_length (own : Call) (f : ControlFrame) : (controlFrameOf own f).length =
    match f with | .receipt _ _ _ => 36 | .ownHold _ _ => 29 := by
  cases f with
  | receipt a k v =>
    rw [controlFrameOf, frameOf_length]
    simp only [List.length_append, padCall_length, digitField_length]
    rfl
  | ownHold t c =>
    rw [controlFrameOf, frameOf_length]
    simp only [List.length_append, digitField_length]
    rfl

/-- The first characters of a frame after its SOH are the kind letter, the two calls, and the fields of its kind. -/
theorem frameOf_header {kind : Byte} {a own g : List Byte} {fields : List (List Byte)} {n : Nat} (address : a.length = 8)
    (size : fields.flatten.length + 17 = n) :
    ((frameOf kind a own (fields.flatten ++ g)).drop 1).take n = ([kind] :: a :: padCall own :: fields).flatten := by
  have split : (frameOf kind a own (fields.flatten ++ g)).drop 1 = ([kind] :: a :: padCall own :: fields).flatten ++
      (g ++ checkField (checkSum (kind :: (a ++ padCall own ++ (fields.flatten ++ g)))) ++ [0x04]) := by
    simp [frameOf]
  rw [split]
  refine List.take_left' ?_
  simp only [List.flatten_cons, List.length_append, List.length_singleton, padCall_length, address]
  omega

/-- A field of a header, by the lengths of the fields up to it. -/
theorem positions_flatten {fields : List (List Byte)} {lengths : List Nat} (measured : fields.map List.length = lengths)
    (k : Nat) {f : List Byte} (here : fields[k]? = some f) {a b : Nat} (start : (lengths.take k).sum = a - 2)
    (size : lengths[k]? = some (b + 1 - a)) : positions fields.flatten a b = f := field_at measured k _ _ here start size

/-- A valid call, as R112 has it. -/
def FitCall (x : Call) : Prop :=
  1 ≤ x.length ∧ x.length ≤ 8 ∧ ∀ b ∈ x, 0x41 ≤ b ∧ b ≤ 0x5A ∨ 0x30 ≤ b ∧ b ≤ 0x39 ∨ b = 0x2F

section
variable {own to_ : Call} {kind : FrameKind} {letter : Byte} {a : List Byte} {fields : List (List Byte)}

theorem FitCall.parse (valid : FitCall own) : parseCall (padCall own) = some own := by
  obtain ⟨pos, short, chars⟩ := valid
  exact parseCall_padCall pos short chars

theorem FitCall.address (valid : FitCall own) : parseAddress (padCall own) = some (.station own) :=
  parseAddress_station_iff.2 valid.parse

/-- A header that begins with a kind letter and two calls is read back where the fields of its kind are. -/
theorem parseHeader_flatten {toCall : Address} {y : HeaderFields} (address : a.length = 8)
    (reads : parseAddress a = some toCall) (valid : FitCall own)
    (given : parseFields kind ([letter] :: a :: padCall own :: fields).flatten = some y) :
    parseHeader kind ([letter] :: a :: padCall own :: fields).flatten = some ⟨toCall, own, y⟩ := by
  have measured : ([letter] :: a :: padCall own :: fields).map List.length = 1 :: 8 :: 8 :: fields.map List.length := by
    rw [List.map_cons, List.map_cons, List.map_cons, address, padCall_length, List.length_singleton]
  refine parseHeader_eq_some_iff.2 ⟨?_, ?_, given⟩
  · rw [positions_flatten measured 1 rfl rfl rfl]; exact reads
  · rw [positions_flatten measured 2 rfl rfl rfl]; exact valid.parse

theorem parseHeader_beaconFrame (valid : FitCall own) :
    parseHeader .beacon (((frameOf 0x42 allStationsField own []).drop 1).take 17) = some ⟨.all, own, .beacon⟩ := by
  have header := frameOf_header (kind := 0x42) (own := own) (g := []) (fields := []) (n := 17)
    (show allStationsField.length = 8 from rfl) rfl
  rw [show frameOf 0x42 allStationsField own [] = frameOf 0x42 allStationsField own ([].flatten ++ []) from rfl, header]
  exact parseHeader_flatten rfl (parseAddress_all_iff.2 rfl) valid rfl

theorem parseHeader_holdFrame {n : Nat} {k : Fin 8} (valid : FitCall own) (fits : n ≤ 65535) :
    parseHeader .hold (((controlFrameOf own (.ownHold n k)).drop 1).take 23) = some ⟨.all, own, .hold n k⟩ := by
  have frame : controlFrameOf own (.ownHold n k) =
      frameOf 0x48 allStationsField own ([digitField 5 n, digitField 1 k.val].flatten ++ []) := by
    simp [controlFrameOf]
  rw [frame, frameOf_header rfl (by simp [digitField_length])]
  have measured : ([[0x48], allStationsField, padCall own, digitField 5 n, digitField 1 k.val] : List (List Byte)).map
      List.length = [1, 8, 8, 5, 1] := by simp [padCall_length, digitField_length, allStationsField]
  refine parseHeader_flatten rfl (parseAddress_all_iff.2 rfl) valid (parseFields_hold_iff.2 ⟨n, k, rfl, ?_, ?_⟩)
  · rw [positions_flatten measured 3 rfl rfl rfl]
    exact spells_digitField (by omega) (Nat.zero_le n) fits
  · rw [positions_flatten measured 4 rfl rfl rfl]
    exact spells_digitField (by omega) (Nat.zero_le _) (Nat.le_of_lt_succ k.isLt)

theorem parseHeader_receiptFrame {key : Key} {v : Verdict} (valid : FitCall own) (address : FitCall to_)
    (call : FitCall key.call) (low : 1 ≤ key.serial) (high : key.serial ≤ 9999) :
    parseHeader .receipt (((controlFrameOf own (.receipt to_ key v)).drop 1).take 30) =
      some ⟨.station to_, own, .receipt key v⟩ := by
  have frame : controlFrameOf own (.receipt to_ key v) =
      frameOf 0x41 (padCall to_) own ([padCall key.call, digitField 4 key.serial, [v.letter]].flatten ++ []) := by
    simp [controlFrameOf]
  rw [frame, frameOf_header (padCall_length to_) (by simp [digitField_length, padCall_length])]
  have measured : ([[0x41], padCall to_, padCall own, padCall key.call, digitField 4 key.serial, [v.letter]] :
      List (List Byte)).map List.length = [1, 8, 8, 8, 4, 1] := by simp [padCall_length, digitField_length]
  refine parseHeader_flatten (padCall_length to_) address.address valid
    (parseFields_receipt_iff.2 ⟨key, v, rfl, ?_, ?_, ?_⟩)
  · rw [positions_flatten measured 3 rfl rfl rfl]; exact call.parse
  · rw [positions_flatten measured 4 rfl rfl rfl]
    exact spells_digitField (by omega) low high
  · rw [positions_flatten measured 5 rfl rfl rfl]
    cases v <;> decide

theorem trafficFrame_eq {e : Entry} (hop : e.lastHop = some to_) : trafficFrame own e =
    frameOf 0x54 (padCall to_) own ([digitField 1 e.precedence.val, padCall e.key.call, digitField 4 e.key.serial,
      padCall e.destination, digitField 3 e.textLength].flatten ++ e.text) := by
  simp [trafficFrame, hop]

theorem parseHeader_trafficFrame {e : Entry} (valid : FitCall own) (hop : e.lastHop = some to_) (address : FitCall to_)
    (call : FitCall e.key.call) (low : 1 ≤ e.key.serial) (high : e.key.serial ≤ 9999) (destination : FitCall e.destination)
    (short : e.textLength ≤ 960) : parseHeader .traffic (((trafficFrame own e).drop 1).take 41) =
      some ⟨.station to_, own, .traffic e.precedence e.key e.destination e.textLength⟩ := by
  rw [trafficFrame_eq hop, frameOf_header (padCall_length to_) (by simp [digitField_length, padCall_length])]
  have measured : ([[0x54], padCall to_, padCall own, digitField 1 e.precedence.val, padCall e.key.call,
      digitField 4 e.key.serial, padCall e.destination, digitField 3 e.textLength] : List (List Byte)).map List.length =
        [1, 8, 8, 1, 8, 4, 8, 3] := by simp [padCall_length, digitField_length]
  refine parseHeader_flatten (padCall_length to_) address.address valid
    (parseFields_traffic_iff.2 ⟨e.precedence, e.key, e.destination, e.textLength, rfl, ?_, ?_, ?_, ?_, ?_⟩)
  · rw [positions_flatten measured 3 rfl rfl rfl]
    exact spells_digitField (by omega) (Nat.zero_le _) (Nat.le_of_lt_succ e.precedence.isLt)
  · rw [positions_flatten measured 4 rfl rfl rfl]; exact call.parse
  · rw [positions_flatten measured 5 rfl rfl rfl]
    exact spells_digitField (by omega) low high
  · rw [positions_flatten measured 6 rfl rfl rfl]; exact destination.parse
  · rw [positions_flatten measured 7 rfl rfl rfl]
    exact spells_digitField (by omega) (Nat.zero_le _) short

/-- The text of a TRAFFIC frame stands after its header (Table 6-1). -/
theorem trafficFrame_text {e : Entry} (hop : e.lastHop = some to_) :
    ((trafficFrame own e).drop 42).take e.text.length = e.text := by
  have split : trafficFrame own e = ([[0x01], [0x54], padCall to_, padCall own, digitField 1 e.precedence.val,
      padCall e.key.call, digitField 4 e.key.serial, padCall e.destination, digitField 3 e.textLength].flatten ++ e.text) ++
      (checkField (checkSum (0x54 :: (padCall to_ ++ padCall own ++ ([digitField 1 e.precedence.val, padCall e.key.call,
        digitField 4 e.key.serial, padCall e.destination, digitField 3 e.textLength].flatten ++ e.text)))) ++ [0x04]) := by
    rw [trafficFrame_eq hop]
    simp [frameOf]
  rw [split, List.append_assoc, List.drop_left', List.take_left' rfl]
  simp [padCall_length, digitField_length]

end

end Sys2Proof.Machine
end

/-! # The check of a frame, the bits on the line, and the frames composed (R94, R114, R115, R136, R137) -/

section
namespace Sys2Proof.Machine

/-! ## The check (R114) -/

theorem foldl_checkSum_toNat (body : List Byte) (w : Half) :
    (body.foldl (fun n b => n + b.setWidth 16) w).toNat = (w.toNat + (body.map (·.toNat)).sum) % 65536 := by
  induction body generalizing w with
  | nil => exact (Nat.mod_eq_of_lt w.isLt).symm
  | cons b body ih =>
    have byte : b.toNat < 256 := b.isLt
    rw [List.foldl_cons, ih, BitVec.toNat_add, BitVec.toNat_setWidth, List.map_cons, List.sum_cons]
    omega

theorem checkSum_toNat (body : List Byte) : (checkSum body).toNat = (body.map (·.toNat)).sum % 65536 := by
  rw [checkSum, foldl_checkSum_toNat]
  exact congrArg (· % 65536) (Nat.zero_add _)

theorem checkChar_eq (n : Nat) : checkChar n = BitVec.ofNat 8 (if n < 10 then 0x30 + n else 0x37 + n) := by
  unfold checkChar
  congr 1
  split <;> omega

theorem checkCharValue_checkChar : ∀ n : Fin 16, checkCharValue (checkChar n) = n := by decide

theorem checkCharValue_of_lt {n : Nat} (small : n < 16) : checkCharValue (checkChar n) = n :=
  checkCharValue_checkChar ⟨n, small⟩

theorem checkValue_checkField (w : Half) : checkValue (checkField w) = w.toNat := by
  have word : w.toNat < 65536 := w.isLt
  simp only [checkValue, checkField, List.foldl_cons, List.foldl_nil, checkCharValue_of_lt (Nat.mod_lt _ (by decide))]
  omega

/-! ## The bits of a frame (R94) -/

section
variable {g : Settings} {f : List Byte} {k : Nat} {x : Channel}

theorem Settings.characterBits_last (g : Settings) (b : Byte) : (g.characterBits b).getLast? = some true := by
  rw [Settings.characterBits, List.getLast?_append, List.getLast?_replicate]
  cases g.twoStops <;> rfl

theorem Settings.frameBits_last (nonempty : f ≠ []) : (g.frameBits f).getLast? = some true := by
  induction f with
  | nil => exact absurd rfl nonempty
  | cons b f ih =>
    rw [Settings.frameBits, List.flatMap_cons, List.getLast?_append]
    by_cases last : f = []
    · rw [last]; exact g.characterBits_last b
    · rw [show (f.flatMap g.characterBits).getLast? = some true from ih last]; rfl

/-- Once the bits of a frame have ended TXDn is at mark, the level of the last stop bit. -/
theorem levelAt_beyond (beyond : f.length * g.bitsPerChar * g.bitUnits ≤ k * 384) : levelAt g f k = true := by
  have ended : f.length * g.bitsPerChar ≤ k * 384 / g.bitUnits :=
    (Nat.le_div_iff_mul_le g.bitUnits_pos).2 beyond
  have begun : bitsBegun g f k = (g.frameBits f).length := by
    rw [Settings.frameBits_length]
    exact Nat.min_eq_left (ended.trans (Nat.le_succ _))
  rw [levelAt, begun]
  by_cases empty : f = []
  · rw [empty]; rfl
  · have last := Settings.frameBits_last (g := g) empty
    rw [List.getLast?_eq_getElem?] at last
    rw [List.getD_eq_getElem?_getD, last]
    rfl

/-- The parity bit makes the number of ones even or odd, as the setting asks (R94). -/
theorem parityBit_count (b : Byte) : let data := (List.range 8).map (b.getLsbD ·)
    (∃ p, parityBit .even b = some p ∧ (data ++ [p]).count true % 2 = 0) ∧
    (∃ p, parityBit .odd b = some p ∧ (data ++ [p]).count true % 2 = 1) := by
  intro data
  have ones : data.count true = ((List.range 8).filter fun i => b.getLsbD i).length := by
    rw [List.count_eq_countP, List.countP_map, List.countP_eq_length_filter]
    refine congrArg List.length (List.filter_congr fun i _ => ?_)
    simp
  refine ⟨⟨_, rfl, ?_⟩, ⟨_, rfl, ?_⟩⟩
  · rw [List.count_append, ones]
    rcases Nat.mod_two_eq_zero_or_one ((List.range 8).filter fun i => b.getLsbD i).length with even | odd
    · simp [even]
    · simp [odd, Nat.add_mod]
  · rw [List.count_append, ones]
    rcases Nat.mod_two_eq_zero_or_one ((List.range 8).filter fun i => b.getLsbD i).length with even | odd
    · simp [even, Nat.add_mod]
    · simp [odd]

end

/-! ## The end of the key-up delay (R136, R137) -/

theorem takeDelayEnd_of_over {s : State} {c : Chan} {w : OnAir} (over_ : (s.chan c).transmitter = .keying w 0) :
    takeDelayEnd c s = startSending w c s := by
  simp only [takeDelayEnd, Channel.delayOver, over_]

/-- Settles O38. -/
theorem framesComposed : Obligations.FramesComposed := by
  unfold Obligations.FramesComposed
  refine ⟨fun s c w keying => congrArg Host.Outcome.next (takeDelayEnd_of_over keying),
    fun s c => ⟨fun f => rfl, rfl, fun h holds => State.compose_traffic holds⟩,
    fun own to_ d key v n k e => ?frames, fun body w => ?check, fun x => ?line, fun g b => ?bits⟩
  case frames =>
    intro call all digits letter valid
    have spelled (w m : Nat) : digits w m = digitField w m := (digitField_eq w m).symm
    simp only [spelled]
    refine ⟨fun kind a f => ?_, fun hop => ?_, ?_, rfl, trafficFrame_length own e, controlFrameOf_length own _,
      controlFrameOf_length own _, frameOf_length .., fun fit => ⟨?_, ?_, ?_, ?_⟩⟩
    · simp only [frameOf, List.cons_append, List.nil_append, List.append_assoc]
      rfl
    · rw [trafficFrame, hop]; rfl
    · cases v <;> rfl
    · rintro f rfl; exact parseHeader_beaconFrame fit
    · rintro f rfl fits; exact parseHeader_holdFrame fit fits
    · rintro f rfl address called low high; exact parseHeader_receiptFrame fit address called low high
    · rintro f rfl hop address called low high rfl destination whole short
      have header := parseHeader_trafficFrame fit hop address called low high destination (whole ▸ short)
      rw [whole] at header
      exact ⟨header, trafficFrame_text hop⟩
  case check =>
    intro hex
    exact ⟨checkSum_toNat body, by simp only [checkField, checkChar_eq]; rfl, checkValue_checkField w⟩
  case line =>
    refine ⟨fun w f k sending => ?_, fun quiet unbroken => ?_, fun w f k sending => ?_⟩
    · rw [Channel.lineBits, sending]
      exact ⟨rfl, Settings.frameBits_length _ f⟩
    · unfold Channel.lineBits Channel.txd
      cases run : x.transmitter with
      | idle | clearing _ _ | keying _ _ => exact ⟨rfl, rfl⟩
      | sending w f k => exact absurd run (quiet w f k)
      | brk u r k b => exact absurd run (unbroken u r k b)
    · intro bit
      rw [Channel.txd, sending]
      exact ⟨levelAt_within, levelAt_beyond⟩
  case bits =>
    intro data
    obtain ⟨⟨p, even, evenCount⟩, q, odd, oddCount⟩ := parityBit_count b
    refine ⟨(parityBit g.parity b).toList, ?_, fun none => ?_, fun even' => ?_, fun odd' => ?_⟩
    · rw [Settings.characterBits]
      cases g.twoStops <;> rfl
    · rw [none]; rfl
    · rw [even', even]; exact ⟨p, rfl, evenCount⟩
    · rw [odd', odd]; exact ⟨q, rfl, oddCount⟩

end Sys2Proof.Machine
end

/-! # The arbiters have acted after every step (R133 to R135) -/

section
namespace Sys2Proof.Machine

/-! ## One channel -/

section
variable {x y : Channel}

theorem Channel.claimant_congr (control : y.control = x.control) (beacon : y.beacon = x.beacon)
    (settings : y.settings = x.settings) (engine : ∀ h w n, y.engine = .staged h w n ↔ x.engine = .staged h w n) :
    y.claimant = x.claimant := by
  unfold Channel.claimant
  rw [control, beacon, settings]
  split
  · rfl
  · split
    · rfl
    · cases run : x.engine with
      | staged h w n => rw [(engine h w n).2 run]
      | idle | sending _ _ | awaiting _ _ =>
        have free (h : Handle) (w n : Nat) : y.engine ≠ .staged h w n := fun staged => by
          rw [engine, run] at staged
          cases staged
        split
        · next h w n staged => exact absurd staged (free h w n)
        · rfl

/-- Two records whose arbiters find the same: the claimants, and the transmitter as far as it has not keyed. -/
structure Channel.SameClaims (x y : Channel) : Prop where
  enabled : y.enabled = x.enabled
  claimant : y.claimant = x.claimant
  keyed : y.transmitter.keyed = x.transmitter.keyed
  transmitter : x.transmitter.keyed = false → y.transmitter = x.transmitter

theorem Channel.SameClaims.arbitrated (same : x.SameClaims y) (acted : x.arbitrated = x) : y.arbitrated = y := by
  cases keyed : x.transmitter.keyed with
  | true => exact Channel.arbitrated_of_keyed (same.keyed.trans keyed)
  | false =>
    rw [Channel.arbitrated_of_notKeyed keyed] at acted
    have granted : x.granted = x.transmitter := congrArg Channel.transmitter acted
    have grants : y.granted = x.granted := by rw [Channel.granted, Channel.granted, same.enabled, same.claimant]
    rw [Channel.arbitrated_of_notKeyed (same.keyed.trans keyed), grants, granted, ← same.transmitter keyed]

theorem Channel.atMs_sameClaims (x : Channel) : x.SameClaims x.atMs where
  enabled := rfl
  claimant := Channel.claimant_congr rfl rfl rfl fun h w n => by
    rw [Channel.atMs]
    cases x.engine with
    | idle | staged _ _ _ | sending _ _ => exact .rfl
    | awaiting _ _ => exact ⟨nofun, nofun⟩
  keyed := Transmitter.atMs_keyed _
  transmitter off := by
    rw [Channel.atMs]
    cases run : x.transmitter with
    | idle | clearing _ _ => rfl
    | keying _ _ | sending _ _ _ | brk _ _ _ _ => rw [run] at off; cases off

/-- What the arbiter grants, by rank (R133, R135). -/
theorem Channel.granted_of_control (enabled : x.enabled = true) (waits : x.control ≠ []) :
    x.granted = .clearing .control (10 * x.settings.slotField) := by
  rw [Channel.granted, enabled, Channel.claimant, if_pos waits]
  rfl

theorem Channel.granted_of_beacon (enabled : x.enabled = true) (none : x.control = []) (due : x.beacon = .due) :
    x.granted = .clearing .beacon (10 * x.settings.slotField) := by
  rw [Channel.granted, enabled, Channel.claimant, if_neg (not_not.2 none), if_pos due]
  rfl

theorem Channel.granted_of_staged {h : Handle} {w n : Nat} (enabled : x.enabled = true) (none : x.control = [])
    (notDue : x.beacon ≠ .due) (staged : x.engine = .staged h w n) : x.granted = .clearing .traffic w := by
  rw [Channel.granted, enabled, Channel.claimant, if_neg (not_not.2 none), if_neg notDue, staged]

theorem Channel.granted_of_none (none : x.control = []) (notDue : x.beacon ≠ .due)
    (free : ∀ h w n, x.engine ≠ .staged h w n) : x.granted = .idle := by
  have nobody : x.claimant = Option.none := by
    rw [Channel.claimant, if_neg (not_not.2 none), if_neg notDue]
    split
    · next h w n staged => exact absurd staged (free h w n)
    · rfl
  rw [Channel.granted, nobody]
  cases x.enabled <;> rfl

end

/-! ## The part -/

namespace State.Arbitrated

section
variable {s t : State} {c : Chan}

theorem conclude (s : State) : (conclude s).Arbitrated := fun c => by
  rw [Machine.conclude, arbitrateAll_chan, Channel.arbitrated_arbitrated]

theorem takeRequest (effect : State → State) (s : State) : (takeRequest effect s).Arbitrated :=
  takeRequest_arbitrated effect s

theorem of_chan (h : s.Arbitrated) (same : ∀ c, (s.chan c).SameClaims (t.chan c)) : t.Arbitrated := fun c =>
  (same c).arbitrated (h c)

theorem updChan (h : s.Arbitrated) {f : Channel → Channel} (acted : (f (s.chan c)).arbitrated = f (s.chan c)) :
    (s.updChan c f).Arbitrated := fun d => by
  rw [State.chan_updChan]
  split
  · exact acted
  · exact h d

theorem setSampler (h : s.Arbitrated) (p : Sampler) : (setSampler p c s).Arbitrated :=
  h.updChan (Channel.SameClaims.arbitrated (x := s.chan c) ⟨rfl, rfl, rfl, fun _ => rfl⟩ (h c))

/-- A choice between an event that ends with the arbiters and none. -/
theorem ite {p : Prop} [Decidable p] (h : s.Arbitrated) (acted : t.Arbitrated) : (if p then t else s).Arbitrated := by
  split
  · exact acted
  · exact h

/-! ## The events -/

theorem takeClockSecond (h : s.Arbitrated) : (takeClockSecond s).Arbitrated := by
  unfold Machine.takeClockSecond
  dsimp only
  split
  · refine forChans_keeps (P := State.Arbitrated) (fun c t h => h.updChan ?_) (fun c => h c)
    exact Channel.SameClaims.arbitrated (x := t.chan c) ⟨rfl, rfl, rfl, fun _ => rfl⟩ (h c)
  · exact fun c => h c

theorem takeQuantum (h : s.Arbitrated) : (takeQuantum s).Arbitrated := h.of_chan fun c => by
  rw [show (Machine.takeQuantum s).chan c = (s.chan c).atQuantum from getElem_mapVector ..]
  exact ⟨rfl, rfl, rfl, fun _ => rfl⟩

theorem takeSecond (s : State) : (takeSecond s).Arbitrated := fun c => by
  rw [Machine.takeSecond, arbitrateAll_chan, Channel.arbitrated_arbitrated]

theorem settleWindow (h : s.Arbitrated) (c : Chan) : (settleWindow c s).Arbitrated := by
  unfold Machine.settleWindow
  split
  · exact .conclude _
  · exact h

theorem takeTimeout (h : s.Arbitrated) (c : Chan) : (takeTimeout c s).Arbitrated := by
  unfold Machine.takeTimeout
  split
  · exact .conclude _
  · exact h

theorem takeDelayEnd (h : s.Arbitrated) (c : Chan) : (takeDelayEnd c s).Arbitrated := by
  unfold Machine.takeDelayEnd
  split
  · exact h.updChan rfl
  · exact h

theorem takeFrameEnd (h : s.Arbitrated) (c : Chan) : (takeFrameEnd c s).Arbitrated := by
  unfold Machine.takeFrameEnd
  split
  · exact .conclude _
  · exact h

theorem takeBreakEnd (h : s.Arbitrated) (c : Chan) : (takeBreakEnd c s).Arbitrated := by
  unfold Machine.takeBreakEnd
  split
  · split
    · exact .conclude _
    · next off =>
      refine h.updChan ((Channel.arbitrated_of_notKeyed rfl).trans ?_)
      rw [Channel.granted_of_disabled]
      exact Bool.eq_false_iff.2 off
  · exact h

theorem takeKeyUp (h : s.Arbitrated) (c : Chan) : (takeKeyUp c s).Arbitrated := by
  unfold Machine.takeKeyUp
  split
  · exact .conclude _
  · exact h

theorem settleOnce (h : s.Arbitrated) (e : settleOnce s = some t) : t.Arbitrated :=
  settleOnce_keeps (P := State.Arbitrated) h.takeClockSecond h.takeQuantum (.takeSecond s) h.settleWindow
    (fun _ => h.ite (.conclude _)) (fun _ => h.ite (.conclude _)) (fun _ => h.ite (.conclude _))
    (fun _ => h.ite (.conclude _)) (fun _ => h.ite (.conclude _)) (fun _ => h.ite (.conclude _))
    (fun _ => h.ite (.conclude _)) (fun _ => h.ite (.conclude _)) h.takeTimeout h.takeDelayEnd h.takeFrameEnd
    h.takeBreakEnd h.takeKeyUp t e

theorem tick (h : s.Arbitrated) : (tick s).Arbitrated := h.of_chan fun c => by
  rw [tick_chan]
  exact (s.chan c).atMs_sameClaims

theorem resetParts (s : State) : s.resetParts.Arbitrated := fun c => by
  rw [State.resetParts_chan]
  rfl

/-- Every command that is no request leaves the arbiters having acted. -/
theorem exec_event (h : s.Arbitrated) {i : Instr} (event : i.isRequest = false) (run : exec i s = .next t) :
    t.Arbitrated := by
  cases i <;> cases event <;> obtain rfl := Host.Outcome.next.inj run
  case readFrame | badFrame => exact fun c => h c
  case powerOn | resetPin => exact .resetParts s
  case goodCharacter | characterError | breakReceived => exact h.ite (.conclude _)
  case cdInputChange => exact .conclude _
  case millisecondAdvance => exact (settle_keeps (fun _ _ k e => k.settleOnce e) h).tick
  case quantum => exact h.ite h.takeQuantum
  case timeBaseSecond => exact h.ite (.takeSecond s)
  case clockSecond => exact h.ite h.takeClockSecond
  case windowOpenEvent | windowCloseEvent => exact h.ite (.conclude _)
  case keyUp c => exact h.takeKeyUp c
  case keyUpDelayEnd c => exact h.takeDelayEnd c
  case frameEnd c => exact h.takeFrameEnd c
  case breakEnd c => exact h.takeBreakEnd c
  case receiptTimeout c => exact h.takeTimeout c
  case retryWaitExpiry | beaconDue | holdExpiry | silenceExpiry | reHoldExpiry | gapExpiry | jammed | heardAgeOverLimit =>
    exact h.ite (.conclude _)
  case startBit | shortPulse | lineRecoveryEnd => exact h.ite (h.setSampler _)

theorem exec (h : s.Arbitrated) {i : Instr} (run : exec i s = .next t) : t.Arbitrated := by
  cases request : i.isRequest with
  | true =>
    obtain ⟨effect, taken, -⟩ := exec_request request
    obtain rfl := Host.Outcome.next.inj ((taken s).symm.trans run)
    exact .takeRequest effect s
  | false => exact h.exec_event request run

end

end State.Arbitrated

/-- Settles O40: the arbiter on one record, and `State.Arbitrated` kept by every command. -/
theorem arbiterGrants : Obligations.ArbiterGrants := by
  unfold Obligations.ArbiterGrants
  refine ⟨fun x => ?_, fun s t acted run => ?_⟩
  · intro y
    refine ⟨?_, fun keyed => ?_, fun off disabled => ?_, fun off enabled => ⟨fun waits => ?_, fun none due => ?_,
      fun h w n none notDue staged => ?_, fun none notDue free => ?_⟩⟩
    · exact x.arbitrated_rest
    · rw [show y = x from Channel.arbitrated_of_keyed keyed]
    all_goals rw [show y = { x with transmitter := x.granted } from Channel.arbitrated_of_notKeyed off]
    · exact Channel.granted_of_disabled disabled
    · exact Channel.granted_of_control enabled waits
    · exact Channel.granted_of_beacon enabled none due
    · exact Channel.granted_of_staged enabled none notDue staged
    · exact Channel.granted_of_none none notDue free
  · unfold step at run
    split at run
    · obtain rfl := Host.Outcome.next.inj run
      exact acted
    · next rest _ =>
      have acted' : (s.withPending rest).Arbitrated := acted
      exact acted'.exec run

end Sys2Proof.Machine
end

/-! # The state after reset meets the invariants (R110)

Every entry is FREE, every channel is at its reset record and every index is empty, so the clauses about entries in use, about
handles in collections and about exchanges have nothing to hold of. -/

section
namespace Sys2Proof.Machine

theorem State.reset_collection (k : Collection) : State.reset.collection k = [] := by
  cases k with
  | queue c => rw [State.collection, State.reset_chan]; rfl
  | unrouted => rfl

theorem Entry.free_fieldsKept : Entry.free.FieldsKept where
  free := fun _ => rfl
  spent := nofun
  receivedFrom := nofun
  nextHop := fun some => absurd rfl some
  engagedHop := nofun
  lastHop := nofun
  fresh := nofun
  attempts := Nat.zero_le _
  attemptsLeft := nofun
  notBefore := ⟨fun some => absurd rfl some, nofun⟩
  cancelPending := ⟨fun some => absurd rfl some, nofun⟩
  arriving := nofun
  blocks := nofun
  longest := Nat.zero_le _
  whole := nofun

theorem State.reset_entries : State.reset.entries.toList = List.replicate 256 Entry.free :=
  Vector.toList_replicate

theorem State.reset_trafficKept : State.reset.TrafficKept := by
  have free (h : Handle) : (State.reset.entry h).state = .free := by rw [State.reset_entry]; rfl
  have engine (c : Chan) : (State.reset.chan c).engine.entry? = none := by rw [State.reset_chan]; rfl
  have reservation (c : Chan) : (State.reset.chan c).receiver.reservation = none := by rw [State.reset_chan]; rfl
  constructor
  case fields => exact fun h => by rw [State.reset_entry]; exact Entry.free_fieldsKept
  case accessions => exact fun h _ used => absurd (free h) used
  case counter => exact fun h used => absurd (free h) used
  case keys => exact fun h _ used => absurd (free h) used
  case entriesCounted => rw [State.reset_entries, List.filter_replicate_of_neg (by decide)]; rfl
  case blocksCounted => rw [State.reset_entries, List.map_replicate, List.sum_replicate]; rfl
  case waiting => simp [State.reset_collection, free]
  case ordered => exact fun k => by rw [State.reset_collection]; exact .nil
  case engaged => simp [engine, free]
  case receiving => simp [reservation, free]
  all_goals simp [engine, reservation]

theorem State.reset_controlKept : State.reset.ControlKept := fun c =>
  Channel.controlKept_of_empty (by rw [State.reset_chan]; rfl) (by rw [State.reset_chan]; rfl)

theorem State.reset_listening : State.reset.Listening := fun c => by
  rw [State.reset_chan]
  exact ⟨fun _ => ⟨rfl, rfl, rfl, rfl, rfl, rfl, rfl, rfl, rfl, rfl, rfl, rfl, rfl, rfl, nofun⟩, nofun⟩

theorem State.reset_arbitrated : State.reset.Arbitrated := fun c => by
  rw [State.reset_chan]
  rfl

/-- Settles O59. -/
theorem resetMeetsInvariants : Obligations.ResetMeetsInvariants :=
  ⟨State.reset_controlKept, State.reset_listening, reset_tablesKept, reset_directoryKept, State.reset_trafficKept,
    State.reset_arbitrated⟩

end Sys2Proof.Machine
end

/-! # The Traffic Table, the Text Store, the collections, the exchanges and the reservations (R5 to R19, R68, R116, R140)

Every operation on a message takes its entry out of where it stands, writes it, and puts it where it then belongs. Between,
the entry is loose: it waits in no collection, and no engine and no receive record holds it. `State.Filed` is
`State.TrafficKept` with a list of loose entries, in four parts: the table itself, the collections, the exchanges and the
reservations. Its two marks say whether the next hops lead where the entries stand, which the requests that write the
directory leave open until their sweep, and whether the headers in reception are to the own call, which SET OWN leaves open. -/

section
namespace Sys2Proof.Machine

/-! ## The four parts, and the whole -/

/-- The Traffic Table and the Text Store (R5, R11, R14, R16, R19). -/
structure State.Tabled (s : State) : Prop where
  fields : ∀ h, (s.entry h).FieldsKept
  accessions : ∀ h k, (s.entry h).state ≠ .free → (s.entry k).state ≠ .free →
    (s.entry h).accession = (s.entry k).accession → h = k
  counter : ∀ h, (s.entry h).state ≠ .free → (s.entry h).accession ≠ s.accessionCounter
  keys : ∀ h k, (s.entry h).state ≠ .free → (s.entry k).state ≠ .free → (s.entry h).key = (s.entry k).key → h = k
  entriesCounted : s.freeEntries + (s.entries.toList.filter (·.inUse)).length = 256
  blocksCounted : s.freeBlocks + (s.entries.toList.map (·.blockCount)).sum = 2048

/-- The collections: the READY entries that are not loose, each in one, in order, and, where they are routed, in that of the
next hop (R68). -/
structure State.Queued (loose : List Handle) (routed : Bool) (s : State) : Prop where
  waits : ∀ {h k}, h ∈ s.collection k → h ∉ loose ∧ (s.entry h).state = .ready
  one : ∀ {h k q}, h ∈ s.collection k → h ∈ s.collection q → k = q
  stands : ∀ {h}, h ∉ loose → (s.entry h).state = .ready → ∃ k, h ∈ s.collection k
  homed : routed = true → ∀ {h k}, h ∈ s.collection k → s.collectionFor (s.entry h).nextHop = k
  ordered : ∀ k, (s.collection k).Pairwise fun a b => comesBefore s k a b = true

/-- The exchanges: the ENGAGED entries that are not loose, each held by one engine (R140). -/
structure State.Exchanging (loose : List Handle) (s : State) : Prop where
  holds : ∀ {c h}, (s.chan c).engine.entry? = some h → h ∉ loose ∧ (s.entry h).state = .engaged
  engaged : ∀ {h}, h ∉ loose → (s.entry h).state = .engaged → ∃ c, (s.chan c).engine.entry? = some h
  oneEngine : ∀ {c d h}, (s.chan c).engine.entry? = some h → (s.chan d).engine.entry? = some h → c = d

/-- The receive record of a channel that holds a reservation, and the text that its entry holds (R116, R121, R122). -/
structure State.Fills (s : State) (r : Receiver) (h : Handle) : Prop where
  begun : r.phase = .body ∨ r.phase = .tail
  text : (s.entry h).text.length + r.bodyRemaining = (s.entry h).textLength
  tail : r.phase = .tail ↔ r.bodyRemaining = 0

/-- The reservations: the RECEIVING entries that are not loose, each held by one receive record, whose header is to the own
call where they are addressed (R116). -/
structure State.Reserving (loose : List Handle) (addressed : Bool) (s : State) : Prop where
  reserved : ∀ {c h}, (s.chan c).receiver.reservation = some h → h ∉ loose ∧ (s.entry h).state = .receiving
  receiving : ∀ {h}, h ∉ loose → (s.entry h).state = .receiving → ∃ c, (s.chan c).receiver.reservation = some h
  oneReceiver : ∀ {c d h}, (s.chan c).receiver.reservation = some h → (s.chan d).receiver.reservation = some h → c = d
  fills : ∀ {c h}, (s.chan c).receiver.reservation = some h → s.Fills (s.chan c).receiver h
  headed : addressed = true → ∀ {c h}, (s.chan c).receiver.reservation = some h → s.Reserves (s.chan c).receiver

/-- `State.TrafficKept`, but for entries that are loose, next hops that are not routed and headers that are not addressed. -/
structure State.Filed (loose : List Handle) (routed addressed : Bool) (s : State) : Prop where
  tabled : s.Tabled
  queued : s.Queued loose routed
  exchanging : s.Exchanging loose
  reserving : s.Reserving loose addressed

/-- With no entry loose, every next hop routed and every header addressed, `State.Filed` is `State.TrafficKept`. -/
theorem State.filed_iff {s : State} : s.Filed [] true true ↔ s.TrafficKept := by
  constructor
  · rintro ⟨tabled, queued, exchanging, reserving⟩
    constructor
    case waiting =>
      refine fun h k => ⟨fun mem => ⟨(queued.waits mem).2, queued.homed rfl mem⟩, fun ⟨ready, home⟩ => ?_⟩
      obtain ⟨q, mem⟩ := queued.stands List.not_mem_nil ready
      rwa [← home, queued.homed rfl mem]
    case engaged => exact fun h => ⟨exchanging.engaged List.not_mem_nil, fun ⟨_, held⟩ => (exchanging.holds held).2⟩
    case receiving => exact fun h => ⟨reserving.receiving List.not_mem_nil, fun ⟨_, held⟩ => (reserving.reserved held).2⟩
    case fields => exact tabled.fields
    case accessions => exact tabled.accessions
    case counter => exact tabled.counter
    case keys => exact tabled.keys
    case entriesCounted => exact tabled.entriesCounted
    case blocksCounted => exact tabled.blocksCounted
    case ordered => exact queued.ordered
    case oneEngine => exact fun _ _ _ => exchanging.oneEngine
    case oneReceiver => exact fun _ _ _ => reserving.oneReceiver
    case reserves => exact fun _ _ => reserving.headed rfl
    case filling => exact fun _ _ held => ⟨(reserving.fills held).text, (reserving.fills held).tail⟩
  · intro kept
    have waits {h : Handle} {k : Collection} := kept.waiting h k
    refine ⟨⟨kept.fields, kept.accessions, kept.counter, kept.keys, kept.entriesCounted, kept.blocksCounted⟩,
      ⟨fun mem => ⟨List.not_mem_nil, (waits.1 mem).1⟩, fun mem mem' => (waits.1 mem).2.symm.trans (waits.1 mem').2,
        fun _ ready => ⟨_, waits.2 ⟨ready, rfl⟩⟩, fun _ _ _ mem => (waits.1 mem).2, kept.ordered⟩,
      ⟨fun held => ⟨List.not_mem_nil, (kept.engaged _).2 ⟨_, held⟩⟩, fun _ => (kept.engaged _).1, kept.oneEngine _ _ _⟩,
      ⟨fun held => ⟨List.not_mem_nil, (kept.receiving _).2 ⟨_, held⟩⟩, fun _ => (kept.receiving _).1,
        kept.oneReceiver _ _ _, fun held => ?_, fun _ _ _ => kept.reserves _ _⟩⟩
    obtain ⟨text, tail⟩ := kept.filling _ _ held
    exact ⟨(kept.reserves _ _ held).1, text, tail⟩

/-! ## What each part reads -/

/-- What the collections, the exchanges and the reservations read of an entry, its next hop apart. -/
def Entry.Alike (e f : Entry) : Prop :=
  f.state = e.state ∧ f.precedence = e.precedence ∧ f.accession = e.accession ∧ f.text.length = e.text.length ∧
    f.textLength = e.textLength

theorem Entry.Alike.rfl' (e : Entry) : e.Alike e := ⟨rfl, rfl, rfl, rfl, rfl⟩

theorem Entry.Alike.of_eq {e f : Entry} (same : f = e) : e.Alike f := same ▸ .rfl' e

/-- What a receive record says of its reservation (R116). -/
def Receiver.Carries (r q : Receiver) : Prop :=
  q.reservation = r.reservation ∧ q.phase = r.phase ∧ q.kind = r.kind ∧ q.header = r.header ∧
    q.bodyRemaining = r.bodyRemaining

theorem Receiver.Carries.rfl' (r : Receiver) : r.Carries r := ⟨rfl, rfl, rfl, rfl, rfl⟩

theorem Receiver.Carries.of_eq {r q : Receiver} (same : q = r) : r.Carries q := same ▸ .rfl' r

theorem Receiver.Carries.trans {r q p : Receiver} (a : r.Carries q) (b : q.Carries p) : r.Carries p := by
  obtain ⟨a1, a2, a3, a4, a5⟩ := a
  obtain ⟨b1, b2, b3, b4, b5⟩ := b
  exact ⟨b1.trans a1, b2.trans a2, b3.trans a3, b4.trans a4, b5.trans a5⟩

theorem State.Reserves.of_carries {s t : State} {r q : Receiver} (h : s.Reserves r) (same : r.Carries q)
    (own : t.own.call = s.own.call) : t.Reserves q := by
  obtain ⟨-, phase, kind, header, -⟩ := same
  have parsed : q.parsed = r.parsed := by rw [Receiver.parsed, kind, header, Receiver.parsed]
  rw [State.Reserves, phase, parsed, own]
  exact h

theorem State.collectionFor_of_hopChannel {s t : State} (same : t.hopChannel = s.hopChannel) (r : Option Index) :
    t.collectionFor r = s.collectionFor r := by
  simp only [State.collectionFor, same]

section
variable {L : List Handle} {routed addressed : Bool} {s t : State}

theorem State.Tabled.congr (kept : s.Tabled) (entries : t.entries = s.entries)
    (counter : t.accessionCounter = s.accessionCounter) (freeEntries : t.freeEntries = s.freeEntries)
    (freeBlocks : t.freeBlocks = s.freeBlocks) : t.Tabled := by
  have entry (h : Handle) : t.entry h = s.entry h := by simp only [State.entry, entries]
  constructor
  all_goals simp only [entry, entries, counter, freeEntries, freeBlocks]
  case fields => exact kept.fields
  case accessions => exact kept.accessions
  case counter => exact kept.counter
  case keys => exact kept.keys
  case entriesCounted => exact kept.entriesCounted
  case blocksCounted => exact kept.blocksCounted

theorem State.Queued.congr (kept : s.Queued L routed) (alike : ∀ h, h ∉ L → (s.entry h).Alike (t.entry h))
    (collection : ∀ k, t.collection k = s.collection k)
    (home : routed = true → ∀ h, h ∉ L → t.collectionFor (t.entry h).nextHop = s.collectionFor (s.entry h).nextHop) :
    t.Queued L routed := by
  constructor
  all_goals simp only [collection]
  case waits =>
    intro h k mem
    obtain ⟨tight, ready⟩ := kept.waits mem
    exact ⟨tight, (alike h tight).1.trans ready⟩
  case one => exact kept.one
  case stands => exact fun {h} tight ready => kept.stands tight ((alike h tight).1.symm.trans ready)
  case homed => exact fun on h k mem => (home on h (kept.waits mem).1).trans (kept.homed on mem)
  case ordered =>
    intro k
    refine (kept.ordered k).imp_of_mem fun {a b} ha hb before => ?_
    obtain ⟨-, precA, accA, -⟩ := alike a (kept.waits ha).1
    obtain ⟨-, precB, accB, -⟩ := alike b (kept.waits hb).1
    rwa [comesBefore_congr ⟨precA, accA⟩ ⟨precB, accB⟩]

theorem State.Exchanging.congr (kept : s.Exchanging L) (state : ∀ h, h ∉ L → (t.entry h).state = (s.entry h).state)
    (engine : ∀ c, (t.chan c).engine.entry? = (s.chan c).engine.entry?) : t.Exchanging L := by
  constructor
  all_goals simp only [engine]
  case holds =>
    intro c h held
    obtain ⟨tight, engaged⟩ := kept.holds held
    exact ⟨tight, (state h tight).trans engaged⟩
  case engaged => exact fun {h} tight engaged => kept.engaged tight ((state h tight).symm.trans engaged)
  case oneEngine => exact kept.oneEngine

theorem State.Fills.congr {r q : Receiver} {h : Handle} (fills : s.Fills r h) (alike : (s.entry h).Alike (t.entry h))
    (carries : r.Carries q) : t.Fills q h := by
  obtain ⟨-, phase, -, -, remaining⟩ := carries
  obtain ⟨-, -, -, text, length⟩ := alike
  refine ⟨?_, ?_, ?_⟩
  · rw [phase]; exact fills.begun
  · rw [remaining, text, length]; exact fills.text
  · rw [phase, remaining]; exact fills.tail

theorem State.Reserving.congr (kept : s.Reserving L addressed) (alike : ∀ h, h ∉ L → (s.entry h).Alike (t.entry h))
    (receiver : ∀ c, (s.chan c).receiver.Carries (t.chan c).receiver)
    (own : addressed = true → t.own.call = s.own.call) : t.Reserving L addressed := by
  have reservation (c : Chan) := (receiver c).1
  constructor
  case headed =>
    exact fun on c h held => (kept.headed on ((reservation c).symm.trans held)).of_carries (receiver c) (own on)
  case fills =>
    intro c h held
    rw [reservation] at held
    exact (kept.fills held).congr (alike h (kept.reserved held).1) (receiver c)
  all_goals simp only [reservation]
  case reserved =>
    intro c h held
    obtain ⟨tight, state⟩ := kept.reserved held
    exact ⟨tight, (alike h tight).1.trans state⟩
  case receiving => exact fun {h} tight state => kept.receiving tight ((alike h tight).1.symm.trans state)
  case oneReceiver => exact kept.oneReceiver

theorem State.Reserving.unaddressed (kept : s.Reserving L addressed) : s.Reserving L false :=
  { kept with headed := nofun }

end

/-! ## What leaves the whole alone -/

/-- Two states with the same entries and counts, the same collections, exchanges and reservations, and next hops that lead to
the same channels. -/
structure State.SameTraffic (s t : State) : Prop where
  entries : t.entries = s.entries
  accessionCounter : t.accessionCounter = s.accessionCounter
  freeEntries : t.freeEntries = s.freeEntries
  freeBlocks : t.freeBlocks = s.freeBlocks
  unrouted : t.unrouted = s.unrouted
  ownCall : t.own.call = s.own.call
  hopChannel : t.hopChannel = s.hopChannel
  queue : ∀ c, (t.chan c).queue = (s.chan c).queue
  engine : ∀ c, (t.chan c).engine.entry? = (s.chan c).engine.entry?
  receiver : ∀ c, (s.chan c).receiver.Carries (t.chan c).receiver

namespace State.SameTraffic
variable {s t u : State}

theorem collection (same : s.SameTraffic t) (k : Collection) : t.collection k = s.collection k := by
  cases k with
  | queue c => exact same.queue c
  | unrouted => exact same.unrouted

theorem entry (same : s.SameTraffic t) (h : Handle) : t.entry h = s.entry h := by
  simp only [State.entry, same.entries]

theorem trans (a : s.SameTraffic t) (b : t.SameTraffic u) : s.SameTraffic u where
  entries := b.entries.trans a.entries
  accessionCounter := b.accessionCounter.trans a.accessionCounter
  freeEntries := b.freeEntries.trans a.freeEntries
  freeBlocks := b.freeBlocks.trans a.freeBlocks
  unrouted := b.unrouted.trans a.unrouted
  ownCall := b.ownCall.trans a.ownCall
  hopChannel := b.hopChannel.trans a.hopChannel
  queue c := (b.queue c).trans (a.queue c)
  engine c := (b.engine c).trans (a.engine c)
  receiver c := (a.receiver c).trans (b.receiver c)

/-- An update of a channel that keeps its queue, its exchange and its reservation. -/
theorem of_updChan (s : State) (c : Chan) {f : Channel → Channel} (queue : (f (s.chan c)).queue = (s.chan c).queue)
    (engine : (f (s.chan c)).engine.entry? = (s.chan c).engine.entry?)
    (receiver : (s.chan c).receiver.Carries (f (s.chan c)).receiver) : s.SameTraffic (s.updChan c f) where
  entries := rfl
  accessionCounter := rfl
  freeEntries := rfl
  freeBlocks := rfl
  unrouted := rfl
  ownCall := rfl
  hopChannel := rfl
  queue d := by
    rw [State.chan_updChan]
    split
    · next e => exact e ▸ queue
    · rfl
  engine d := by
    rw [State.chan_updChan]
    split
    · next e => exact e ▸ engine
    · rfl
  receiver d := by
    rw [State.chan_updChan]
    split
    · next e => exact e ▸ receiver
    · exact .rfl' _

/-- Two states that differ in none of the tables at stake. -/
theorem of_rest (rest : { t with
    response := s.response, congestionChanged := s.congestionChanged, reachChanged := s.reachChanged,
    ownSerial := s.ownSerial, congestion := s.congestion, classes := s.classes, time := s.time,
    freeCount := s.freeCount, pending := s.pending } = s) : s.SameTraffic t := by
  have chan (c : Chan) : t.chan c = s.chan c := by rw [State.chan, State.chan, ← rest]
  constructor
  case hopChannel => exact State.hopChannel_congr (by rw [← rest])
  case queue => exact fun c => by rw [chan]
  case engine => exact fun c => by rw [chan]
  case receiver => exact fun c => .of_eq (by rw [chan])
  all_goals rw [← rest]

theorem of_tested (h : s.Tested t) : s.SameTraffic t := by
  have rest := h.rest
  have chan (c : Chan) := h.chan c
  constructor
  case hopChannel => exact State.hopChannel_congr (by rw [← rest])
  case queue => exact fun c => (chan c).queue
  case engine => exact fun c => by rw [(chan c).engine]
  case receiver => exact fun c => .of_eq (chan c).receiver
  all_goals rw [← rest]

/-- A record of the directory changed whose channel stays. -/
theorem of_updStation (s : State) (i : Index) {f : Station → Station} (channel : ∀ st, (f st).channel = st.channel) :
    s.SameTraffic (s.updStation i f) := by
  constructor
  case hopChannel =>
    funext j
    rw [State.hopChannel, State.hopChannel, State.station_updStation]
    split
    · next e => subst e; cases s.station i <;> simp [channel]
    · rfl
  case receiver => exact fun c => .rfl' _
  case queue | engine => exact fun _ => rfl
  all_goals rfl

end State.SameTraffic

namespace State.Filed
variable {L : List Handle} {routed addressed : Bool} {s t : State}

theorem congr (kept : s.Filed L routed addressed) (same : s.SameTraffic t) : t.Filed L routed addressed where
  tabled := kept.tabled.congr same.entries same.accessionCounter same.freeEntries same.freeBlocks
  queued := kept.queued.congr (fun h _ => .of_eq (same.entry h)) same.collection fun _ h _ => by
    rw [State.collectionFor_of_hopChannel same.hopChannel, same.entry]
  exchanging := kept.exchanging.congr (fun h _ => by rw [same.entry]) same.engine
  reserving := kept.reserving.congr (fun h _ => .of_eq (same.entry h)) same.receiver fun _ => same.ownCall

/-- The directory rewritten: the next hops may lead elsewhere than where their entries stand. -/
theorem restationed (kept : s.Filed L routed addressed) (stations : Vector (Option Station) 64) :
    ({ s with stations := stations } : State).Filed L false addressed where
  tabled := kept.tabled.congr rfl rfl rfl rfl
  queued := { (kept.queued) with homed := nofun }
  exchanging := kept.exchanging.congr (fun _ _ => rfl) fun _ => rfl
  reserving := kept.reserving.congr (fun _ _ => .rfl' _) (fun _ => .rfl' _) fun _ => rfl

theorem unrouted (kept : s.Filed L routed addressed) : s.Filed L false addressed :=
  { kept with queued := { kept.queued with homed := nofun } }

/-- The own-station record rewritten: the headers in reception may be to another call than the own call. -/
theorem writeOwn (kept : s.Filed L routed addressed) (o : OwnStation) : (writeOwn o s).Filed L routed false where
  tabled := kept.tabled.congr rfl rfl rfl rfl
  queued := kept.queued.congr (fun _ _ => .rfl' _) (fun _ => rfl) fun _ _ _ => rfl
  exchanging := kept.exchanging.congr (fun _ _ => rfl) fun _ => rfl
  reserving := kept.reserving.unaddressed.congr (fun _ _ => .rfl' _) (fun _ => .rfl' _) nofun

end State.Filed

end Sys2Proof.Machine
end

/-! # Taking an entry out of where it stands, writing it, and putting it where it belongs

Each of these operations touches one or two of the four parts of `State.Filed`. -/

section
namespace Sys2Proof.Machine

/-! ## Counting over the table (R16, R19) -/

theorem sum_map_set {α : Type} (f : α → Nat) (l : List α) (i : Nat) (lt : i < l.length) (x : α) :
    ((l.set i x).map f).sum + f l[i] = (l.map f).sum + f x := by
  induction l generalizing i with
  | nil => exact absurd lt (Nat.not_lt_zero i)
  | cons a l ih =>
    cases i with
    | zero => simp only [List.set_cons_zero, List.map_cons, List.sum_cons, List.getElem_cons_zero]; omega
    | succ i =>
      have := ih i (Nat.lt_of_succ_lt_succ lt)
      simp only [List.set_cons_succ, List.map_cons, List.sum_cons, List.getElem_cons_succ]
      omega

theorem length_filter_eq_sum {α : Type} (p : α → Bool) (l : List α) :
    (l.filter p).length = (l.map fun x => (p x).toNat).sum := by
  induction l with
  | nil => rfl
  | cons a l ih => cases h : p a <;> simp [h, ih, Nat.add_comm]

theorem State.sum_set (s : State) (h : Handle) (e : Entry) (f : Entry → Nat) :
    ((s.entries.set h.val e).toList.map f).sum + f (s.entry h) = (s.entries.toList.map f).sum + f e := by
  rw [Vector.toList_set]
  exact sum_map_set f s.entries.toList h.val (by rw [Vector.length_toList]; exact h.isLt) e

section
variable {L : List Handle} {routed addressed : Bool} {s t : State} {h : Handle} {e : Entry} {c : Chan}

/-! ## The table -/

/-- An entry rewritten, the counts with it. -/
theorem State.Tabled.rewrite (kept : s.Tabled) (entries : t.entries = s.entries.set h.val e) (fields : e.FieldsKept)
    (apart : e.state ≠ .free → ∀ k, k ≠ h → (s.entry k).state ≠ .free →
      (s.entry k).accession ≠ e.accession ∧ (s.entry k).key ≠ e.key)
    (counter : ∀ k, (t.entry k).state ≠ .free → (t.entry k).accession ≠ t.accessionCounter)
    (entriesCounted : t.freeEntries + e.inUse.toNat = s.freeEntries + (s.entry h).inUse.toNat)
    (blocksCounted : t.freeBlocks + e.blockCount = s.freeBlocks + (s.entry h).blockCount) : t.Tabled := by
  have entry (k : Handle) : t.entry k = if h = k then e else s.entry k := by
    rw [State.entry, entries]
    exact State.entry_setEntry ..
  have apart' {j k : Handle} (ne : j ≠ k) (used : (t.entry j).state ≠ .free) (used' : (t.entry k).state ≠ .free) :
      (t.entry j).accession ≠ (t.entry k).accession ∧ (t.entry j).key ≠ (t.entry k).key := by
    rw [entry] at used used' ⊢
    rw [entry]
    split
    · next here =>
      rw [if_pos here] at used
      rw [if_neg fun there => ne (here.symm.trans there)] at used' ⊢
      obtain ⟨accession, key⟩ := apart used k (fun there => ne (here.symm.trans there.symm)) used'
      exact ⟨accession.symm, key.symm⟩
    · next away =>
      rw [if_neg away] at used
      split
      · next there =>
        rw [if_pos there] at used'
        exact apart used' j (fun here => away here.symm) used
      · next away' =>
        rw [if_neg away'] at used'
        exact ⟨fun same => ne (kept.accessions _ _ used used' same), fun same => ne (kept.keys _ _ used used' same)⟩
  refine ⟨fun k => ?_, fun j k used used' same => ?_, counter, fun j k used used' same => ?_, ?_, ?_⟩
  · rw [entry]
    split
    · exact fields
    · exact kept.fields k
  · by_contra ne
    exact (apart' ne used used').1 same
  · by_contra ne
    exact (apart' ne used used').2 same
  · have sum := s.sum_set h e fun e => e.inUse.toNat
    have total := kept.entriesCounted
    rw [length_filter_eq_sum] at total ⊢
    rw [entries]
    omega
  · have sum := s.sum_set h e (·.blockCount)
    have total := kept.blocksCounted
    rw [entries]
    omega

/-- An entry in use rewritten that keeps its accession, its key and its blocks. -/
theorem State.Tabled.setEntry (kept : s.Tabled) (used : (s.entry h).inUse = true) (used' : e.inUse = true)
    (fields : e.FieldsKept) (accession : e.accession = (s.entry h).accession) (key : e.key = (s.entry h).key)
    (blocks : e.blockCount = (s.entry h).blockCount) : (s.setEntry h e).Tabled := by
  have notFree : (s.entry h).state ≠ .free := fun free => by simp [Entry.inUse, free] at used
  refine kept.rewrite rfl fields (fun _ k other busy => ?_) (fun k busy => ?_) (by rw [used, used']; rfl) (by rw [blocks]; rfl)
  · rw [accession, key]
    exact ⟨fun same => other (kept.accessions _ _ busy notFree same), fun same => other (kept.keys _ _ busy notFree same)⟩
  · rw [State.entry_setEntry] at busy ⊢
    split
    · rw [accession]; exact kept.counter h notFree
    · next away =>
      rw [if_neg away] at busy
      exact kept.counter k busy

/-! ## The collections -/

theorem not_mem_cons_iff {x h : Handle} : x ∉ h :: L ↔ x ≠ h ∧ x ∉ L := by simp

theorem State.Queued.loosen (kept : s.Queued L routed) (state : (s.entry h).state ≠ .ready) :
    s.Queued (h :: L) routed :=
  { kept with
    waits := fun mem =>
      ⟨not_mem_cons_iff.2 ⟨fun same => state (same ▸ (kept.waits mem).2), (kept.waits mem).1⟩, (kept.waits mem).2⟩
    stands := fun tight => kept.stands (not_mem_cons_iff.1 tight).2 }

theorem State.Queued.settle (kept : s.Queued (h :: L) routed) (state : (s.entry h).state ≠ .ready) :
    s.Queued L routed :=
  { kept with
    waits := fun mem => ⟨(not_mem_cons_iff.1 (kept.waits mem).1).2, (kept.waits mem).2⟩
    stands := fun tight ready => kept.stands (not_mem_cons_iff.2 ⟨fun same => state (same ▸ ready), tight⟩) ready }

/-- An entry that leaves its collection is loose (R69). -/
theorem State.Queued.leave (kept : s.Queued L routed) (h : Handle) : (s.leave h).Queued (h :: L) routed where
  waits mem := by
    obtain ⟨mem, other⟩ := State.mem_leave.1 mem
    exact ⟨not_mem_cons_iff.2 ⟨other, (kept.waits mem).1⟩, (kept.waits mem).2⟩
  one mem mem' := kept.one (State.mem_leave.1 mem).1 (State.mem_leave.1 mem').1
  stands tight ready := by
    obtain ⟨other, tight⟩ := not_mem_cons_iff.1 tight
    obtain ⟨k, mem⟩ := kept.stands tight ready
    exact ⟨k, State.mem_leave.2 ⟨mem, other⟩⟩
  homed on _ _ mem := kept.homed on (State.mem_leave.1 mem).1
  ordered k := by
    rw [State.collection_leave]
    exact (kept.ordered k).filter _

/-- A loose READY entry that joins a collection stands there, at its place (R68, R69). -/
theorem State.Queued.join (kept : s.Queued (h :: L) routed) (tight : h ∉ L) (ready : (s.entry h).state = .ready)
    (apart : ∀ k, (s.entry k).state = .ready → (s.entry h).accession = (s.entry k).accession → h = k) {q : Collection}
    (home : routed = true → s.collectionFor (s.entry h).nextHop = q) : (s.join h q).Queued L routed := by
  have entry (k : Handle) : (s.join h q).entry k = s.entry k := State.setCollection_entry ..
  have away {k : Collection} : h ∉ s.collection k := fun mem =>
    (not_mem_cons_iff.1 (kept.waits mem).1).1 rfl
  refine ⟨fun {x k} mem => ?_, fun {x k k'} mem mem' => ?_, fun {x} loose state => ?_, fun on {x k} mem => ?_, fun k => ?_⟩
  · rw [entry]
    rcases State.mem_join.1 mem with ⟨rfl, -⟩ | mem
    · exact ⟨tight, ready⟩
    · exact ⟨(not_mem_cons_iff.1 (kept.waits mem).1).2, (kept.waits mem).2⟩
  · rcases State.mem_join.1 mem with ⟨rfl, rfl⟩ | mem <;> rcases State.mem_join.1 mem' with ⟨e, rfl⟩ | mem'
    · rfl
    · exact absurd mem' away
    · exact absurd (e ▸ mem) away
    · exact kept.one mem mem'
  · rw [entry] at state
    by_cases same : x = h
    · exact ⟨q, State.mem_join.2 (.inl ⟨same, rfl⟩)⟩
    · obtain ⟨k, mem⟩ := kept.stands (not_mem_cons_iff.2 ⟨same, loose⟩) state
      exact ⟨k, State.mem_join.2 (.inr mem)⟩
  · rw [entry, State.collectionFor_congr (s := s) (State.Moved.join s h q).routesAlike.stations]
    rcases State.mem_join.1 mem with ⟨rfl, rfl⟩ | mem
    · exact home on
    · exact kept.homed on mem
  · have order : comesBefore (s.join h q) k = comesBefore s k := by
      funext a b
      exact comesBefore_congr (by rw [entry]; exact ⟨rfl, rfl⟩) (by rw [entry]; exact ⟨rfl, rfl⟩) k
    rw [order, State.collection_join]
    split
    · next same =>
      subst same
      refine insertInOrder_pairwise (comesBefore_trans s q) (fun x mem => ?_) (kept.ordered q)
      refine comesBefore_total q fun same => ?_
      exact away (apart x (kept.waits mem).2 same ▸ mem)
    · exact kept.ordered k

/-! ## The exchanges -/

theorem State.Exchanging.loosen (kept : s.Exchanging L) (state : (s.entry h).state ≠ .engaged) :
    s.Exchanging (h :: L) :=
  { kept with
    holds := fun held =>
      ⟨not_mem_cons_iff.2 ⟨fun same => state (same ▸ (kept.holds held).2), (kept.holds held).1⟩, (kept.holds held).2⟩
    engaged := fun tight => kept.engaged (not_mem_cons_iff.1 tight).2 }

theorem State.Exchanging.settle (kept : s.Exchanging (h :: L)) (state : (s.entry h).state ≠ .engaged) :
    s.Exchanging L :=
  { kept with
    holds := fun held => ⟨(not_mem_cons_iff.1 (kept.holds held).1).2, (kept.holds held).2⟩
    engaged := fun tight engaged =>
      kept.engaged (not_mem_cons_iff.2 ⟨fun same => state (same ▸ engaged), tight⟩) engaged }

theorem State.updChan_entry? (s : State) (c d : Chan) (f : Channel → Channel) :
    ((s.updChan c f).chan d).engine.entry? =
      if c = d then (f (s.chan c)).engine.entry? else (s.chan d).engine.entry? := by
  rw [State.chan_updChan]
  split
  · next e => rw [e]
  · rfl

/-- An engine that lets its entry go leaves it loose (R144). -/
theorem State.Exchanging.release (kept : s.Exchanging L) (held : (s.chan c).engine.entry? = some h) {f : Channel → Channel}
    (idle : (f (s.chan c)).engine.entry? = none) : (s.updChan c f).Exchanging (h :: L) := by
  have back {d : Chan} {x : Handle} (held' : ((s.updChan c f).chan d).engine.entry? = some x) :
      c ≠ d ∧ (s.chan d).engine.entry? = some x := by
    rw [State.updChan_entry?] at held'
    split at held'
    · exact nomatch idle.symm.trans held'
    · next other => exact ⟨other, held'⟩
  refine ⟨fun {d x} held' => ?_, fun {x} tight engaged => ?_, fun held' held'' => kept.oneEngine (back held').2 (back held'').2⟩
  · obtain ⟨other, holds⟩ := back held'
    exact ⟨not_mem_cons_iff.2 ⟨fun same => other (kept.oneEngine held (same ▸ holds)), (kept.holds holds).1⟩,
      (kept.holds holds).2⟩
  · obtain ⟨other, tight⟩ := not_mem_cons_iff.1 tight
    obtain ⟨d, holds⟩ := kept.engaged tight engaged
    refine ⟨d, ?_⟩
    rw [State.updChan_entry?, if_neg]
    · exact holds
    · rintro rfl
      exact other (Option.some.inj (holds.symm.trans held))

/-- An engine that holds no entry takes a loose ENGAGED one (R143). -/
theorem State.Exchanging.engage (kept : s.Exchanging (h :: L)) (tight : h ∉ L) (state : (s.entry h).state = .engaged)
    (idle : (s.chan c).engine.entry? = none) {f : Channel → Channel} (takes : (f (s.chan c)).engine.entry? = some h) :
    (s.updChan c f).Exchanging L := by
  have back {d : Chan} {x : Handle} (held : ((s.updChan c f).chan d).engine.entry? = some x) :
      (c = d ∧ x = h) ∨ (x ≠ h ∧ (s.chan d).engine.entry? = some x) := by
    rw [State.updChan_entry?] at held
    split at held
    · next same => exact .inl ⟨same, (Option.some.inj (takes.symm.trans held)).symm⟩
    · exact .inr ⟨fun same => (not_mem_cons_iff.1 (kept.holds held).1).1 same, held⟩
  refine ⟨fun {d x} held => ?_, fun {x} loose engaged => ?_, fun {d d' x} held held' => ?_⟩
  · rcases back held with ⟨-, rfl⟩ | ⟨-, holds⟩
    · exact ⟨tight, state⟩
    · exact ⟨(not_mem_cons_iff.1 (kept.holds holds).1).2, (kept.holds holds).2⟩
  · by_cases same : x = h
    · exact ⟨c, by rw [State.updChan_entry?, if_pos rfl, takes, same]⟩
    · obtain ⟨d, holds⟩ := kept.engaged (not_mem_cons_iff.2 ⟨same, loose⟩) engaged
      refine ⟨d, ?_⟩
      rw [State.updChan_entry?, if_neg]
      · exact holds
      · rintro rfl
        exact nomatch idle.symm.trans holds
  · rcases back held with ⟨rfl, same⟩ | ⟨other, holds⟩ <;> rcases back held' with ⟨rfl, same'⟩ | ⟨other', holds'⟩
    · rfl
    · exact absurd same other'
    · exact absurd same' other
    · exact kept.oneEngine holds holds'

/-! ## The reservations -/

theorem State.Reserving.loosen (kept : s.Reserving L addressed) (state : (s.entry h).state ≠ .receiving) :
    s.Reserving (h :: L) addressed :=
  { kept with
    reserved := fun held =>
      ⟨not_mem_cons_iff.2 ⟨fun same => state (same ▸ (kept.reserved held).2), (kept.reserved held).1⟩,
        (kept.reserved held).2⟩
    receiving := fun tight => kept.receiving (not_mem_cons_iff.1 tight).2 }

theorem State.Reserving.settle (kept : s.Reserving (h :: L) addressed) (state : (s.entry h).state ≠ .receiving) :
    s.Reserving L addressed :=
  { kept with
    reserved := fun held => ⟨(not_mem_cons_iff.1 (kept.reserved held).1).2, (kept.reserved held).2⟩
    receiving := fun tight receiving =>
      kept.receiving (not_mem_cons_iff.2 ⟨fun same => state (same ▸ receiving), tight⟩) receiving }

theorem State.updChan_reservation (s : State) (c d : Chan) (f : Channel → Channel) :
    ((s.updChan c f).chan d).receiver.reservation =
      if c = d then (f (s.chan c)).receiver.reservation else (s.chan d).receiver.reservation := by
  rw [State.chan_updChan]
  split
  · next e => rw [e]
  · rfl

/-- A receive record that ends without an entry, whatever it held, leaves what it held loose (R116). -/
theorem State.Reserving.release (kept : s.Reserving L addressed) {f : Channel → Channel}
    (none : (f (s.chan c)).receiver.reservation = none) :
    (s.updChan c f).Reserving ((s.chan c).receiver.reservation.toList ++ L) addressed := by
  have back {d : Chan} {x : Handle} (held : ((s.updChan c f).chan d).receiver.reservation = some x) :
      c ≠ d ∧ (s.chan d).receiver.reservation = some x := by
    rw [State.updChan_reservation] at held
    split at held
    · exact nomatch none.symm.trans held
    · next other => exact ⟨other, held⟩
  have same {d : Chan} (other : c ≠ d) : (s.updChan c f).chan d = s.chan d := State.chan_updChan_other _ other f
  refine ⟨fun {d x} held => ?_, fun {x} tight state => ?_,
    fun held held' => kept.oneReceiver (back held).2 (back held').2, fun held => ?_, fun on {d x} held => ?_⟩
  · obtain ⟨other, holds⟩ := back held
    refine ⟨fun mem => ?_, (kept.reserved holds).2⟩
    rcases List.mem_append.1 mem with mem | mem
    · exact other (kept.oneReceiver (Option.mem_toList.1 mem) holds)
    · exact (kept.reserved holds).1 mem
  · obtain ⟨notHeld, tight⟩ := not_or.1 (mt List.mem_append.2 tight)
    obtain ⟨d, holds⟩ := kept.receiving tight state
    refine ⟨d, ?_⟩
    rw [State.updChan_reservation, if_neg]
    · exact holds
    · rintro rfl
      exact notHeld (Option.mem_toList.2 holds)
  · obtain ⟨other, holds⟩ := back held
    rw [same other]
    exact (kept.fills holds).congr (.rfl' _) (.rfl' _)
  · obtain ⟨other, holds⟩ := back held
    rw [same other]
    exact kept.headed on holds

/-- A receive record that holds no entry takes a loose RECEIVING one (R120). -/
theorem State.Reserving.reserve (kept : s.Reserving (h :: L) addressed) (tight : h ∉ L)
    (state : (s.entry h).state = .receiving) (none : (s.chan c).receiver.reservation = none) {r : Receiver}
    (takes : r.reservation = some h) (fills : s.Fills r h) (headed : addressed = true → s.Reserves r) :
    (setReceiver r c s).Reserving L addressed := by
  have at_ : ((setReceiver r c s).chan c).receiver = r := by rw [setReceiver, State.chan_updChan_same]
  have back {d : Chan} {x : Handle} (held : ((setReceiver r c s).chan d).receiver.reservation = some x) :
      (c = d ∧ x = h) ∨ (c ≠ d ∧ x ≠ h ∧ (s.chan d).receiver.reservation = some x) := by
    rw [setReceiver, State.updChan_reservation] at held
    split at held
    · next same => exact .inl ⟨same, (Option.some.inj (takes.symm.trans held)).symm⟩
    · next other => exact .inr ⟨other, fun same => (not_mem_cons_iff.1 (kept.reserved held).1).1 same, held⟩
  have same {d : Chan} (other : c ≠ d) : (setReceiver r c s).chan d = s.chan d := State.chan_updChan_other _ other _
  refine ⟨fun {d x} held => ?_, fun {x} loose receiving => ?_, fun {d d' x} held held' => ?_, fun {d x} held => ?_,
    fun on {d x} held => ?_⟩
  · rcases back held with ⟨-, rfl⟩ | ⟨-, -, holds⟩
    · exact ⟨tight, state⟩
    · exact ⟨(not_mem_cons_iff.1 (kept.reserved holds).1).2, (kept.reserved holds).2⟩
  · by_cases here : x = h
    · exact ⟨c, by rw [at_, takes, here]⟩
    · obtain ⟨d, holds⟩ := kept.receiving (not_mem_cons_iff.2 ⟨here, loose⟩) receiving
      refine ⟨d, ?_⟩
      rw [setReceiver, State.updChan_reservation, if_neg]
      · exact holds
      · rintro rfl
        exact nomatch none.symm.trans holds
  · rcases back held with ⟨rfl, here⟩ | ⟨-, other, holds⟩ <;> rcases back held' with ⟨rfl, here'⟩ | ⟨-, other', holds'⟩
    · rfl
    · exact absurd here other'
    · exact absurd here' other
    · exact kept.oneReceiver holds holds'
  · rcases back held with ⟨rfl, rfl⟩ | ⟨other, -, holds⟩
    · rw [at_]; exact fills.congr (.rfl' _) (.rfl' _)
    · rw [same other]; exact (kept.fills holds).congr (.rfl' _) (.rfl' _)
  · rcases back held with ⟨rfl, rfl⟩ | ⟨other, -, holds⟩
    · rw [at_]; exact headed on
    · rw [same other]; exact kept.headed on holds

end

end Sys2Proof.Machine
end

/-! # A message's entry: its fields restated, and the moves between the places where entries stand -/

section
namespace Sys2Proof.Machine

/-! ## The fields of an entry that is restated (Table 1-3) -/

/-- An entry in use whose text is whole. -/
def Entry.Whole (e : Entry) : Prop := e.inUse = true ∧ e.text.length = e.textLength

theorem Entry.inUse_iff {e : Entry} : e.inUse = true ↔ e.state ≠ .free ∧ e.state ≠ .spent := by
  simp [Entry.inUse]

theorem Entry.FieldsKept.wholeOf {e : Entry} (kept : e.FieldsKept) (notFree : e.state ≠ .free) (notSpent : e.state ≠ .spent)
    (notReceiving : e.state ≠ .receiving) : e.Whole :=
  have used := Entry.inUse_iff.2 ⟨notFree, notSpent⟩
  ⟨used, kept.whole used notReceiving⟩

/-- An entry with another state and what goes with it, its message as it was. -/
def Entry.restated (e : Entry) (x : EntryState) (r : Option Index) (last : Option Call) (n : Nat) (b : Option Quad)
    (o : LastOutcome) (cancel : Option Bool) (changed : Bool) : Entry :=
  { e with state := x, nextHop := r, lastHop := last, attemptCount := n, notBefore := b, lastOutcome := o,
           cancelPending := cancel, changed := changed }

/-- A state of a message that the part has whole and has not delivered to its own station. -/
def EntryState.sends (x : EntryState) : Prop := x ≠ .free ∧ x ≠ .spent ∧ x ≠ .receiving ∧ x ≠ .arrived

theorem Entry.FieldsKept.restated {e : Entry} (kept : e.FieldsKept) (whole : e.Whole) {x : EntryState} {r : Option Index}
    {last : Option Call} {n : Nat} {b : Option Quad} {o : LastOutcome} {cancel : Option Bool} {changed : Bool}
    (sends : x.sends) (hop : r ≠ none → x = .ready ∨ x = .engaged) (engaged : x = .engaged → r ≠ none)
    (hopped : x = .engaged ∨ x = .retryWait ∨ x = .sent ∨ x = .refused → last ≠ none) (most : n ≤ 15)
    (left : x = .ready ∨ x = .engaged ∨ x = .retryWait → n ≤ 14) (waits : b ≠ none ↔ x = .retryWait)
    (pending : cancel ≠ none ↔ x = .engaged) : (e.restated x r last n b o cancel changed).FieldsKept := by
  obtain ⟨used, text⟩ := whole
  obtain ⟨free, spent, receiving, arrived⟩ := sends
  exact ⟨fun same => absurd same free, fun same => absurd same spent, fun _ => kept.receivedFrom used, hop, engaged, hopped,
    fun same => absurd same (not_or.2 ⟨receiving, arrived⟩), most, left, waits, pending,
    fun same => absurd same receiving, fun _ => kept.blocks used, kept.longest, fun _ _ => text⟩

theorem Entry.FieldsKept.attempts_left {e : Entry} (kept : e.FieldsKept) (engaged : e.state = .engaged) :
    e.attemptCount ≤ 14 := kept.attemptsLeft (.inr (.inl engaged))

/-- The final states that an ending of an exchange, a refusal or a cancel leaves (Table 1-2). -/
def EntryState.closes (x : EntryState) : Prop := x = .sent ∨ x = .refused ∨ x = .failed ∨ x = .cancelled

/-- An entry closed, the changed flag set or kept (R20, R47). -/
theorem Entry.FieldsKept.ended {e : Entry} (kept : e.FieldsKept) (whole : e.Whole) {x : EntryState} (closes : x.closes)
    (hopped : x = .sent ∨ x = .refused → e.lastHop ≠ none) {n : Nat} (most : n ≤ 15) (o : LastOutcome) (changed : Bool) :
    (e.restated x none e.lastHop n none o none changed).FieldsKept := by
  rcases closes with rfl | rfl | rfl | rfl <;>
    exact kept.restated whole ⟨nofun, nofun, nofun, nofun⟩ (absurd rfl) nofun
      (by simp_all) most nofun ⟨(absurd rfl ·), nofun⟩ ⟨(absurd rfl ·), nofun⟩

theorem Entry.FieldsKept.closed {e : Entry} (kept : e.FieldsKept) (whole : e.Whole) {x : EntryState} (closes : x.closes)
    (hopped : x = .sent ∨ x = .refused → e.lastHop ≠ none) (o : LastOutcome) : (e.closed x o).FieldsKept :=
  kept.ended whole closes hopped kept.attempts o true

/-- An entry READY with a route (R27). -/
theorem Entry.FieldsKept.placed {e : Entry} (kept : e.FieldsKept) (whole : e.Whole) (left : e.attemptCount ≤ 14)
    (r : Option Index) (o : LastOutcome) :
    (e.restated .ready r e.lastHop e.attemptCount none o none e.changed).FieldsKept :=
  kept.restated whole ⟨nofun, nofun, nofun, nofun⟩ (fun _ => .inl rfl) nofun (by simp) kept.attempts (fun _ => left)
    ⟨(absurd rfl ·), nofun⟩ ⟨(absurd rfl ·), nofun⟩

/-! ## The moves -/

namespace State.Filed
variable {L : List Handle} {routed addressed : Bool} {s t : State} {h : Handle} {c : Chan}

theorem fields (kept : s.Filed L routed addressed) (h : Handle) : (s.entry h).FieldsKept := kept.tabled.fields h

/-- An entry that is neither READY nor ENGAGED nor RECEIVING stands nowhere. -/
theorem loosen (kept : s.Filed L routed addressed) (ready : (s.entry h).state ≠ .ready)
    (engaged : (s.entry h).state ≠ .engaged) (receiving : (s.entry h).state ≠ .receiving) :
    s.Filed (h :: L) routed addressed :=
  ⟨kept.tabled, kept.queued.loosen ready, kept.exchanging.loosen engaged, kept.reserving.loosen receiving⟩

theorem settle (kept : s.Filed (h :: L) routed addressed) (ready : (s.entry h).state ≠ .ready)
    (engaged : (s.entry h).state ≠ .engaged) (receiving : (s.entry h).state ≠ .receiving) : s.Filed L routed addressed :=
  ⟨kept.tabled, kept.queued.settle ready, kept.exchanging.settle engaged, kept.reserving.settle receiving⟩

/-- An entry of a final state stands nowhere. -/
theorem settle_closed (kept : s.Filed (h :: L) routed addressed) (closes : (s.entry h).state.closes) :
    s.Filed L routed addressed :=
  kept.settle (fun e => by rw [e] at closes; simp [EntryState.closes] at closes)
    (fun e => by rw [e] at closes; simp [EntryState.closes] at closes)
    (fun e => by rw [e] at closes; simp [EntryState.closes] at closes)

/-- A READY entry leaves its collection (R69). -/
theorem leave (kept : s.Filed L routed addressed) (ready : (s.entry h).state = .ready) :
    (s.leave h).Filed (h :: L) routed addressed where
  tabled := kept.tabled.congr rfl rfl rfl rfl
  queued := kept.queued.leave h
  exchanging := (kept.exchanging.loosen (by rw [ready]; nofun)).congr (fun _ _ => rfl) fun c => by rw [State.leave_engine]
  reserving := (kept.reserving.loosen (by rw [ready]; nofun)).congr (fun _ _ => .rfl' _)
    (fun c => .of_eq (by rw [State.chan_leave])) fun _ => rfl

theorem collection_updChan {f : Channel → Channel} (queue : (f (s.chan c)).queue = (s.chan c).queue) (k : Collection) :
    (s.updChan c f).collection k = s.collection k := by
  cases k with
  | unrouted => rfl
  | queue d =>
    rw [State.collection, State.chan_updChan, State.collection]
    split
    · next e => exact e ▸ queue
    · rfl

theorem carries_updChan {f : Channel → Channel} (receiver : (s.chan c).receiver.Carries (f (s.chan c)).receiver)
    (d : Chan) : (s.chan d).receiver.Carries ((s.updChan c f).chan d).receiver := by
  rw [State.chan_updChan]
  split
  · next e => exact e ▸ receiver
  · exact .rfl' _

theorem entry?_updChan {f : Channel → Channel} (engine : (f (s.chan c)).engine.entry? = (s.chan c).engine.entry?)
    (d : Chan) : ((s.updChan c f).chan d).engine.entry? = (s.chan d).engine.entry? := by
  rw [State.updChan_entry?]
  split
  · next e => exact e ▸ engine
  · rfl

/-- An engine lets its entry go (R144). -/
theorem release (kept : s.Filed L routed addressed) (held : (s.chan c).engine.entry? = some h) {f : Channel → Channel}
    (idle : (f (s.chan c)).engine.entry? = none) (queue : (f (s.chan c)).queue = (s.chan c).queue)
    (receiver : (s.chan c).receiver.Carries (f (s.chan c)).receiver) :
    (s.updChan c f).Filed (h :: L) routed addressed := by
  obtain ⟨-, engaged⟩ := kept.exchanging.holds held
  exact ⟨kept.tabled.congr rfl rfl rfl rfl,
    (kept.queued.loosen (by rw [engaged]; nofun)).congr (fun _ _ => .rfl' _) (collection_updChan queue) fun _ _ _ => rfl,
    kept.exchanging.release held idle,
    (kept.reserving.loosen (by rw [engaged]; nofun)).congr (fun _ _ => .rfl' _) (carries_updChan receiver) fun _ => rfl⟩

theorem idleEngine (kept : s.Filed L routed addressed) (held : (s.chan c).engine.entry? = some h) :
    (idleEngine c s).Filed (h :: L) routed addressed := kept.release held rfl rfl (.rfl' _)

/-- A loose ENGAGED entry is taken by an engine that holds none (R143). -/
theorem engage (kept : s.Filed (h :: L) routed addressed) (tight : h ∉ L) (engaged : (s.entry h).state = .engaged)
    (idle : (s.chan c).engine.entry? = none) {f : Channel → Channel} (takes : (f (s.chan c)).engine.entry? = some h)
    (queue : (f (s.chan c)).queue = (s.chan c).queue) (receiver : (f (s.chan c)).receiver = (s.chan c).receiver) :
    (s.updChan c f).Filed L routed addressed where
  tabled := kept.tabled.congr rfl rfl rfl rfl
  queued := (kept.queued.settle (by rw [engaged]; nofun)).congr (fun _ _ => .rfl' _) (collection_updChan queue) fun _ _ _ => rfl
  exchanging := kept.exchanging.engage tight engaged idle takes
  reserving := (kept.reserving.settle (by rw [engaged]; nofun)).congr (fun _ _ => .rfl' _)
    (carries_updChan (.of_eq receiver)) fun _ => rfl

/-- A channel that keeps its queue and its exchange, and whose receive record ends without an entry. -/
theorem clearReceiver (kept : s.Filed L routed addressed) {f : Channel → Channel}
    (none : (f (s.chan c)).receiver.reservation = none) (queue : (f (s.chan c)).queue = (s.chan c).queue)
    (engine : (f (s.chan c)).engine.entry? = (s.chan c).engine.entry?) :
    (s.updChan c f).Filed ((s.chan c).receiver.reservation.toList ++ L) routed addressed := by
  have receiving {x : Handle} (mem : x ∈ (s.chan c).receiver.reservation.toList) : (s.entry x).state = .receiving :=
    (kept.reserving.reserved (Option.mem_toList.1 mem)).2
  have loosened : s.Queued ((s.chan c).receiver.reservation.toList ++ L) routed ∧
      s.Exchanging ((s.chan c).receiver.reservation.toList ++ L) := by
    cases e : (s.chan c).receiver.reservation with
    | none => exact ⟨kept.queued, kept.exchanging⟩
    | some x =>
      have state := receiving (x := x) (by rw [e]; exact List.mem_singleton_self x)
      exact ⟨kept.queued.loosen (by rw [state]; nofun), kept.exchanging.loosen (by rw [state]; nofun)⟩
  exact ⟨kept.tabled.congr rfl rfl rfl rfl,
    loosened.1.congr (fun _ _ => .rfl' _) (collection_updChan queue) fun _ _ _ => rfl,
    loosened.2.congr (fun _ _ => rfl) (entry?_updChan engine), kept.reserving.release none⟩

/-- A receive record that holds no entry is written anew without one. -/
theorem setReceiver (kept : s.Filed L routed addressed) (free : (s.chan c).receiver.reservation = none) {r : Receiver}
    (none : r.reservation = none) : (setReceiver r c s).Filed L routed addressed := by
  have cleared := kept.clearReceiver (c := c) (f := fun x => { x with receiver := r }) none rfl rfl
  rwa [free] at cleared

/-- A receive record ends without the entry that it held. -/
theorem unreserve (kept : s.Filed L routed addressed) (held : (s.chan c).receiver.reservation = some h) {r : Receiver}
    (none : r.reservation = none) : (Machine.setReceiver r c s).Filed (h :: L) routed addressed := by
  have cleared := kept.clearReceiver (c := c) (f := fun x => { x with receiver := r }) none rfl rfl
  rwa [held] at cleared

/-- A loose RECEIVING entry is taken by a receive record that holds none (R120). -/
theorem reserve (kept : s.Filed (h :: L) routed addressed) (tight : h ∉ L) (state : (s.entry h).state = .receiving)
    (free : (s.chan c).receiver.reservation = none) {r : Receiver} (takes : r.reservation = some h) (fills : s.Fills r h)
    (headed : addressed = true → s.Reserves r) : (Machine.setReceiver r c s).Filed L routed addressed where
  tabled := kept.tabled.congr rfl rfl rfl rfl
  queued := (kept.queued.settle (by rw [state]; nofun)).congr (fun _ _ => .rfl' _) (collection_updChan rfl) fun _ _ _ => rfl
  exchanging := (kept.exchanging.settle (by rw [state]; nofun)).congr (fun _ _ => rfl) (entry?_updChan rfl)
  reserving := kept.reserving.reserve tight state free takes fills headed

/-- An entry in use is rewritten: a loose one, or one that stays what its place reads of it. -/
theorem setEntry (kept : s.Filed L routed addressed) {e : Entry} (apart : h ∈ L ∨ (s.entry h).Alike e ∧
    (routed = true → e.nextHop = (s.entry h).nextHop)) (used : (s.entry h).inUse = true) (used' : e.inUse = true)
    (fields : e.FieldsKept) (accession : e.accession = (s.entry h).accession) (key : e.key = (s.entry h).key)
    (blocks : e.blockCount = (s.entry h).blockCount) : (s.setEntry h e).Filed L routed addressed := by
  have alike (k : Handle) (tight : k ∉ L) : (s.entry k).Alike ((s.setEntry h e).entry k) := by
    rw [State.entry_setEntry]
    split
    · next here =>
      subst here
      exact (apart.resolve_left tight).1
    · exact .rfl' _
  refine ⟨kept.tabled.setEntry used used' fields accession key blocks,
    kept.queued.congr alike (fun k => State.collection_updEntry s h (fun _ => e) k) fun on k tight => ?_,
    kept.exchanging.congr (fun k tight => (alike k tight).1) fun _ => rfl,
    kept.reserving.congr alike (fun _ => .rfl' _) fun _ => rfl⟩
  rw [State.entry_setEntry]
  split
  · next here =>
    subst here
    rw [(apart.resolve_left tight).2 on]
    rfl
  · rfl

/-- A loose entry is restated. -/
theorem restate (kept : s.Filed (h :: L) routed addressed) (whole : (s.entry h).Whole) {f : Entry → Entry}
    (fields : (f (s.entry h)).FieldsKept) (used : (f (s.entry h)).inUse = true)
    (accession : (f (s.entry h)).accession = (s.entry h).accession) (key : (f (s.entry h)).key = (s.entry h).key)
    (blocks : (f (s.entry h)).blockCount = (s.entry h).blockCount) : (s.updEntry h f).Filed (h :: L) routed addressed :=
  kept.setEntry (.inl List.mem_cons_self) whole.1 used fields accession key blocks

/-- A loose entry that is restated and then joins its collection is READY there (R27). -/
theorem join (kept : s.Filed (h :: L) routed addressed) (tight : h ∉ L) (ready : (s.entry h).state = .ready) {q : Collection}
    (home : routed = true → s.collectionFor (s.entry h).nextHop = q) : (s.join h q).Filed L routed addressed := by
  have moved := State.Moved.join s h q
  have entry (k : Handle) : (s.join h q).entry k = s.entry k := State.setCollection_entry ..
  have chan (c : Chan) : ((s.join h q).chan c).receiver = (s.chan c).receiver := (congrArg Channel.receiver (moved.chan c) :)
  have notFree : (s.entry h).state ≠ .free := by rw [ready]; nofun
  have entries : (s.join h q).entries = s.entries := by
    unfold State.join State.setCollection
    split <;> rfl
  refine ⟨kept.tabled.congr entries (congrArg State.accessionCounter moved.rest :) (congrArg State.freeEntries moved.rest :)
      (congrArg State.freeBlocks moved.rest :),
    kept.queued.join tight ready (fun k state => kept.tabled.accessions _ _ notFree (by rw [state]; nofun)) home,
    (kept.exchanging.settle (by rw [ready]; nofun)).congr (fun k _ => by rw [entry]) fun c => ?_,
    (kept.reserving.settle (by rw [ready]; nofun)).congr (fun k _ => .of_eq (entry k)) (fun c => .of_eq (chan c)) fun _ =>
      (congrArg (fun u : State => u.own.call) moved.rest :)⟩
  rw [State.join, State.setCollection_engine]

end State.Filed

end Sys2Proof.Machine
end

/-! # Endings, withdrawals, considerations and sweeps keep the filing (R27, R33 to R41, R72, R73, R142) -/

section
namespace Sys2Proof.Machine

/-- An entry in a state of a whole message with another outcome. -/
theorem Entry.FieldsKept.outcome {e : Entry} (kept : e.FieldsKept) (whole : e.Whole) (sends : e.state.sends)
    (o : LastOutcome) : ({ e with lastOutcome := o } : Entry).FieldsKept :=
  kept.restated whole (x := e.state) (o := o) (changed := e.changed) sends kept.nextHop kept.engagedHop kept.lastHop
    kept.attempts kept.attemptsLeft kept.notBefore kept.cancelPending

theorem comesBefore_irrefl (s : State) (k : Collection) (h : Handle) : comesBefore s k h h = false := by
  cases k <;> simp [comesBefore]

/-- A collection holds an entry once (R68). -/
theorem State.Queued.nodup {L : List Handle} {routed : Bool} {s : State} (kept : s.Queued L routed) (k : Collection) :
    (s.collection k).Nodup :=
  (kept.ordered k).imp fun {a b} before same => by
    subst same
    rw [comesBefore_irrefl] at before
    exact nomatch before

namespace State.Filed
variable {L : List Handle} {routed addressed : Bool} {s t : State} {h : Handle} {c : Chan}

/-! ## Endings (R20, R35 to R41) -/

/-- A loose entry is closed. -/
theorem closeEntry (kept : s.Filed (h :: L) routed addressed) (whole : (s.entry h).Whole) {x : EntryState}
    (closes : x.closes) (hopped : x = .sent ∨ x = .refused → (s.entry h).lastHop ≠ none) (o : LastOutcome) :
    (s.closeEntry h x o).Filed L routed addressed := by
  have used : ((s.entry h).closed x o).inUse = true := by
    rcases closes with rfl | rfl | rfl | rfl <;> rfl
  have restated : (s.closeEntry h x o).Filed (h :: L) routed addressed :=
    kept.restate whole ((kept.fields h).closed whole closes hopped o) used rfl rfl rfl
  exact restated.settle_closed (by rw [State.closeEntry_entry]; exact closes)

/-- A loose entry is resolved and placed (R27). -/
theorem place (kept : s.Filed (h :: L) routed addressed) (tight : h ∉ L) (whole : (s.entry h).Whole)
    (left : (s.entry h).attemptCount ≤ 14) : (s.place h).Filed L routed addressed := by
  have restated := kept.restate whole (f := fun e =>
    { e with state := .ready, nextHop := s.route (s.entry h), notBefore := none, cancelPending := none })
    ((kept.fields h).placed whole left _ _) rfl rfl rfl rfl
  have entry := State.entry_updEntry s h h fun e =>
    { e with state := .ready, nextHop := s.route (s.entry h), notBefore := none, cancelPending := none }
  rw [if_pos rfl] at entry
  exact restated.join tight (by rw [entry]) fun _ => by rw [entry]; rfl

theorem engaged_whole (kept : s.Filed L routed addressed) (engaged : (s.entry h).state = .engaged) : (s.entry h).Whole :=
  (kept.fields h).wholeOf (by rw [engaged]; nofun) (by rw [engaged]; nofun) (by rw [engaged]; nofun)

theorem engaged_lastHop (kept : s.Filed L routed addressed) (engaged : (s.entry h).state = .engaged) :
    (s.entry h).lastHop ≠ none := (kept.fields h).lastHop (.inl engaged)

/-- A loose entry that was ENGAGED is back in READY with an outcome (R37, R39, R40). -/
theorem returnEntry (kept : s.Filed (h :: L) routed addressed) (tight : h ∉ L) (engaged : (s.entry h).state = .engaged)
    (o : LastOutcome) : (s.returnEntry h o).Filed L routed addressed := by
  have whole := kept.engaged_whole engaged
  have fields := kept.fields h
  have entry := State.entry_updEntry s h h fun e => { e with lastOutcome := o }
  rw [if_pos rfl] at entry
  have restated := kept.restate whole (f := fun e => { e with lastOutcome := o })
    (fields.outcome whole (by rw [engaged]; exact ⟨nofun, nofun, nofun, nofun⟩) o) whole.1 rfl rfl rfl
  exact restated.place tight (by rw [entry]; exact whole) (by rw [entry]; exact fields.attempts_left engaged)

theorem endReturned (kept : s.Filed (h :: L) routed addressed) (tight : h ∉ L) (engaged : (s.entry h).state = .engaged)
    (o : LastOutcome) : (s.endReturned h o).Filed L routed addressed := by
  unfold State.endReturned
  split
  · exact kept.closeEntry (kept.engaged_whole engaged) (.inr (.inr (.inr rfl))) (by simp) o
  · exact kept.returnEntry tight engaged o

theorem endRefused (kept : s.Filed (h :: L) routed addressed) (engaged : (s.entry h).state = .engaged) :
    (s.endRefused h).Filed L routed addressed := by
  refine kept.closeEntry (kept.engaged_whole engaged) ?_ (fun _ => kept.engaged_lastHop engaged) .noroute
  split
  · exact .inr (.inr (.inr rfl))
  · exact .inr (.inl rfl)

theorem closeSent (kept : s.Filed (h :: L) routed addressed) (engaged : (s.entry h).state = .engaged) (o : LastOutcome) :
    (s.closeEntry h .sent o).Filed L routed addressed :=
  kept.closeEntry (kept.engaged_whole engaged) (.inl rfl) (fun _ => kept.engaged_lastHop engaged) o

theorem endRecorded (kept : s.Filed (h :: L) routed addressed) (tight : h ∉ L) (engaged : (s.entry h).state = .engaged)
    (v : Verdict) : (s.endRecorded h v).Filed L routed addressed := by
  cases v with
  | accept | duplicate => exact kept.closeSent engaged .confirmedLate
  | noroute => exact kept.endRefused engaged
  | full => exact kept.endReturned tight engaged .full

/-- A STAGED exchange that is withdrawn (R39). -/
theorem withdraw (kept : s.Filed L routed addressed) (c : Chan) : (withdraw c s).Filed L routed addressed := by
  unfold Machine.withdraw
  split
  · next h w x staged =>
    have held : (s.chan c).engine.entry? = some h := by rw [staged]; rfl
    obtain ⟨tight, engaged⟩ := kept.exchanging.holds held
    exact (kept.idleEngine held).returnEntry tight engaged .withdrawn
  · exact kept

theorem withdrawIf (kept : s.Filed L routed addressed) (test : State → Entry → Bool) (c : Chan) :
    (withdrawIf test c s).Filed L routed addressed := by
  unfold Machine.withdrawIf
  split
  · split
    · exact kept.withdraw c
    · exact kept
  · exact kept

/-- An exchange ended by an abort, a disable or a clear (R39 to R41). -/
theorem endExchange (kept : s.Filed L routed addressed) (c : Chan) : (endExchange c s).Filed L routed addressed := by
  unfold Machine.endExchange
  split
  · exact kept
  · exact kept.withdraw c
  · next h v sending =>
    have held : (s.chan c).engine.entry? = some h := by rw [sending]; rfl
    obtain ⟨tight, engaged⟩ := kept.exchanging.holds held
    exact (kept.idleEngine held).endRecorded tight engaged v
  · next h sending =>
    have held : (s.chan c).engine.entry? = some h := by rw [sending]; rfl
    obtain ⟨tight, engaged⟩ := kept.exchanging.holds held
    exact (kept.idleEngine held).endReturned tight engaged .aborted
  · next h n awaiting =>
    have held : (s.chan c).engine.entry? = some h := by rw [awaiting]; rfl
    obtain ⟨tight, engaged⟩ := kept.exchanging.holds held
    exact (kept.idleEngine held).endReturned tight engaged .aborted

/-! ## Considerations (R34, R142, R143) -/

theorem ready_whole (kept : s.Filed L routed addressed) (ready : (s.entry h).state = .ready) : (s.entry h).Whole :=
  (kept.fields h).wholeOf (by rw [ready]; nofun) (by rw [ready]; nofun) (by rw [ready]; nofun)

theorem failOversize (kept : s.Filed L routed addressed) (ready : (s.entry h).state = .ready) :
    (failOversize h s).Filed L routed addressed :=
  (kept.leave ready).closeEntry (kept.ready_whole ready) (.inr (.inr (.inl rfl))) (by simp) .oversize

/-- A next hop that leads to a channel names a station (R53). -/
theorem hopCall_of_queue {r : Option Index} (home : s.collectionFor r = .queue c) :
    r ≠ none ∧ s.hopCall r ≠ none := by
  cases r with
  | none => exact nomatch home
  | some i =>
    refine ⟨nofun, fun absent => ?_⟩
    have empty : s.station i = none := by simpa [State.hopCall] using absent
    simp [State.collectionFor, State.hopChannel, empty] at home

/-- An engine that holds no entry takes one of its queue (R143). -/
theorem takes (kept : s.Filed L true addressed) (idle : (s.chan c).engine = .idle) (mem : h ∈ (s.chan c).queue) :
    (Machine.engage c h s).Filed L true addressed := by
  obtain ⟨tight, ready⟩ := kept.queued.waits (k := .queue c) mem
  obtain ⟨hop, call⟩ := hopCall_of_queue (kept.queued.homed rfl (k := .queue c) mem)
  have fields := kept.fields h
  have whole := kept.ready_whole ready
  have noWait : ((s.entry h).notBefore ≠ none ↔ EntryState.engaged = .retryWait) :=
    iff_of_false (fun some => nomatch (ready.symm.trans (fields.notBefore.1 some))) nofun
  have restated := (kept.leave ready).restate (h := h) (f := fun e =>
      { e with state := .engaged, lastHop := s.hopCall e.nextHop, cancelPending := some false }) whole
    (fields.restated whole (x := .engaged) (changed := (s.entry h).changed) (o := (s.entry h).lastOutcome)
      ⟨nofun, nofun, nofun, nofun⟩ (fun _ => .inr rfl) (fun _ => hop) (fun _ => call) fields.attempts
      (fun _ => fields.attemptsLeft (.inl ready)) noWait ⟨fun _ => rfl, nofun⟩) rfl rfl rfl rfl
  refine restated.engage (c := c)
    (f := fun k => { k with engine := .staged h (s.waitOf c (s.entry h)) (s.needOf c (s.entry h)) }) tight ?_ ?_ rfl rfl rfl
  · rw [State.entry_updEntry, if_pos rfl]
  · rw [State.updEntry_chan, State.leave_engine, idle]
    rfl

theorem walk (c : Chan) (q : List Handle) : ∀ {s : State}, s.Filed L true addressed → (s.chan c).engine = .idle →
    q.Nodup → (∀ h ∈ q, h ∈ (s.chan c).queue) → (walk c q s).Filed L true addressed := by
  induction q with
  | nil => exact fun kept _ _ _ => kept
  | cons h q ih =>
    intro s kept idle nodup mem
    obtain ⟨notIn, nodup⟩ := List.nodup_cons.1 nodup
    have rest : ∀ x ∈ q, x ∈ (s.chan c).queue := fun x m => mem x (List.mem_cons_of_mem h m)
    have here := mem h List.mem_cons_self
    rw [Machine.walk]
    split
    · exact ih kept idle nodup rest
    · split
      · have ready := (kept.queued.waits (k := .queue c) here).2
        refine ih (kept.failOversize ready) ((State.leave_engine s h c).trans idle) nodup fun x m => ?_
        exact (State.mem_leave (q := .queue c)).2 ⟨rest x m, fun same => notIn (same ▸ m)⟩
      · split
        · exact kept.takes idle here
        · exact ih kept idle nodup rest

theorem consider (kept : s.Filed L true addressed) (c : Chan) : (consider c s).Filed L true addressed := by
  unfold Machine.consider
  split
  · next considers =>
    have idle : (s.chan c).engine = .idle := by
      rw [Channel.considers_iff] at considers
      exact considers.1
    exact kept.walk c _ idle (kept.queued.nodup (.queue c)) fun _ mem => mem
  · exact kept

theorem considerAll (kept : s.Filed L true addressed) : (considerAll s).Filed L true addressed :=
  forChans_keeps (P := (State.Filed L true addressed)) (fun c _ kept => kept.consider c) kept

theorem arbitrate (kept : s.Filed L routed addressed) (c : Chan) : (arbitrate c s).Filed L routed addressed := by
  have exchange := Channel.arbitrated_exchange (s.chan c)
  exact kept.congr (.of_updChan s c exchange.1 (congrArg Engine.entry? exchange.2)
    (.of_eq (Channel.arbitrated_sameLine _).receiver))

theorem arbitrateAll (kept : s.Filed L routed addressed) : (arbitrateAll s).Filed L routed addressed :=
  forChans_keeps (P := (State.Filed L routed addressed)) (fun c _ kept => kept.arbitrate c) kept

theorem conclude (kept : s.Filed L true addressed) : (conclude s).Filed L true addressed :=
  kept.considerAll.arbitrateAll

theorem answer (kept : s.Filed L routed addressed) (r : Result) (d : List Byte) :
    (s.answer r d).Filed L routed addressed := kept.congr (.of_rest rfl)

theorem endPause (kept : s.Filed L true addressed) (was : Chan → Bool) (c : Chan) :
    (endPause was c s).Filed L true addressed := by
  unfold Machine.endPause
  split
  · exact (kept.congr (.of_updChan s c rfl rfl (.rfl' _))).consider c
  · exact kept

theorem endPauses (kept : s.Filed L true addressed) (was : Chan → Bool) :
    (Machine.arbitrateAll (forChans (Machine.endPause was) s)).Filed L true addressed :=
  (forChans_keeps (P := (State.Filed L true addressed)) (fun c _ kept => kept.endPause was c) kept).arbitrateAll

theorem takeRequest {effect : State → State} (kept : (effect s).Filed L true addressed) :
    (takeRequest effect s).Filed L true addressed := kept.endPauses _

/-! ## Sweeps (R71 to R73) -/

/-- A READY entry of a collection resolved afresh (R72). -/
theorem sweepEntry (kept : s.Filed L false addressed) {p : Collection × Handle} (tight : p.2 ∉ L)
    (ready : (s.entry p.2).state = .ready) : (sweepEntry p s).Filed L false addressed := by
  have fields := kept.fields p.2
  have whole := kept.ready_whole ready
  have rehopped : (s.updEntry p.2 fun e => { e with nextHop := s.route (s.entry p.2) }).Filed L false addressed :=
    kept.setEntry (.inr ⟨.rfl' _, nofun⟩) whole.1 whole.1
      (fields.restated whole (x := (s.entry p.2).state) (o := (s.entry p.2).lastOutcome) (changed := (s.entry p.2).changed)
        (by rw [ready]; exact ⟨nofun, nofun, nofun, nofun⟩) (fun _ => .inl ready)
        (fun engaged => nomatch ready.symm.trans engaged) fields.lastHop fields.attempts fields.attemptsLeft fields.notBefore
        fields.cancelPending) rfl rfl rfl
  have state : ((s.updEntry p.2 fun e => { e with nextHop := s.route (s.entry p.2) }).entry p.2).state = .ready := by
    rw [State.entry_updEntry, if_pos rfl]
    exact ready
  by_cases home : s.collectionFor (s.route (s.entry p.2)) = p.1
  · rwa [sweepEntry_of_home home]
  · rw [sweepEntry_of_away home]
    exact (rehopped.leave state).join tight state nofun

theorem foldl_sweepEntry (L' : List (Collection × Handle)) : ∀ {s : State}, s.Filed L false addressed →
    (∀ p ∈ L', p.2 ∉ L ∧ (s.entry p.2).state = .ready) →
    (L'.foldl (fun s p => Machine.sweepEntry p s) s).Filed L false addressed := by
  induction L' with
  | nil => exact fun kept _ => kept
  | cons p L' ih =>
    intro s kept all
    obtain ⟨tight, ready⟩ := all p List.mem_cons_self
    refine ih (kept.sweepEntry tight ready) fun x mem => ⟨(all x (List.mem_cons_of_mem p mem)).1, ?_⟩
    by_cases same : x.2 = p.2
    · rw [same, sweepEntry_entry]
      exact ready
    · rw [(State.SameAt.sweepEntry same).1]
      exact (all x (List.mem_cons_of_mem p mem)).2

/-- A READY entry that is not loose stands in one collection. -/
theorem standsAt (kept : s.Filed L routed addressed) (tight : h ∉ L) (ready : (s.entry h).state = .ready) :
    ∃ k, ∀ q, h ∈ s.collection q ↔ q = k := by
  obtain ⟨k, mem⟩ := kept.queued.stands tight ready
  exact ⟨k, fun q => ⟨fun mem' => kept.queued.one mem' mem, fun same => same ▸ mem⟩⟩

/-- An entry that is loose or not READY waits in no collection. -/
theorem apart (kept : s.Filed L routed addressed) (away : h ∈ L ∨ (s.entry h).state ≠ .ready) (q : Collection) :
    h ∉ s.collection q := fun mem =>
  away.elim (kept.queued.waits mem).1 fun state => state (kept.queued.waits mem).2

theorem sweepEntries_state (kept : s.Filed L routed addressed) (h : Handle) :
    ((sweepEntries s).entry h).state = (s.entry h).state := by
  by_cases stands : h ∉ L ∧ (s.entry h).state = .ready
  · obtain ⟨k, one⟩ := kept.standsAt stands.1 stands.2
    rw [(State.SweptAt.sweepEntries one).1]
  · have away : h ∈ L ∨ (s.entry h).state ≠ .ready := by tauto
    rw [(State.SameAt.sweepEntries (kept.apart away)).1]

/-- A sweep of the entries leaves every next hop routed (R72). -/
theorem sweepEntries (kept : s.Filed L routed addressed) : (sweepEntries s).Filed L true addressed := by
  have swept : (Machine.sweepEntries s).Filed L false addressed :=
    kept.unrouted.foldl_sweepEntry s.waiting fun p mem => kept.queued.waits (State.mem_waiting.1 mem)
  refine { swept with queued := { swept.queued with homed := fun _ h k mem => ?_ } }
  obtain ⟨tight, ready⟩ := swept.queued.waits mem
  rw [kept.sweepEntries_state] at ready
  obtain ⟨q, one⟩ := kept.standsAt tight ready
  obtain ⟨entry, at_⟩ := State.SweptAt.sweepEntries one
  rw [entry, State.collectionFor_congr (State.Moved.sweepEntries s).routesAlike.stations]
  exact ((at_ k).1 mem).symm

theorem sweep (kept : s.Filed L routed addressed) : (sweep s).Filed L true addressed :=
  forChans_keeps (P := (State.Filed L true addressed)) (fun c _ kept => kept.withdrawIf (strayed c) c) kept.sweepEntries

end State.Filed

end Sys2Proof.Machine
end

/-! # Entries freed, spent and allocated (R9 to R19, R32, R51, R124) -/

section
namespace Sys2Proof.Machine

/-! ## The serial that FILE chooses is fresh from any count (R13) -/

theorem firstFree_of_all_held {α : Type} {held : α → Bool} {next : α → α} {n : Nat} {a : α}
    (all : ∀ j, j < n → held (Nat.repeat next j a) = true) : firstFree held next n a = Nat.repeat next n a := by
  induction n generalizing a with
  | zero => rfl
  | succ n ih =>
    have first : held a = true := all 0 (Nat.succ_pos n)
    rw [firstFree, if_pos first, ← repeat_next]
    exact ih fun j lt => by rw [repeat_next]; exact all (j + 1) (Nat.succ_lt_succ lt)

/-- 257 distinct values are not all held by 256 entries, so the search passes what is held. -/
theorem firstFree_unheld {α : Type} {holds : Handle → α → Prop} {held : α → Bool} {next : α → α} {a : α}
    (held_iff : ∀ b, held b = true ↔ ∃ k, holds k b) (functional : ∀ k b c, holds k b → holds k c → b = c)
    (distinct : ∀ i j, i ≤ 256 → j ≤ 256 → Nat.repeat next i a = Nat.repeat next j a → i = j) (k : Handle) :
    ¬ holds k (firstFree held next 256 a) := by
  by_cases some : ∃ j, j < 256 ∧ held (Nat.repeat next j a) = false
  · obtain ⟨m, -, found, -, free⟩ := firstFree_spec some
    rw [found]
    exact fun holder => by rw [(held_iff _).2 ⟨k, holder⟩] at free; exact nomatch free
  · have all (j : Nat) (lt : j < 256) : held (Nat.repeat next j a) = true := by
      by_contra free
      exact some ⟨j, lt, by simpa using free⟩
    rw [firstFree_of_all_held all]
    intro holder
    obtain ⟨j, lt, unheld⟩ := exists_unheld (h := k) functional (fun i j hi hj => distinct i j (by omega) (by omega))
      fun j lt own => absurd (distinct j 256 (by omega) (le_refl 256) (functional k _ _ own holder)) (by omega)
    obtain ⟨x, own⟩ := (held_iff _).1 (all j lt)
    exact unheld x own

theorem repeat_serialAfter_zero {j : Nat} (few : j ≤ 9998) : Nat.repeat serialAfter j 0 = j := by
  cases j with
  | zero => rfl
  | succ j =>
    rw [← repeat_next, show serialAfter 0 = 1 from rfl, repeat_serialAfter (le_refl 1) (by omega) (by omega),
      if_pos (by omega), Nat.add_comm]

/-- The first 257 serials counted from any count are distinct (R13). -/
theorem repeat_serialAfter_injective (x i j : Nat) (hi : i ≤ 256) (hj : j ≤ 256)
    (same : Nat.repeat serialAfter i x = Nat.repeat serialAfter j x) : i = j := by
  by_cases zero : x = 0
  · rw [zero, repeat_serialAfter_zero (by omega), repeat_serialAfter_zero (by omega)] at same
    exact same
  · by_cases high : x ≤ 9999
    · rw [repeat_serialAfter (by omega) high (by omega), repeat_serialAfter (by omega) high (by omega)] at same
      split_ifs at same <;> omega
    · have at_ (i : Nat) (hi : i ≤ 256) : Nat.repeat serialAfter i x = if i = 0 then x else i := by
        cases i with
        | zero => rfl
        | succ i => rw [repeat_serialAfter_of_gt (by omega) (by omega), if_neg (Nat.succ_ne_zero i)]
      rw [at_ i hi, at_ j hj] at same
      split_ifs at same <;> omega

theorem freeSerial_unheld (s : State) (call : Call) (n : Nat) (k : Handle) :
    ¬ ((s.entry k).state ≠ .free ∧ (s.entry k).key = ⟨call, freeSerial s call 256 n⟩) := by
  rw [freeSerial_eq]
  exact firstFree_unheld (holds := fun k y => (s.entry k).state ≠ .free ∧ (s.entry k).key = ⟨call, y⟩)
    (fun _ => State.findKey_isSome_iff) (fun _ _ _ hy hz => congrArg Key.serial (hy.2.symm.trans hz.2))
    (repeat_serialAfter_injective n) k

/-! ## Freed and spent -/

theorem Entry.spent_fieldsKept (e : Entry) : e.spent.FieldsKept where
  free := nofun
  spent := fun _ => rfl
  receivedFrom := nofun
  nextHop := fun some => absurd rfl some
  engagedHop := nofun
  lastHop := nofun
  fresh := nofun
  attempts := Nat.zero_le _
  attemptsLeft := nofun
  notBefore := ⟨fun some => absurd rfl some, nofun⟩
  cancelPending := ⟨fun some => absurd rfl some, nofun⟩
  arriving := nofun
  blocks := nofun
  longest := Nat.zero_le _
  whole := nofun

namespace State.Filed
variable {L : List Handle} {routed addressed : Bool} {s t : State} {h : Handle} {c : Chan}

/-- A loose entry written together with the table's counts. -/
theorem rewrite (kept : s.Filed (h :: L) routed addressed) (tabled : t.Tabled) {e : Entry}
    (entries : t.entries = s.entries.set h.val e) (unrouted : t.unrouted = s.unrouted) (stations : t.stations = s.stations)
    (channels : t.channels = s.channels) (own : t.own.call = s.own.call) : t.Filed (h :: L) routed addressed := by
  have entry (k : Handle) (tight : k ∉ h :: L) : t.entry k = s.entry k := by
    have at_ : t.entry k = (s.setEntry h e).entry k := by rw [State.entry, State.entry, entries]; rfl
    rw [at_, State.entry_setEntry, if_neg fun same => (not_mem_cons_iff.1 tight).1 same.symm]
  have chan (d : Chan) : t.chan d = s.chan d := by rw [State.chan, State.chan, channels]
  have collection (k : Collection) : t.collection k = s.collection k := by
    cases k with
    | queue d => exact congrArg Channel.queue (chan d)
    | unrouted => exact unrouted
  exact ⟨tabled,
    kept.queued.congr (fun k tight => .of_eq (entry k tight)) collection fun _ k tight => by
      rw [State.collectionFor_congr stations, entry k tight],
    kept.exchanging.congr (fun k tight => by rw [entry k tight]) fun d => by rw [chan],
    kept.reserving.congr (fun k tight => .of_eq (entry k tight)) (fun d => .of_eq (by rw [chan])) fun _ => own⟩

/-- A loose entry in use becomes FREE (R18). -/
theorem freeEntry (kept : s.Filed (h :: L) routed addressed) (used : (s.entry h).inUse = true) :
    (freeEntry h s).Filed L routed addressed := by
  have entry : (Machine.freeEntry h s).entry h = Entry.free := by
    exact (State.entry_setEntry s h h Entry.free).trans (if_pos rfl)
  have tabled : (Machine.freeEntry h s).Tabled := by
    refine kept.tabled.rewrite (h := h) (e := Entry.free) rfl Entry.free_fieldsKept (absurd rfl) (fun k busy => ?_) ?_ rfl
    · have at_ : (Machine.freeEntry h s).entry k = _ := State.entry_setEntry s h k Entry.free
      rw [at_] at busy ⊢
      split at busy
      · exact absurd rfl busy
      · next other =>
        rw [if_neg other]
        exact kept.tabled.counter k busy
    · rw [used]; rfl
  have freed : (Machine.freeEntry h s).Filed (h :: L) routed addressed := kept.rewrite tabled rfl rfl rfl rfl rfl
  exact freed.settle (by rw [entry]; nofun) (by rw [entry]; nofun) (by rw [entry]; nofun)

/-- A loose entry in use becomes SPENT (R51). -/
theorem spend (kept : s.Filed (h :: L) routed addressed) (used : (s.entry h).inUse = true) :
    ((s.setEntry h (s.entry h).spent).countFreed (s.entry h).blockCount).Filed L routed addressed := by
  have notFree : (s.entry h).state ≠ .free := (Entry.inUse_iff.1 used).1
  let t := (s.setEntry h (s.entry h).spent).countFreed (s.entry h).blockCount
  have entry (k : Handle) : t.entry k = if h = k then (s.entry h).spent else s.entry k :=
    State.entry_setEntry s h k (s.entry h).spent
  have tabled : t.Tabled := by
    refine kept.tabled.rewrite (h := h) (e := (s.entry h).spent) rfl (s.entry h).spent_fieldsKept (fun _ k other busy => ?_)
      (fun k busy => ?_) ?_ rfl
    · exact ⟨fun same => other (kept.tabled.accessions _ _ busy notFree same),
        fun same => other (kept.tabled.keys _ _ busy notFree same)⟩
    · rw [entry] at busy ⊢
      split
      · exact kept.tabled.counter h notFree
      · next other =>
        rw [if_neg other] at busy
        exact kept.tabled.counter k busy
    · rw [used]; rfl
  have spent : t.Filed (h :: L) routed addressed := kept.rewrite tabled rfl rfl rfl rfl rfl
  have state : (t.entry h).state = .spent := by rw [entry, if_pos rfl]; rfl
  exact spent.settle (by rw [state]; nofun) (by rw [state]; nofun) (by rw [state]; nofun)

theorem testCongestion (kept : s.Filed L routed addressed) : (testCongestion s).Filed L routed addressed :=
  kept.congr (.of_tested (.testCongestion s))

theorem releaseEntry (kept : s.Filed (h :: L) routed addressed) (used : (s.entry h).inUse = true) :
    (releaseEntry h s).Filed L routed addressed := (kept.freeEntry used).testCongestion

/-- A finished entry is spent (R51). -/
theorem retireEntry (kept : s.Filed L routed addressed) (finished : (s.entry h).state.finished = true) :
    (retireEntry h s).Filed L routed addressed := by
  have ne {x : EntryState} (unfinished : x.finished = false) : (s.entry h).state ≠ x := fun same => by
    rw [same, unfinished] at finished
    exact nomatch finished
  exact ((kept.loosen (ne rfl) (ne rfl) (ne rfl)).spend (Entry.inUse_iff.2 ⟨ne rfl, ne rfl⟩)).testCongestion

theorem reserved_inUse (kept : s.Filed L routed addressed) (held : (s.chan c).receiver.reservation = some h) :
    (s.entry h).inUse = true := by
  obtain ⟨-, state⟩ := kept.reserving.reserved held
  exact Entry.inUse_iff.2 ⟨by rw [state]; nofun, by rw [state]; nofun⟩

/-- A frame in reception that is damaged (R124). -/
theorem damage (kept : s.Filed L routed addressed) (c : Chan) : (damage c s).Filed L routed addressed := by
  unfold Machine.damage
  split
  · next h held => exact (kept.unreserve held rfl).releaseEntry (kept.reserved_inUse held)
  · next free => exact kept.setReceiver free rfl

/-! ## Allocated (R9 to R11) -/

theorem inUse_le (s : State) : (s.entries.toList.filter (·.inUse)).length ≤ 256 :=
  (List.length_filter_le _ _).trans (by rw [Vector.length_toList])

/-- An entry allocated, given its fields and a key that no other entry holds. -/
theorem allocated (kept : s.Filed L routed addressed) {e e' : Entry} {s1 : State} (a : s.allocate e = some (h, s1))
    (fields : e'.FieldsKept) (used : e'.inUse = true) (accession : e'.accession = s.accessionCounter)
    (blocks : e'.blockCount = blocksFor e.textLength) (fresh : ∀ k, k ≠ h → (s.entry k).state ≠ .free →
      (s.entry k).key ≠ e'.key) : (s1.setEntry h e').Filed (h :: L) routed addressed := by
  obtain ⟨chosen, enough, stored, -⟩ := allocate_spec a
  obtain ⟨n, low, high, counter, -, others⟩ := allocate_accessionCounter a
  have rest := allocate_kept a
  have state := chooseEntry_state chosen
  have unused : (s.entry h).inUse = false := by
    rcases state with state | state <;> simp [Entry.inUse, state]
  have noBlocks : (s.entry h).blockCount = 0 := by
    rcases state with state | state
    · rw [(kept.fields h).free state]; rfl
    · rw [(kept.fields h).spent state]; rfl
  have entries : (s1.setEntry h e').entries = s.entries.set h.val e' := by
    rw [State.setEntry, stored]
    exact Vector.set_set ..
  have entry (k : Handle) : (s1.setEntry h e').entry k = if h = k then e' else s.entry k := by
    rw [State.entry, entries]
    exact State.entry_setEntry s h k e'
  have tabled : (s1.setEntry h e').Tabled := by
    refine kept.tabled.rewrite entries fields (fun _ k other busy => ⟨?_, fresh k other busy⟩) (fun k busy => ?_) ?_ ?_
    · rw [accession]
      exact kept.tabled.counter k busy
    · rw [entry] at busy ⊢
      split
      · intro same
        have values := congrArg BitVec.toNat (accession.symm.trans (same.trans counter))
        simp only [BitVec.toNat_add, BitVec.toNat_ofNat] at values
        have := s.accessionCounter.isLt
        omega
      · next away =>
        rw [if_neg away] at busy
        exact others k (fun same => away same.symm) busy
    · have sum := s.sum_set h e' fun e => e.inUse.toNat
      have most := inUse_le (s.setEntry h e')
      have total := kept.tabled.entriesCounted
      rw [length_filter_eq_sum] at most total
      simp only [used, unused, Bool.toNat_true, Bool.toNat_false] at sum ⊢
      have counted : (s1.setEntry h e').freeEntries = s.freeEntries - 1 := (allocate_freeEntries a :)
      have same : (s.setEntry h e').entries = s.entries.set h.val e' := rfl
      rw [same] at most
      omega
    · have counted : (s1.setEntry h e').freeBlocks = s.freeBlocks - blocksFor e.textLength := (allocate_freeBlocks a :)
      rw [blocks, noBlocks, counted]
      omega
  have loose : s.Filed (h :: L) routed addressed := by
    rcases state with state | state <;>
      exact kept.loosen (by rw [state]; nofun) (by rw [state]; nofun) (by rw [state]; nofun)
  exact loose.rewrite tabled entries (congrArg State.unrouted rest :) (congrArg State.stations rest :)
    (congrArg State.channels rest :) (congrArg (fun u : State => u.own.call) rest :)

end State.Filed

end Sys2Proof.Machine
end

/-! # The receive side's effects keep the filing: holds, the reachability monitor, receipts (R35 to R38, R44 to R46, R64, R76) -/

section
namespace Sys2Proof.Machine

/-! ## What they leave of the receivers and of JAMMED -/

/-- Two states with the same receive records and the same JAMMED marks. -/
def State.SameFaces (s t : State) : Prop :=
  ∀ c, (t.chan c).receiver = (s.chan c).receiver ∧ (t.chan c).jammed = (s.chan c).jammed

namespace State.SameFaces
variable {s t u : State} {c : Chan}

theorem refl (s : State) : s.SameFaces s := fun _ => ⟨rfl, rfl⟩

theorem trans (a : s.SameFaces t) (b : t.SameFaces u) : s.SameFaces u := fun c =>
  ⟨(b c).1.trans (a c).1, (b c).2.trans (a c).2⟩

theorem of_moved (moved : s.Moved t) : s.SameFaces t := fun c =>
  ⟨(congrArg Channel.receiver (moved.chan c) :), (congrArg Channel.jammed (moved.chan c) :)⟩

theorem of_tested (tested : s.Tested t) : s.SameFaces t := fun c =>
  ⟨(congrArg Channel.receiver (tested.chan c) :), (congrArg Channel.jammed (tested.chan c) :)⟩

theorem updChan (s : State) {c : Chan} {f : Channel → Channel}
    (same : (f (s.chan c)).receiver = (s.chan c).receiver ∧ (f (s.chan c)).jammed = (s.chan c).jammed) :
    s.SameFaces (s.updChan c f) := fun d => by
  rw [State.chan_updChan]
  split
  · next e => exact e ▸ same
  · exact ⟨rfl, rfl⟩

theorem updStation (s : State) (i : Index) (f : Station → Station) : s.SameFaces (s.updStation i f) := fun _ => ⟨rfl, rfl⟩

theorem reachChange (s : State) : s.SameFaces (reachChange s) := .of_moved (s := { s with reachChanged := true }) (.sweep _)

theorem loseStation (i : Index) (s : State) : s.SameFaces (loseStation i s) := by
  unfold Machine.loseStation
  split
  · exact (updStation s i _).trans (reachChange _)
  · exact updStation s i _

theorem goodFrameFrom (i : Index) (s : State) : s.SameFaces (goodFrameFrom i s) := by
  have refreshed := (loseStation i s).trans (updStation _ i Station.refreshed)
  unfold Machine.goodFrameFrom
  dsimp only
  split
  · exact refreshed.trans (reachChange _)
  · exact refreshed

theorem refreshSender (sender : Call) (s : State) : s.SameFaces (refreshSender sender s) := by
  unfold Machine.refreshSender
  split
  · exact goodFrameFrom _ s
  · exact refl s

theorem writeHold (i : Index) (time : Nat) (cutoff : Fin 8) (s : State) : s.SameFaces (writeHold i time cutoff s) :=
  (updStation s i _).trans (.of_moved (writeHold_moved i time cutoff s))

theorem implicitHold (sender : Call) (s : State) : s.SameFaces (implicitHold sender s) := by
  unfold Machine.implicitHold
  split
  · exact writeHold _ _ _ s
  · exact refl s

theorem writeSilence (c : Chan) (time : Nat) (cutoff : Fin 8) (s : State) : s.SameFaces (writeSilence c time cutoff s) := by
  unfold Machine.writeSilence
  refine (updChan s ?_).trans (.of_moved (.withdrawIf _ c _))
  unfold Channel.silenced
  split
  · exact ⟨rfl, rfl⟩
  · dsimp only
    split <;> exact ⟨rfl, rfl⟩

theorem applyHold (c : Chan) (toAll : Bool) (sender : Call) (time : Nat) (cutoff : Fin 8) (s : State) :
    s.SameFaces (applyHold c toAll sender time cutoff s) := by
  unfold Machine.applyHold
  split
  · exact refl s
  · split
    · exact writeSilence c time cutoff s
    · exact writeHold _ time cutoff s

theorem receiptAwaiting (c : Chan) (h : Handle) (v : Verdict) (sender : Call) (s : State) :
    s.SameFaces (receiptAwaiting c h v sender s) := by
  have idle : s.SameFaces (idleEngine c s) := .of_moved (.idleEngine c s)
  cases v with
  | accept | duplicate => exact idle.trans (.of_moved (.closeEntry ..))
  | noroute => exact idle.trans (.of_moved (.endRefused _ h))
  | full => exact (idle.trans (implicitHold sender _)).trans (.of_moved (.endReturned _ h .full))

theorem receiptStaged (c : Chan) (h : Handle) (v : Verdict) (s : State) : s.SameFaces (receiptStaged c h v s) := by
  cases v with
  | accept | duplicate | noroute => exact (of_moved (.idleEngine c s)).trans (.of_moved (.closeEntry ..))
  | full => exact refl s

theorem receiptEngaged (h : Handle) (v : Verdict) (sender : Call) (s : State) :
    s.SameFaces (receiptEngaged h v sender s) := by
  unfold Machine.receiptEngaged
  split
  · exact refl s
  · split
    · exact refl s
    · exact receiptStaged _ h v s
    · exact updChan s ⟨rfl, rfl⟩
    · exact receiptAwaiting _ h v sender s

theorem receiptLate (h : Handle) (v : Verdict) (s : State) : s.SameFaces (receiptLate h v s) := by
  have left : s.SameFaces (s.leave h) := .of_moved (.leave s h)
  unfold Machine.receiptLate
  split
  · exact left.trans (.of_moved (.closeEntry ..))
  · exact left.trans (.of_moved (.closeEntry ..))
  · exact left.trans (.of_moved (.closeEntry ..))
  case h_12 => exact refl s
  all_goals exact .of_moved (.closeEntry ..)

theorem applyReceipt (key : Key) (v : Verdict) (sender : Call) (s : State) :
    s.SameFaces (applyReceipt key v sender s) := by
  unfold Machine.applyReceipt
  split
  · exact refl s
  · split
    · split
      · exact receiptEngaged _ v sender s
      · exact receiptLate _ v s
    · exact refl s

theorem queueReceipt (sender : Call) (key : Key) (v : Verdict) (c : Chan) (s : State) :
    s.SameFaces (queueReceipt sender key v c s) := by
  refine updChan s ?_
  split <;> exact ⟨rfl, rfl⟩

end State.SameFaces

/-- The implicit hold of a FULL leaves an entry alone that no engine holds (R81). -/
theorem implicitHold_entry {s : State} {h : Handle} (free : ∀ d, (s.chan d).engine.entry? ≠ some h) (sender : Call) :
    (implicitHold sender s).entry h = s.entry h := by
  unfold implicitHold
  split
  · next i _ =>
    exact (State.SameAt.forChans_withdrawIf (s := s.updStation i (Station.ordered s.own.fullBackoff 0)) free fun _ s e =>
      e.nextHop = some i && s.held e).1
  · rfl

theorem State.updEntry_updEntry (s : State) (h : Handle) (f g : Entry → Entry) :
    (s.updEntry h f).updEntry h g = s.updEntry h fun e => g (f e) := by
  have entry : (s.updEntry h f).entry h = f (s.entry h) := by rw [State.entry_updEntry, if_pos rfl]
  rw [State.updEntry, entry]
  exact congrArg (fun v => ({ s with entries := v } : State)) (Vector.set_set ..)

namespace State.Filed
variable {L : List Handle} {routed addressed : Bool} {s t : State} {h : Handle} {c : Chan}

/-! ## The monitor and the holds -/

theorem reachChange (kept : s.Filed L routed addressed) : (reachChange s).Filed L true addressed :=
  (kept.congr (.of_rest (t := { s with reachChanged := true }) rfl)).sweep

theorem loseStation (kept : s.Filed L true addressed) (i : Index) : (loseStation i s).Filed L true addressed := by
  unfold Machine.loseStation
  split
  · exact State.Filed.reachChange (kept.congr (State.SameTraffic.of_updStation s i fun _ => rfl))
  · exact kept.congr (State.SameTraffic.of_updStation s i fun _ => rfl)

theorem goodFrameFrom (kept : s.Filed L true addressed) (i : Index) : (goodFrameFrom i s).Filed L true addressed := by
  have channel (st : Station) : st.refreshed.channel = st.channel := by
    unfold Station.refreshed
    split <;> rfl
  have refreshed := (kept.loseStation i).congr (.of_updStation _ i channel)
  unfold Machine.goodFrameFrom
  dsimp only
  split
  · exact refreshed.reachChange
  · exact refreshed

theorem refreshSender (kept : s.Filed L true addressed) (sender : Call) :
    (refreshSender sender s).Filed L true addressed := by
  unfold Machine.refreshSender
  split
  · exact kept.goodFrameFrom _
  · exact kept

theorem writeHold (kept : s.Filed L routed addressed) (i : Index) (time : Nat) (cutoff : Fin 8) :
    (writeHold i time cutoff s).Filed L routed addressed := by
  have channel (st : Station) : (st.ordered time cutoff).channel = st.channel := by
    unfold Station.ordered
    split <;> rfl
  exact forChans_keeps (P := (State.Filed L routed addressed)) (fun c _ kept => kept.withdrawIf _ c)
    (kept.congr (.of_updStation s i channel))

theorem implicitHold (kept : s.Filed L routed addressed) (sender : Call) :
    (implicitHold sender s).Filed L routed addressed := by
  unfold Machine.implicitHold
  split
  · exact kept.writeHold _ _ _
  · exact kept

theorem writeSilence (kept : s.Filed L routed addressed) (c : Chan) (time : Nat) (cutoff : Fin 8) :
    (writeSilence c time cutoff s).Filed L routed addressed := by
  unfold Machine.writeSilence
  refine State.Filed.withdrawIf (kept.congr (State.SameTraffic.of_updChan s c ?_ ?_ (.of_eq ?_))) _ c <;>
    (unfold Channel.silenced; split; · rfl) <;> (dsimp only; split <;> rfl)

theorem applyHold (kept : s.Filed L routed addressed) (c : Chan) (toAll : Bool) (sender : Call) (time : Nat)
    (cutoff : Fin 8) : (applyHold c toAll sender time cutoff s).Filed L routed addressed := by
  unfold Machine.applyHold
  split
  · exact kept
  · split
    · exact kept.writeSilence c time cutoff
    · exact kept.writeHold _ time cutoff

/-! ## Receipts and the receipt timeout -/

theorem receiptAwaiting (kept : s.Filed L routed addressed) (held : (s.chan c).engine.entry? = some h) (v : Verdict)
    (sender : Call) : (receiptAwaiting c h v sender s).Filed L routed addressed := by
  obtain ⟨tight, engaged⟩ := kept.exchanging.holds held
  have loose := kept.idleEngine held
  cases v with
  | accept => exact loose.closeSent engaged .confirmed
  | duplicate => exact loose.closeSent engaged .confirmedDuplicate
  | noroute => exact loose.endRefused engaged
  | full =>
    have free (d : Chan) : ((Machine.idleEngine c s).chan d).engine.entry? ≠ some h := fun held =>
      (not_mem_cons_iff.1 (loose.exchanging.holds held).1).1 rfl
    have entry : (Machine.implicitHold sender (Machine.idleEngine c s)).entry h = s.entry h :=
      (implicitHold_entry free sender).trans rfl
    exact (loose.implicitHold sender).endReturned tight (by rw [entry]; exact engaged) .full

theorem receiptStaged (kept : s.Filed L routed addressed) (held : (s.chan c).engine.entry? = some h) (v : Verdict) :
    (receiptStaged c h v s).Filed L routed addressed := by
  obtain ⟨-, engaged⟩ := kept.exchanging.holds held
  have loose := kept.idleEngine held
  cases v with
  | accept | duplicate => exact loose.closeSent engaged .confirmedLate
  | noroute =>
    exact loose.closeEntry (kept.engaged_whole engaged) (.inr (.inl rfl)) (fun _ => kept.engaged_lastHop engaged) .noroute
  | full => exact kept

theorem receiptEngaged (kept : s.Filed L routed addressed) (h : Handle) (v : Verdict) (sender : Call) :
    (receiptEngaged h v sender s).Filed L routed addressed := by
  unfold Machine.receiptEngaged
  split
  · exact kept
  · next c found =>
    have held : (s.chan c).engine.entry? = some h := by simpa using (findChan_some found).1
    split
    · exact kept
    · exact kept.receiptStaged held v
    · exact kept.congr (.of_updChan s c rfl held.symm (.rfl' _))
    · exact kept.receiptAwaiting held v sender

/-- An entry outside an exchange, but not READY, is closed by a late receipt. -/
theorem closeIdle (kept : s.Filed L routed addressed) (idle : (s.entry h).state = .retryWait ∨ (s.entry h).state = .failed ∨
    (s.entry h).state = .cancelled) {x : EntryState} (closes : x.closes) (hopped : (s.entry h).lastHop ≠ none)
    (o : LastOutcome) : (s.closeEntry h x o).Filed L routed addressed := by
  have ne {y : EntryState} (other : y ≠ .retryWait ∧ y ≠ .failed ∧ y ≠ .cancelled) : (s.entry h).state ≠ y := by
    rintro rfl
    rcases idle with e | e | e
    · exact other.1 e
    · exact other.2.1 e
    · exact other.2.2 e
  exact (kept.loosen (ne ⟨nofun, nofun, nofun⟩) (ne ⟨nofun, nofun, nofun⟩) (ne ⟨nofun, nofun, nofun⟩)).closeEntry
    ((kept.fields h).wholeOf (ne ⟨nofun, nofun, nofun⟩) (ne ⟨nofun, nofun, nofun⟩) (ne ⟨nofun, nofun, nofun⟩)) closes
    (fun _ => hopped) o

theorem receiptLate (kept : s.Filed L routed addressed) (hopped : (s.entry h).lastHop ≠ none) (v : Verdict) :
    (receiptLate h v s).Filed L routed addressed := by
  have left (ready : (s.entry h).state = .ready) {x : EntryState} (closes : x.closes) (o : LastOutcome) :
      ((s.leave h).closeEntry h x o).Filed L routed addressed :=
    (kept.leave ready).closeEntry (kept.ready_whole ready) closes (fun _ => hopped) o
  have sent : EntryState.sent.closes := .inl rfl
  have refused : EntryState.refused.closes := .inr (.inl rfl)
  unfold Machine.receiptLate
  split
  case h_1 ready => exact left ready sent _
  case h_2 ready => exact left ready sent _
  case h_3 ready => exact left ready refused _
  case h_4 state => exact kept.closeIdle (.inl state) sent hopped _
  case h_5 state => exact kept.closeIdle (.inl state) sent hopped _
  case h_6 state => exact kept.closeIdle (.inr (.inl state)) sent hopped _
  case h_7 state => exact kept.closeIdle (.inr (.inl state)) sent hopped _
  case h_8 state => exact kept.closeIdle (.inr (.inr state)) sent hopped _
  case h_9 state => exact kept.closeIdle (.inr (.inr state)) sent hopped _
  case h_10 state => exact kept.closeIdle (.inl state) refused hopped _
  case h_11 state => exact kept.closeIdle (.inr (.inl state)) refused hopped _
  case h_12 => exact kept

theorem applyReceipt (kept : s.Filed L routed addressed) (key : Key) (v : Verdict) (sender : Call) :
    (applyReceipt key v sender s).Filed L routed addressed := by
  unfold Machine.applyReceipt
  split
  · exact kept
  · next h _ =>
    split
    · next last =>
      split
      · exact kept.receiptEngaged h v sender
      · exact kept.receiptLate (by rw [last]; nofun) v
    · exact kept

/-- The expiry of a receipt timer (R38, R42). -/
theorem timeOut (kept : s.Filed L routed addressed) (held : (s.chan c).engine.entry? = some h)
    (limit : (s.classRow (s.entry h).precedence).retryLimit ≤ 15) : (timeOut c h s).Filed L routed addressed := by
  obtain ⟨-, engaged⟩ := kept.exchanging.holds held
  have loose := kept.idleEngine held
  have fields := kept.fields h
  have whole := kept.engaged_whole engaged
  have few := fields.attempts_left engaged
  have closed {x : EntryState} (closes : x.closes) :
      (((Machine.idleEngine c s).updEntry h fun e => { e with attemptCount := (s.entry h).attemptCount + 1 }).closeEntry h x
        .noReceipt).Filed L routed addressed := by
    rw [State.closeEntry, State.updEntry_updEntry]
    have restated := loose.restate whole (f := fun e => Entry.closed { e with attemptCount := (s.entry h).attemptCount + 1 } x
      .noReceipt) (fields.ended (n := (s.entry h).attemptCount + 1) whole closes (fun _ => kept.engaged_lastHop engaged) (by omega)
        .noReceipt true)
      (by rcases closes with rfl | rfl | rfl | rfl <;> rfl) rfl rfl rfl
    exact restated.settle_closed (by rw [State.entry_updEntry, if_pos rfl]; exact closes)
  unfold Machine.timeOut
  dsimp only
  split
  · exact closed (.inr (.inr (.inr rfl)))
  · split
    · next more =>
      have left : (s.entry h).attemptCount + 1 < 15 := lt_of_lt_of_le more limit
      have restated := loose.restate whole (f := fun e => e.retryAt ((s.entry h).attemptCount + 1)
        (s.time.counter + BitVec.ofNat 32 ((s.chan c).settings.retryDelay ((s.entry h).attemptCount + 1) * 1000)))
        (fields.restated whole (x := .retryWait) (changed := (s.entry h).changed) ⟨nofun, nofun, nofun, nofun⟩ (absurd rfl)
          nofun (fun _ => kept.engaged_lastHop engaged) (by omega) (fun _ => by omega) ⟨fun _ => rfl, nofun⟩
          ⟨(absurd rfl ·), nofun⟩) rfl rfl rfl rfl
      have entry : ∀ f : Entry → Entry, ((Machine.idleEngine c s).updEntry h f).entry h = f (s.entry h) := fun f => by
        rw [State.entry_updEntry, if_pos rfl]
        rfl
      exact restated.settle (by rw [entry]; nofun) (by rw [entry]; nofun) (by rw [entry]; nofun)
    · exact closed (.inr (.inr (.inl rfl)))

end State.Filed

end Sys2Proof.Machine
end

/-! # Reception keeps the filing (R116 to R129) -/

section
namespace Sys2Proof.Machine

/-! ## A receive record set aside -/

theorem State.setEntry_self (s : State) (h : Handle) : s.setEntry h (s.entry h) = s := by
  simp [State.setEntry, State.entry]

theorem State.updChan_comm (s : State) (c d : Chan) (f g : Channel → Channel) (comm : ∀ x, f (g x) = g (f x)) :
    (s.updChan c f).updChan d g = (s.updChan d g).updChan c f := by
  by_cases same : c = d
  · subst same
    rw [State.updChan_updChan, State.updChan_updChan]
    exact congrArg _ (funext fun x => (comm x).symm)
  · have ne : c.val ≠ d.val := fun e => same (Fin.ext e)
    simp only [State.updChan, State.setChan, State.chan]
    rw [Vector.getElem_set_ne _ _ ne, Vector.getElem_set_ne _ _ (Ne.symm ne), Vector.set_comm _ _ ne]

theorem setReceiver_setReceiver (r q : Receiver) (c : Chan) (s : State) :
    setReceiver r c (setReceiver q c s) = setReceiver r c s :=
  State.updChan_updChan s c (fun x => { x with receiver := q }) fun x => { x with receiver := r }

theorem setReceiver_updEntry (r : Receiver) (c : Chan) (s : State) (h : Handle) (f : Entry → Entry) :
    (setReceiver r c s).updEntry h f = setReceiver r c (s.updEntry h f) := rfl

theorem setReceiver_setCollection (r : Receiver) (c : Chan) (s : State) (k : Collection) (q : List Handle) :
    setReceiver r c (s.setCollection k q) = (setReceiver r c s).setCollection k q := by
  cases k with
  | queue d => exact State.updChan_comm s d c (fun x => { x with queue := q }) (fun x => { x with receiver := r }) fun _ => rfl
  | unrouted => rfl

theorem setReceiver_collection (r : Receiver) (c : Chan) (s : State) (k : Collection) :
    (setReceiver r c s).collection k = s.collection k := State.Filed.collection_updChan rfl k

theorem setReceiver_routesAlike (r : Receiver) (c : Chan) (s : State) : s.RoutesAlike (setReceiver r c s) := by
  refine ⟨rfl, rfl, fun d => ?_⟩
  rw [setReceiver, State.chan_updChan]
  split
  · next e => subst e; exact ⟨rfl, rfl⟩
  · exact ⟨rfl, rfl⟩

/-- The placing of an entry reads no receive record (R27). -/
theorem setReceiver_place (r : Receiver) (c : Chan) (s : State) (h : Handle) :
    setReceiver r c (s.place h) = (setReceiver r c s).place h := by
  have route : (setReceiver r c s).route ((setReceiver r c s).entry h) = s.route (s.entry h) := by
    rw [(setReceiver_routesAlike r c s).route]
    rfl
  rw [State.place, State.place, State.join, State.join, setReceiver_setCollection, route]
  refine congrArg₂ _ rfl (congrArg₂ _ rfl ?_)
  exact (setReceiver_collection r c _ _).symm

theorem State.SameTraffic.setReceiver {s t : State} (same : s.SameTraffic t) (r : Receiver) (c : Chan) :
    (setReceiver r c s).SameTraffic (setReceiver r c t) := by
  have chan (u : State) (d : Chan) : (Machine.setReceiver r c u).chan d =
      if c = d then { u.chan d with receiver := r } else u.chan d := by
    rw [Machine.setReceiver, State.chan_updChan]
    split
    · next e => rw [e]
    · rfl
  constructor
  case queue => exact fun d => by rw [chan, chan]; split <;> exact same.queue d
  case engine => exact fun d => by rw [chan, chan]; split <;> exact same.engine d
  case receiver =>
    intro d
    rw [chan, chan]
    split
    · exact .rfl' r
    · exact same.receiver d
  case hopChannel => exact (State.hopChannel_congr rfl).trans (same.hopChannel.trans (State.hopChannel_congr rfl).symm)
  case entries => exact same.entries
  case accessionCounter => exact same.accessionCounter
  case freeEntries => exact same.freeEntries
  case freeBlocks => exact same.freeBlocks
  case unrouted => exact same.unrouted
  case ownCall => exact same.ownCall

theorem State.SameTraffic.queueReceipt (sender : Call) (key : Key) (v : Verdict) (c : Chan) (s : State) :
    s.SameTraffic (queueReceipt sender key v c s) := by
  unfold Machine.queueReceipt
  refine .of_updChan s c ?_ ?_ (.of_eq ?_) <;> split <;> rfl

/-- A receive record that has taken a body character (R122). -/
def Receiver.tookBody (r : Receiver) (b : Byte) : Receiver :=
  { r with
    sum := r.sum + b.setWidth 16
    position := r.position + 1
    gap := 0
    bodyRemaining := r.bodyRemaining - 1
    phase := if r.bodyRemaining ≤ 1 then .tail else .body }

theorem Receiver.tookBody_begun (r : Receiver) (b : Byte) :
    (r.tookBody b).phase = .body ∨ (r.tookBody b).phase = .tail := by
  rw [Receiver.tookBody]
  split <;> simp

theorem Receiver.tookBody_tail_iff (r : Receiver) (b : Byte) :
    (r.tookBody b).phase = .tail ↔ (r.tookBody b).bodyRemaining = 0 := by
  rw [Receiver.tookBody]
  split <;> simp <;> omega

theorem collectBody_of_body {c : Chan} {b : Byte} (body : isBodyChar b = true) (s : State) : collectBody c b s =
    setReceiver ((s.chan c).receiver.tookBody b) c (writeBody (s.chan c).receiver b s) := if_pos body

theorem collectBody_of_other {c : Chan} {b : Byte} (other : ¬ isBodyChar b = true) (s : State) :
    collectBody c b s = damage c s := if_neg other

theorem Receiver.afterHeader_begun (r : Receiver) (n : Nat) :
    (r.afterHeader n).phase = .body ∨ (r.afterHeader n).phase = .tail := by
  rw [Receiver.afterHeader]
  split <;> simp

theorem Receiver.afterHeader_tail_iff (r : Receiver) (n : Nat) : (r.afterHeader n).phase = .tail ↔ n = 0 := by
  rw [Receiver.afterHeader]
  split <;> simp_all

/-! ## The fields of an arriving entry (R30, R120) -/

theorem State.arrivingEntry_fieldsKept (s : State) (p : Fin 8) (key : Key) (d : Call) {n : Nat} (short : n ≤ 960)
    (sender : Call) (a : Quad) : ({ s.arrivingEntry p key d n sender with
      accession := a, blockCount := blocksFor n } : Entry).FieldsKept where
  free := nofun
  spent := nofun
  receivedFrom := fun _ => by
    refine iff_of_false nofun ?_
    change s.arrivingRole d ≠ .originated
    unfold State.arrivingRole
    split <;> nofun
  nextHop := fun some => absurd rfl some
  engagedHop := nofun
  lastHop := nofun
  fresh := fun _ => ⟨rfl, rfl, rfl⟩
  attempts := Nat.zero_le _
  attemptsLeft := nofun
  notBefore := ⟨fun some => absurd rfl some, nofun⟩
  cancelPending := ⟨fun some => absurd rfl some, nofun⟩
  arriving := fun _ => rfl
  blocks := fun _ => rfl
  longest := short
  whole := fun _ receiving => absurd rfl receiving

/-- A RECEIVING entry whose text is whole is ARRIVED (R30). -/
theorem Entry.FieldsKept.arrived {e : Entry} (kept : e.FieldsKept) (receiving : e.state = .receiving)
    (whole : e.text.length = e.textLength) : ({ e with state := .arrived, changed := true } : Entry).FieldsKept := by
  have used : e.inUse = true := Entry.inUse_iff.2 ⟨by rw [receiving]; nofun, by rw [receiving]; nofun⟩
  have noHop : e.nextHop = none := by
    by_contra hop
    rcases kept.nextHop hop with same | same <;> exact nomatch (receiving.symm.trans same)
  have noWait : e.notBefore = none := by
    by_contra some
    exact nomatch (receiving.symm.trans (kept.notBefore.1 some))
  have noCancel : e.cancelPending = none := by
    by_contra some
    exact nomatch (receiving.symm.trans (kept.cancelPending.1 some))
  exact ⟨nofun, nofun, fun _ => kept.receivedFrom used, fun some => absurd noHop some, nofun, nofun,
    fun _ => kept.fresh (.inl receiving), kept.attempts, nofun, ⟨fun some => absurd noWait some, nofun⟩,
    ⟨fun some => absurd noCancel some, nofun⟩, nofun, fun _ => kept.blocks used, kept.longest, fun _ _ => whole⟩

/-- A RECEIVING entry whose text has grown (R122). -/
theorem Entry.FieldsKept.grown {e : Entry} (kept : e.FieldsKept) (receiving : e.state = .receiving) (text : List Byte) :
    ({ e with text := text } : Entry).FieldsKept := by
  have used : e.inUse = true := Entry.inUse_iff.2 ⟨by rw [receiving]; nofun, by rw [receiving]; nofun⟩
  exact ⟨fun free => (nomatch (receiving.symm.trans free)), fun spent => (nomatch (receiving.symm.trans spent)),
    fun _ => kept.receivedFrom used, kept.nextHop, kept.engagedHop, kept.lastHop, kept.fresh, kept.attempts,
    kept.attemptsLeft, kept.notBefore, kept.cancelPending, kept.arriving, fun _ => kept.blocks used, kept.longest,
    fun _ other => absurd receiving other⟩

/-- The header of a TRAFFIC frame carries a text length of at most 960 (Table 6-1). -/
theorem parsed_traffic_le {r : Receiver} {to_ : Address} {sender : Call} {p : Fin 8} {key : Key} {d : Call} {n : Nat}
    (parsed : r.parsed = some ⟨to_, sender, .traffic p key d n⟩) : n ≤ 960 := by
  obtain ⟨kind, -, header⟩ := Option.bind_eq_some_iff.1 parsed
  obtain ⟨-, -, fields⟩ := parseHeader_eq_some_iff.1 header
  cases kind with
  | traffic =>
    obtain ⟨_, _, _, _, same, -, -, -, -, length⟩ := parseFields_traffic_iff.1 fields
    cases same
    exact (parseDigitsIn_range (parseDigitsIn_eq_some_iff.2 length)).2
  | receipt | hold | beacon => simp [parseFields, Option.bind_eq_some_iff] at fields

namespace State.Filed
variable {s t : State} {h : Handle} {c : Chan}

/-! ## From a character to a header -/

theorem receiver_free (kept : s.Filed [] true true) (early : (s.chan c).receiver.phase = .hunt ∨
    (s.chan c).receiver.phase = .head) : (s.chan c).receiver.reservation = none := by
  cases held : (s.chan c).receiver.reservation with
  | none => rfl
  | some h =>
    have begun := (kept.reserving.fills held).begun
    rcases early with e | e <;> rw [e] at begun <;> simp at begun

theorem restartFrame (kept : s.Filed [] true true) (c : Chan) : (restartFrame c s).Filed [] true true :=
  (kept.damage c).setReceiver (by rw [damage_receiver]; rfl) rfl

theorem decideTraffic (kept : s.Filed [] true true) (free : (s.chan c).receiver.reservation = none) {r : Receiver}
    (bare : r.reservation = none) {p : Fin 8} {key : Key} {d : Call} {n : Nat} {sender : Call}
    (parsed : r.parsed = some ⟨.station s.own.call, sender, .traffic p key d n⟩) :
    (decideTraffic c r p key d n sender s).Filed [] true true := by
  unfold Machine.decideTraffic
  dsimp only
  split
  · exact kept.setReceiver free bare
  · next apart =>
    split
    · exact kept.setReceiver free bare
    · next new =>
      split
      · exact kept.setReceiver free bare
      · split
        · exact kept.setReceiver free bare
        · next h s1 a =>
          have unheld : s.findKey key = none := by simpa using new
          have stored := (allocate_stores a).1
          have own : s1.own.call = s.own.call := (congrArg (fun u : State => u.own.call) (allocate_kept a) :)
          have loose := kept.allocated a (e' := s1.entry h)
            (by rw [stored]; exact s.arrivingEntry_fieldsKept p key d (parsed_traffic_le parsed) sender _)
            (by rw [stored]; rfl) (by rw [stored]) (by rw [stored])
            (fun k other busy => by
              rw [stored]
              exact (State.findKey_eq_none_iff.1 unheld k).resolve_left busy)
          rw [State.setEntry_self] at loose
          refine State.Filed.testCongestion (loose.reserve List.not_mem_nil (by rw [stored]; rfl)
            (by rw [allocate_chan a]; exact free) (r := { r.afterHeader n with reservation := some h }) rfl ?_ fun _ => ?_)
          · refine ⟨r.afterHeader_begun n, ?_, r.afterHeader_tail_iff n⟩
            rw [stored]
            exact Nat.zero_add n
          · exact ⟨r.afterHeader_begun n, p, key, d, n, sender, by rw [own]; exact apart, by rw [own]; exact parsed⟩

theorem completeHeader (kept : s.Filed [] true true) (free : (s.chan c).receiver.reservation = none) {r : Receiver}
    (bare : r.reservation = none) : (completeHeader c r s).Filed [] true true := by
  unfold Machine.completeHeader
  split
  · exact kept.damage c
  · next parsed =>
    split
    · next toOwn =>
      subst toOwn
      exact kept.decideTraffic free bare parsed
    · exact kept.setReceiver free bare
  · exact kept.setReceiver free bare

theorem collectHeader (kept : s.Filed [] true true) (head : (s.chan c).receiver.phase = .head) (b : Byte) :
    (collectHeader c b s).Filed [] true true := by
  have free := kept.receiver_free (.inr head)
  unfold Machine.collectHeader
  dsimp only
  split
  · exact kept.damage c
  · split
    · exact kept.completeHeader free free
    · exact kept.setReceiver free free

/-! ## The body -/

theorem collectBody (kept : s.Filed [] true true) (body : (s.chan c).receiver.phase = .body) (b : Byte) :
    (collectBody c b s).Filed [] true true := by
  by_cases isBody : isBodyChar b = true
  · rw [collectBody_of_body isBody]
    cases held : (s.chan c).receiver.reservation with
    | none =>
      have written : writeBody (s.chan c).receiver b s = s := by rw [writeBody, held]
      rw [written]
      exact kept.setReceiver held held
    | some h =>
      have written : writeBody (s.chan c).receiver b s = s.updEntry h fun e => { e with text := e.text ++ [b] } := by
        rw [writeBody, held]
      obtain ⟨-, receiving⟩ := kept.reserving.reserved held
      obtain ⟨-, text, tail⟩ := kept.reserving.fills held
      obtain ⟨-, header⟩ := kept.reserving.headed rfl held
      have awaited : (s.chan c).receiver.bodyRemaining ≠ 0 := fun none => by
        rw [← tail, body] at none
        exact nomatch none
      have used := kept.reserved_inUse held
      have loose : (Machine.setReceiver .hunt c s).Filed [h] true true := kept.unreserve held rfl
      have grown : ((Machine.setReceiver .hunt c s).updEntry h fun e => { e with text := e.text ++ [b] }).Filed [h] true true :=
        loose.setEntry (.inl List.mem_cons_self) used used ((kept.fields h).grown receiving _) rfl rfl rfl
      have entry (f : Entry → Entry) : ((Machine.setReceiver .hunt c s).updEntry h f).entry h = f (s.entry h) := by
        rw [State.entry_updEntry, if_pos rfl]
        rfl
      rw [written, ← setReceiver_setReceiver _ .hunt, ← setReceiver_updEntry]
      refine grown.reserve List.not_mem_nil (by rw [entry]; exact receiving)
        (by rw [State.updEntry_chan, setReceiver_receiver]; rfl) held ?_ fun _ => ⟨Receiver.tookBody_begun _ b, header⟩
      refine ⟨Receiver.tookBody_begun _ b, ?_, Receiver.tookBody_tail_iff _ b⟩
      rw [entry, List.length_append, List.length_singleton]
      change _ + 1 + ((s.chan c).receiver.bodyRemaining - 1) = (s.entry h).textLength
      omega
  · rw [collectBody_of_other isBody]
    exact kept.damage c

/-! ## TAIL and the completion (R30, R31, R123, R126, R127) -/

/-- A reserved message whose frame completed, its receive record in HUNT afterwards. -/
theorem arrive (kept : s.Filed [] true true) (held : (s.chan c).receiver.reservation = some h)
    (tail : (s.chan c).receiver.phase = .tail) (sender : Call) (key : Key) :
    (Machine.setReceiver .hunt c (arrive h c sender key s)).Filed [] true true := by
  obtain ⟨-, receiving⟩ := kept.reserving.reserved held
  obtain ⟨-, text, awaited⟩ := kept.reserving.fills held
  have whole : (s.entry h).text.length = (s.entry h).textLength := by
    rw [awaited.1 tail] at text
    exact text
  have used := kept.reserved_inUse held
  have fields := kept.fields h
  have loose : (Machine.setReceiver .hunt c s).Filed [h] true true := kept.unreserve held rfl
  have queued {u v : State} (same : u.SameTraffic v) (filed : (Machine.setReceiver .hunt c u).Filed [] true true)
      (w : Verdict) : (Machine.setReceiver .hunt c (queueReceipt sender key w c v)).Filed [] true true :=
    filed.congr ((same.trans (.queueReceipt sender key w c v)).setReceiver .hunt c)
  have refl (u : State) : u.SameTraffic u := .of_rest rfl
  unfold Machine.arrive
  split
  · split
    · refine queued (refl _) ?_ .accept
      rw [setReceiver_place]
      exact loose.place List.not_mem_nil ⟨used, whole⟩ (by
        change (s.entry h).attemptCount ≤ 14
        rw [(fields.fresh (.inl receiving)).2.1]
        omega)
    · exact queued (.of_tested (releaseEntry_tested h s)) (loose.freeEntry used) .noroute
  · refine queued (refl _) ?_ .accept
    have arrived := loose.restate ⟨used, whole⟩ (f := fun e => { e with state := .arrived, changed := true })
      (fields.arrived receiving whole) rfl rfl rfl rfl
    have entry (f : Entry → Entry) : ((Machine.setReceiver .hunt c s).updEntry h f).entry h = f (s.entry h) := by
      rw [State.entry_updEntry, if_pos rfl]
      rfl
    exact arrived.settle (by rw [entry]; nofun) (by rw [entry]; nofun) (by rw [entry]; nofun)

/-- The completion of a frame that reserved nothing, its receive record in HUNT afterwards. -/
theorem hunts (kept : t.Filed [] true true) (free : (s.chan c).receiver.reservation = none) (faces : s.SameFaces t) :
    (Machine.setReceiver .hunt c t).Filed [] true true :=
  kept.setReceiver (by rw [(faces c).1]; exact free) rfl

theorem completeFrame (kept : s.Filed [] true true) (tail : (s.chan c).receiver.phase = .tail) :
    (completeFrame c s).Filed [] true true := by
  cases parsed : (s.chan c).receiver.parsed with
  | none =>
    have damaged : Machine.completeFrame c s = Machine.damage c s := by simp only [Machine.completeFrame, parsed]
    rw [damaged]
    exact kept.damage c
  | some x =>
    have refreshed := kept.refreshSender x.fromCall
    have faces := State.SameFaces.refreshSender x.fromCall s
    rw [completeFrame_of_parsed parsed]
    cases held : (s.chan c).receiver.reservation with
    | some h =>
      obtain ⟨-, p, key, d, n, sender, apart, same⟩ := kept.reserving.headed rfl held
      cases Option.some.inj (parsed.symm.trans same)
      have held' : ((Machine.refreshSender sender s).chan c).receiver.reservation = some h := by rw [(faces c).1]; exact held
      rw [if_pos ⟨.inr rfl, apart⟩, applyFrame_traffic rfl rfl]
      have applied : applyTraffic c (s.chan c).receiver sender key (Machine.refreshSender sender s) =
          Machine.arrive h c sender key (Machine.refreshSender sender s) := by simp only [applyTraffic, held]
      rw [applied]
      exact refreshed.arrive held' (by rw [(faces c).1]; exact tail) sender key
    | none =>
      split
      · unfold applyFrame
        split
        · next key _ _ _ _ _ =>
          unfold applyTraffic
          rw [held]
          split
          · next reserved _ => exact nomatch reserved
          · exact (refreshed.congr (.queueReceipt ..)).hunts held (faces.trans (.queueReceipt _ _ _ _ _))
          · exact refreshed.hunts held faces
        · exact (refreshed.applyReceipt _ _ _).hunts held (faces.trans (.applyReceipt _ _ _ _))
        · exact (refreshed.applyHold c _ _ _ _).hunts held (faces.trans (.applyHold _ _ _ _ _ _))
        · exact refreshed.hunts held faces
      · exact refreshed.hunts held faces

theorem collectTail (kept : s.Filed [] true true) (tail : (s.chan c).receiver.phase = .tail) (b : Byte) :
    (collectTail c b s).Filed [] true true := by
  unfold Machine.collectTail
  dsimp only
  split
  · split
    · exact kept.congr (.of_updChan s c rfl rfl ⟨rfl, rfl, rfl, rfl, rfl⟩)
    · exact kept.damage c
  · split
    · exact kept.completeFrame tail
    · exact kept.damage c

theorem receiveCharacter (kept : s.Filed [] true true) (c : Chan) (b : Byte) :
    (receiveCharacter c b s).Filed [] true true := by
  unfold Machine.receiveCharacter
  split
  · next hunt =>
    split
    · exact kept.setReceiver (kept.receiver_free (.inl hunt)) rfl
    · exact kept
  · next head =>
    split
    · exact kept.restartFrame c
    · exact kept.collectHeader head b
  · next body =>
    split
    · exact kept.restartFrame c
    · exact kept.collectBody body b
  · next tail =>
    split
    · exact kept.restartFrame c
    · exact kept.collectTail tail b

end State.Filed

end Sys2Proof.Machine
end

/-! # The events of the lines, the timers and the Time Base keep the filing (R98 to R103, R132 to R149, R166 to R174) -/

section
namespace Sys2Proof.Machine

theorem mapVector_eq_self {α : Type} {n : Nat} {f : α → α} (same : ∀ x, f x = x) (v : Vector α n) : mapVector f v = v := by
  ext i lt
  rw [getElem_mapVector, same]

/-- Two states whose directory and channels are written record by record, in what the filing does not read. -/
theorem State.SameTraffic.of_mapped {s t : State} {f : Station → Station} {g : Channel → Channel}
    (rest : { t with
      stations := s.stations, channels := s.channels, time := s.time } = s)
    (stations : t.stations = mapVector (Option.map f) s.stations) (channels : t.channels = mapVector g s.channels)
    (channel : ∀ st, (f st).channel = st.channel) (queue : ∀ x, (g x).queue = x.queue)
    (engine : ∀ x, (g x).engine.entry? = x.engine.entry?) (receiver : ∀ x : Channel, x.receiver.Carries (g x).receiver) :
    s.SameTraffic t := by
  have chan (c : Chan) : t.chan c = g (s.chan c) := by
    rw [State.chan]
    simp only [channels]
    exact getElem_mapVector ..
  constructor
  case hopChannel =>
    funext i
    have station : t.station i = (s.station i).map f := by
      rw [State.station]
      simp only [stations]
      exact getElem_mapVector ..
    rw [State.hopChannel, station, State.hopChannel]
    cases s.station i <;> simp [channel]
  case queue => exact fun c => by rw [chan, queue]
  case engine => exact fun c => by rw [chan, engine]
  case receiver => exact fun c => by rw [chan]; exact receiver _
  all_goals rw [← rest]

namespace State.Filed
variable {L : List Handle} {routed addressed : Bool} {s t : State} {h : Handle} {c : Chan}

/-! ## The line -/

/-- A channel written in what the filing does not read. -/
theorem updChan (kept : s.Filed L routed addressed) (c : Chan) {f : Channel → Channel}
    (same : (f (s.chan c)).queue = (s.chan c).queue ∧ (f (s.chan c)).engine.entry? = (s.chan c).engine.entry? ∧
      (f (s.chan c)).receiver = (s.chan c).receiver) : (s.updChan c f).Filed L routed addressed :=
  kept.congr (.of_updChan s c same.1 same.2.1 (.of_eq same.2.2))

theorem gate (kept : s.Filed L true addressed) (c : Chan) : (gate c s).Filed L true addressed := by
  unfold Machine.gate
  dsimp only
  split
  · exact kept
  · split
    · exact kept.updChan c ⟨rfl, rfl, rfl⟩
    · split
      · exact State.Filed.sweep (kept.updChan c ⟨rfl, rfl, rfl⟩)
      · exact kept.updChan c ⟨rfl, rfl, rfl⟩

theorem concludeLine (kept : s.Filed L true addressed) (c : Chan) : (concludeLine c s).Filed L true addressed :=
  (kept.gate c).conclude

theorem takeJam (kept : s.Filed L true addressed) (c : Chan) : (takeJam c s).Filed L true addressed := by
  unfold Machine.takeJam
  split
  · have jammed : (s.updChan c Channel.jam).Filed L true addressed := kept.updChan c ⟨rfl, rfl, rfl⟩
    exact (jammed.withdraw c).sweep.conclude
  · exact kept

theorem takeGap (kept : s.Filed L true addressed) (c : Chan) : (takeGap c s).Filed L true addressed := by
  unfold Machine.takeGap
  split
  · exact (((kept.takeJam c).damage c).gate c).conclude
  · exact kept

theorem settleLine (kept : s.Filed L true addressed) (c : Chan) : (settleLine c s).Filed L true addressed :=
  (kept.takeJam c).takeGap c

theorem setSampler (kept : s.Filed L routed addressed) (p : Sampler) (c : Chan) :
    (setSampler p c s).Filed L routed addressed := kept.updChan c ⟨rfl, rfl, rfl⟩

theorem setTransmitter (kept : s.Filed L routed addressed) (x : Transmitter) (c : Chan) :
    (setTransmitter x c s).Filed L routed addressed := kept.updChan c ⟨rfl, rfl, rfl⟩

theorem startSending (kept : s.Filed L routed addressed) (w : OnAir) (c : Chan) :
    (startSending w c s).Filed L routed addressed := kept.setTransmitter _ c

theorem cutTransmitter (kept : s.Filed L routed addressed) (c : Chan) : (cutTransmitter c s).Filed L routed addressed :=
  kept.updChan c ⟨rfl, rfl, rfl⟩

theorem damageInProgress (kept : s.Filed L routed addressed) (c : Chan) :
    (damageInProgress c s).Filed L routed addressed := by
  unfold Machine.damageInProgress
  split
  · exact kept.damage c
  · exact kept

/-! ## The transmitter -/

theorem keyFor (kept : s.Filed L true addressed) (w : OnAir) (c : Chan) : (keyFor w c s).Filed L true addressed := by
  have damaged := (kept.setSampler .lineRecovery c).damage c
  unfold Machine.keyFor
  dsimp only
  refine State.Filed.gate ?_ c
  split
  · exact damaged.startSending w c
  · exact damaged.setTransmitter _ c

theorem commit (kept : s.Filed L true addressed) (k : Claimant) (c : Chan) : (commit k c s).Filed L true addressed := by
  unfold Machine.commit
  split
  · split
    · exact kept
    · refine State.Filed.keyFor (kept.updChan c ?_) _ c
      unfold Channel.sendHead
      split <;> exact ⟨rfl, rfl, rfl⟩
  · exact State.Filed.keyFor (kept.updChan c ⟨rfl, rfl, rfl⟩) _ c
  · split
    · next h w x staged =>
      split
      · exact State.Filed.keyFor (kept.updChan c ⟨rfl, by rw [staged]; rfl, rfl⟩) _ c
      · exact kept.withdraw c
    · exact kept

theorem takeKeyUp (kept : s.Filed L true addressed) (c : Chan) : (takeKeyUp c s).Filed L true addressed := by
  unfold Machine.takeKeyUp
  split
  · exact (kept.commit _ c).conclude
  · exact kept

theorem takeDelayEnd (kept : s.Filed L routed addressed) (c : Chan) : (takeDelayEnd c s).Filed L routed addressed := by
  unfold Machine.takeDelayEnd
  split
  · exact kept.startSending _ c
  · exact kept

theorem releaseKey (kept : s.Filed L true addressed) (c : Chan) : (releaseKey c s).Filed L true addressed :=
  (kept.setTransmitter .idle c).gate c

theorem completeSending (kept : s.Filed L routed addressed) (w : OnAir) (c : Chan) :
    (completeSending w c s).Filed L routed addressed := by
  unfold Machine.completeSending
  split
  · exact kept
  · exact kept.updChan c ⟨rfl, rfl, rfl⟩
  · exact kept.updChan c ⟨rfl, rfl, rfl⟩
  · split
    · next h v sending =>
      have held : (s.chan c).engine.entry? = some h := by rw [sending]; rfl
      obtain ⟨tight, engaged⟩ := kept.exchanging.holds held
      exact (kept.idleEngine held).endRecorded tight engaged v
    · next sending => exact kept.updChan c ⟨rfl, by rw [sending]; rfl, rfl⟩
    · exact kept

theorem takeFrameEnd (kept : s.Filed L true addressed) (c : Chan) : (takeFrameEnd c s).Filed L true addressed := by
  unfold Machine.takeFrameEnd
  split
  · exact ((kept.releaseKey c).completeSending _ c).conclude
  · exact kept

theorem takeBreakEnd (kept : s.Filed L true addressed) (c : Chan) : (takeBreakEnd c s).Filed L true addressed := by
  unfold Machine.takeBreakEnd
  split
  · split
    · exact (kept.releaseKey c).conclude
    · exact kept.setTransmitter .idle c
  · exact kept

/-! ## The timers -/

theorem takeTimeout (kept : s.Filed L true addressed) (tables : s.TablesKept) (c : Chan) :
    (takeTimeout c s).Filed L true addressed := by
  unfold Machine.takeTimeout
  split
  · next h due =>
    have held : (s.chan c).engine.entry? = some h := by
      unfold Channel.timedOut at due
      split at due
      · next awaiting => rw [awaiting, ← due]; rfl
      · exact nomatch due
    exact (kept.timeOut held (tables.2.1 _).2.1).conclude
  · exact kept

theorem takeRetry (kept : s.Filed [] true addressed) (h : Handle) : (takeRetry h s).Filed [] true addressed := by
  unfold Machine.takeRetry
  split
  · next due =>
    have state : (s.entry h).state = .retryWait := by
      simp only [Entry.retryDue, Bool.and_eq_true, decide_eq_true_eq] at due
      exact due.1
    have loose := kept.loosen (h := h) (by rw [state]; nofun) (by rw [state]; nofun) (by rw [state]; nofun)
    exact (loose.place List.not_mem_nil
      ((kept.fields h).wholeOf (by rw [state]; nofun) (by rw [state]; nofun) (by rw [state]; nofun))
      ((kept.fields h).attemptsLeft (.inr (.inr state)))).conclude
  · exact kept

theorem takeBeacon (kept : s.Filed L true addressed) (c : Chan) : (takeBeacon c s).Filed L true addressed := by
  unfold Machine.takeBeacon
  split
  · refine State.Filed.conclude (kept.updChan c ?_)
    unfold Channel.beaconFalls
    split <;> exact ⟨rfl, rfl, rfl⟩
  · exact kept

theorem takeHoldEnd (kept : s.Filed L true addressed) (i : Index) : (takeHoldEnd i s).Filed L true addressed := by
  unfold Machine.takeHoldEnd
  split
  · exact State.Filed.conclude (kept.congr (State.SameTraffic.of_updStation s i fun _ => rfl))
  · exact kept

theorem takeSilenceEnd (kept : s.Filed L true addressed) (c : Chan) : (takeSilenceEnd c s).Filed L true addressed := by
  unfold Machine.takeSilenceEnd
  split
  · exact State.Filed.conclude (kept.updChan c ⟨rfl, rfl, rfl⟩)
  · exact kept

theorem queueOwn (kept : s.Filed L routed addressed) (c : Chan) (n : Nat) (k : Fin 8) :
    (s.updChan c (Channel.queueOwn n k)).Filed L routed addressed := by
  have same := Channel.queueOwn_sameButOwn n k (s.chan c)
  exact kept.updChan c ⟨same.queue, congrArg Engine.entry? same.engine, same.receiver⟩

theorem takeRehold (kept : s.Filed L true addressed) (c : Chan) : (takeRehold c s).Filed L true addressed := by
  have stopped : (stopRehold c s).Filed L true addressed := kept.updChan c ⟨rfl, rfl, rfl⟩
  unfold Machine.takeRehold
  split
  · dsimp only
    refine State.Filed.conclude ?_
    split
    · exact stopped.queueOwn c _ _
    · exact stopped
  · exact kept

theorem takeOverLimit (kept : s.Filed L true addressed) (i : Index) : (takeOverLimit i s).Filed L true addressed := by
  unfold Machine.takeOverLimit
  split
  · exact (kept.loseStation i).conclude
  · exact kept

/-! ## The Time Base -/

theorem takeQuantum (kept : s.Filed L routed addressed) : (takeQuantum s).Filed L routed addressed :=
  kept.congr (.of_mapped (f := Station.atQuantum) (g := Channel.atQuantum) rfl rfl rfl (fun _ => rfl) (fun _ => rfl)
    (fun _ => rfl) fun _ => .rfl' _)

theorem takeSecond (kept : s.Filed L true addressed) : (takeSecond s).Filed L true addressed := by
  have aged : ({ s with
      stations := mapVector (Option.map Station.atSecond) s.stations
      time := { s.time with secondDue := false } } : State).Filed L true addressed :=
    kept.congr (.of_mapped (f := Station.atSecond) (g := id) rfl rfl (mapVector_eq_self (fun _ => rfl) _).symm (fun _ => rfl) (fun _ => rfl)
      (fun _ => rfl) fun _ => .rfl' _)
  exact aged.endPauses _

theorem writeClock (kept : s.Filed L routed addressed) (n m : Nat) : (writeClock n m s).Filed L routed addressed :=
  kept.congr (.of_rest rfl)

theorem takeClockSecond (kept : s.Filed L routed addressed) : (takeClockSecond s).Filed L routed addressed := by
  have marked : ({ s with time := { s.time with clockDue := false } } : State).Filed L routed addressed :=
    kept.congr (.of_rest rfl)
  unfold Machine.takeClockSecond
  dsimp only
  split
  · exact forChans_keeps (P := (State.Filed L routed addressed)) (fun c _ kept => kept.updChan c ⟨rfl, rfl, rfl⟩)
      (marked.writeClock _ _)
  · exact marked.writeClock _ _

theorem applyWindow (kept : s.Filed L routed addressed) (e : WindowEvent) (c : Chan) :
    (applyWindow e c s).Filed L routed addressed := by
  unfold Machine.applyWindow
  split
  · split
    · exact kept.withdraw c
    · exact kept
  · exact kept

theorem takeWindow (kept : s.Filed L true addressed) (e : WindowEvent) (c : Chan) :
    (takeWindow e c s).Filed L true addressed := by
  have cleared : (clearWindowDue c s).Filed L true addressed := kept.updChan c ⟨rfl, rfl, rfl⟩
  exact (cleared.applyWindow e c).conclude

theorem settleWindow (kept : s.Filed L true addressed) (c : Chan) : (settleWindow c s).Filed L true addressed := by
  unfold Machine.settleWindow
  split
  · exact kept.takeWindow _ c
  · exact kept

/-- An event that waits, taken (note 2). -/
theorem settleOnce (kept : s.Filed [] true true) (tables : s.TablesKept) (e : settleOnce s = some t) :
    t.Filed [] true true :=
  settleOnce_keeps kept.takeClockSecond kept.takeQuantum kept.takeSecond kept.settleWindow kept.takeHoldEnd
    kept.takeSilenceEnd kept.takeRehold kept.takeOverLimit kept.takeRetry kept.takeBeacon kept.takeGap kept.takeJam
    (kept.takeTimeout tables) kept.takeDelayEnd kept.takeFrameEnd kept.takeBreakEnd kept.takeKeyUp _ e

theorem settleAll (kept : s.Filed [] true true) (tables : s.TablesKept) : (Machine.settle s).Filed [] true true :=
  (settle_keeps (P := fun s => s.Filed [] true true ∧ s.TablesKept)
    (fun _ _ both e => ⟨both.1.settleOnce both.2 e, invariant_tablesKept.settleOnce both.2 e⟩) ⟨kept, tables⟩).1

theorem tick (kept : s.Filed L routed addressed) : (tick s).Filed L routed addressed := by
  refine kept.congr (.of_mapped (f := id) (g := Channel.atMs) rfl
    (mapVector_eq_self (fun r => by rw [Option.map_id, id]) _).symm rfl (fun _ => rfl) (fun _ => rfl)
    (fun x => ?_) fun x => ?_)
  · change x.engine.atMs.entry? = x.engine.entry?
    cases x.engine <;> rfl
  · change x.receiver.Carries x.receiver.atMs
    unfold Receiver.atMs
    split <;> exact ⟨rfl, rfl, rfl, rfl, rfl⟩

end State.Filed

end Sys2Proof.Machine
end

/-! # The requests keep the filing (R28 to R60, R104 to R110, R148, R158, R170, R181 to R186) -/

section
namespace Sys2Proof.Machine

/-- The precedence and the destination of a message are free of its state (R48). -/
theorem Entry.FieldsKept.readdressed {e : Entry} (kept : e.FieldsKept) (used : e.inUse = true) (p : Fin 8) (d : Call) :
    ({ e with precedence := p, destination := d } : Entry).FieldsKept := by
  obtain ⟨notFree, notSpent⟩ := Entry.inUse_iff.1 used
  exact { kept with free := fun free => absurd free notFree, spent := fun spent => absurd spent notSpent }

/-- The changed flag of an entry in use may be cleared (R21). -/
theorem Entry.FieldsKept.unflagged {e : Entry} (kept : e.FieldsKept) (used : e.inUse = true) :
    ({ e with changed := false } : Entry).FieldsKept := by
  obtain ⟨notFree, notSpent⟩ := Entry.inUse_iff.1 used
  exact { kept with
    free := fun free => absurd free notFree, spent := fun spent => absurd spent notSpent, arriving := fun _ => rfl }

/-- Cancel may be pending for an ENGAGED entry (R47). -/
theorem Entry.FieldsKept.pending {e : Entry} (kept : e.FieldsKept) (engaged : e.state = .engaged) :
    ({ e with cancelPending := some true } : Entry).FieldsKept :=
  { kept with
    free := fun free => nomatch (engaged.symm.trans free)
    spent := fun spent => nomatch (engaged.symm.trans spent)
    cancelPending := ⟨fun _ => engaged, fun _ => nofun⟩ }

/-- The entry that FILE stores (R29). -/
theorem State.filedEntry_fieldsKept (s : State) (p : Fin 8) (d : Call) {body : List Byte} (short : body.length ≤ 960)
    (a : Quad) (k : Key) : ({ s.filedEntry p d body with
      accession := a, blockCount := blocksFor body.length, key := k } : Entry).FieldsKept where
  free := nofun
  spent := nofun
  receivedFrom := fun _ => ⟨fun _ => rfl, fun _ => rfl⟩
  nextHop := fun _ => .inl rfl
  engagedHop := nofun
  lastHop := nofun
  fresh := nofun
  attempts := Nat.zero_le _
  attemptsLeft := fun _ => Nat.zero_le _
  notBefore := ⟨fun some => absurd rfl some, nofun⟩
  cancelPending := ⟨fun some => absurd rfl some, nofun⟩
  arriving := nofun
  blocks := fun _ => rfl
  longest := short
  whole := fun _ _ => rfl

theorem State.SameTraffic.setEntry {s t : State} (same : s.SameTraffic t) (h : Handle) (e : Entry) :
    (s.setEntry h e).SameTraffic (t.setEntry h e) := by
  constructor
  case entries => exact congrArg (·.set h.val e) same.entries
  case accessionCounter => exact same.accessionCounter
  case freeEntries => exact same.freeEntries
  case freeBlocks => exact same.freeBlocks
  case unrouted => exact same.unrouted
  case ownCall => exact same.ownCall
  case hopChannel => exact (State.hopChannel_congr rfl).trans (same.hopChannel.trans (State.hopChannel_congr rfl).symm)
  case queue => exact same.queue
  case engine => exact same.engine
  case receiver => exact same.receiver

namespace State.Filed
variable {L : List Handle} {routed addressed : Bool} {s t : State} {h : Handle} {c : Chan}

theorem onEntry (kept : s.Filed L routed addressed) (b : Byte) {f : Handle → State → State}
    (each : ∀ h, (s.entry h).state ≠ .free → (f h s).Filed L routed addressed) : (onEntry b f s).Filed L routed addressed := by
  unfold Machine.onEntry
  split
  · exact kept.answer _ _
  · next held => exact each _ held

theorem onChannel (kept : s.Filed L routed addressed) (b : Byte) {f : Chan → State → State}
    (each : ∀ c, (f c s).Filed L routed addressed) : (onChannel b f s).Filed L routed addressed := by
  unfold Machine.onChannel
  split
  · exact kept.answer _ _
  · exact each _

theorem onStation (kept : s.Filed L routed addressed) (b : Byte) {f : Index → Station → State → State}
    (each : ∀ i st, (f i st s).Filed L routed addressed) : (onStation b f s).Filed L routed addressed := by
  unfold Machine.onStation
  split
  · exact kept.answer _ _
  · split
    · exact kept.answer _ _
    · exact each _ _

/-! ## Messages -/

theorem fileMessage (kept : s.Filed [] true addressed) (p : Fin 8) (d : Call) {body : List Byte} (short : body.length ≤ 960) :
    (fileMessage p d body s).Filed [] true addressed := by
  unfold Machine.fileMessage
  split
  · exact kept.answer _ _
  · next h s1 a =>
    let key : Key := ⟨(Machine.testCongestion s1).own.call, freeSerial (Machine.testCongestion s1)
      (Machine.testCongestion s1).own.call 256 (Machine.testCongestion s1).ownSerial⟩
    obtain ⟨stored, others⟩ := allocate_stores a
    have fields := s.filedEntry_fieldsKept p d short s.accessionCounter key
    have loose := kept.allocated a (e' := { s1.entry h with key := key }) (by rw [stored]; exact fields)
      (by rw [stored]; rfl) (by rw [stored]) (by rw [stored]) (fun k other busy same => by
        refine freeSerial_unheld (Machine.testCongestion s1) (Machine.testCongestion s1).own.call
          (Machine.testCongestion s1).ownSerial k ⟨?_, ?_⟩
        · rw [testCongestion_entry, others k other]; exact busy
        · rw [testCongestion_entry, others k other]; exact same)
    have tested : (s1.setEntry h { s1.entry h with key := key }).SameTraffic
        ((Machine.testCongestion s1).setEntry h { s1.entry h with key := key }) :=
      State.SameTraffic.setEntry (.of_tested (.testCongestion s1)) h _
    have given : (giveSerial h (Machine.testCongestion s1)).Filed [h] true addressed := by
      refine loose.congr (tested.trans ?_)
      have entry : (Machine.testCongestion s1).entry h = s1.entry h := testCongestion_entry s1 h
      rw [← entry]
      exact .of_rest rfl
    have entry := (giveSerial_spec h (Machine.testCongestion s1)).2 h
    rw [if_pos rfl, testCongestion_entry, stored] at entry
    exact ((given.place List.not_mem_nil (by rw [entry]; exact ⟨rfl, rfl⟩) (by rw [entry]; exact Nat.zero_le _)).answer _
      _).considerAll

theorem file (kept : s.Filed [] true addressed) (b : Byte) (f : CallField) (body : List Byte) :
    (file b f body s).Filed [] true addressed := by
  unfold Machine.file
  split
  · split
    · exact kept.answer _ _
    · next passing =>
      split
      · exact kept.answer _ _
      · exact kept.fileMessage _ _ (not_lt.1 (not_or.1 passing).1)
  · exact kept.answer _ _

theorem nextChanged (kept : s.Filed L routed addressed) : (nextChanged s).Filed L routed addressed := by
  unfold Machine.nextChanged
  split
  · exact kept.answer _ _
  · next h found =>
    have changed : (s.entry h).changed = true := (State.findEntry_some found).1
    have used : (s.entry h).inUse = true := by
      refine Entry.inUse_iff.2 ⟨fun free => ?_, fun spent => ?_⟩
      · rw [(kept.fields h).free free] at changed; exact nomatch changed
      · rw [(kept.fields h).spent spent] at changed; exact nomatch changed
    exact State.Filed.answer (kept.setEntry (e := { s.entry h with changed := false }) (.inr ⟨.rfl' _, fun _ => rfl⟩) used used
      ((kept.fields h).unflagged used) rfl rfl rfl) _ _

theorem amendEntry (kept : s.Filed [] true addressed) (accepts : (s.entry h).state.amendable = true) (p : Fin 8) (d : Call) :
    (amendEntry p d h s).Filed [] true addressed := by
  have ne {x : EntryState} (refuses : x.amendable = false) : (s.entry h).state ≠ x := fun same => by
    rw [same, refuses] at accepts
    exact nomatch accepts
  have whole := (kept.fields h).wholeOf (ne rfl) (ne rfl) (ne rfl)
  have fields := (kept.fields h).readdressed whole.1 p d
  have entry (u : State) (f : Entry → Entry) : (u.updEntry h f).entry h = f (u.entry h) := by
    rw [State.entry_updEntry, if_pos rfl]
  unfold Machine.amendEntry
  split
  · next ready =>
    have readdressed := (kept.leave ready).restate whole (f := fun e => { e with precedence := p, destination := d }) fields
      whole.1 rfl rfl rfl
    exact ((readdressed.place List.not_mem_nil (by rw [entry]; exact whole)
      (by rw [entry]; exact (kept.fields h).attemptsLeft (.inl ready))).answer _ _).considerAll
  · next notReady =>
    have readdressed := (kept.loosen notReady (ne rfl) (ne rfl)).restate whole
      (f := fun e => { e with precedence := p, destination := d }) fields whole.1 rfl rfl rfl
    exact (readdressed.settle (by rw [entry]; exact notReady) (by rw [entry]; exact ne rfl)
      (by rw [entry]; exact ne rfl)).answer _ _

theorem amend (kept : s.Filed [] true addressed) (b : Byte) (f : CallField) (h : Handle) :
    (amend b f h s).Filed [] true addressed := by
  unfold Machine.amend
  split
  · split
    · next accepts => exact kept.amendEntry accepts _ _
    · exact kept.answer _ _
  · exact kept.answer _ _

/-- A loose entry is cancelled by the request (R47). -/
theorem cancelEntry (kept : s.Filed (h :: L) routed addressed) (whole : (s.entry h).Whole) (o : LastOutcome) :
    (s.cancelEntry h o).Filed L routed addressed := by
  have cancelled := kept.restate whole (f := fun e =>
      { e with state := .cancelled, lastOutcome := o, nextHop := none, notBefore := none, cancelPending := none })
    ((kept.fields h).ended whole (x := .cancelled) (.inr (.inr (.inr rfl))) (by simp) (kept.fields h).attempts o
      (s.entry h).changed) rfl rfl rfl rfl
  exact cancelled.settle_closed (by rw [State.entry_updEntry, if_pos rfl]; exact .inr (.inr (.inr rfl)))

theorem cancelEngaged (kept : s.Filed L true addressed) (engaged : (s.entry h).state = .engaged) :
    (cancelEngaged h s).Filed L true addressed := by
  have whole := kept.engaged_whole engaged
  unfold Machine.cancelEngaged
  split
  · exact kept.answer _ _
  · next c found =>
    have held : (s.chan c).engine.entry? = some h := by simpa using (findChan_some found).1
    split
    · exact (((kept.idleEngine held).cancelEntry whole .withdrawn).answer _ _).considerAll
    · exact State.Filed.answer (kept.setEntry (e := { s.entry h with cancelPending := some true })
        (.inr ⟨.rfl' _, fun _ => rfl⟩) whole.1 whole.1 ((kept.fields h).pending engaged) rfl rfl rfl) _ _

theorem cancel (kept : s.Filed L true addressed) (h : Handle) : (cancel h s).Filed L true addressed := by
  unfold Machine.cancel
  split
  · next ready => exact ((kept.leave ready).cancelEntry (kept.ready_whole ready) _).answer _ _
  · next waits =>
    have loose := kept.loosen (h := h) (by rw [waits]; nofun) (by rw [waits]; nofun) (by rw [waits]; nofun)
    exact (loose.cancelEntry ((kept.fields h).wholeOf (by rw [waits]; nofun) (by rw [waits]; nofun)
      (by rw [waits]; nofun)) _).answer _ _
  · next engaged => exact kept.cancelEngaged engaged
  · exact kept.answer _ _

theorem renew (kept : s.Filed [] true addressed) (h : Handle) : (renew h s).Filed [] true addressed := by
  unfold Machine.renew
  split
  · next renewable =>
    have ne {x : EntryState} (other : x.renewable = false) : (s.entry h).state ≠ x := fun same => by
      rw [same, other] at renewable
      exact nomatch renewable
    have fields := kept.fields h
    have whole := fields.wholeOf (ne rfl) (ne rfl) (ne rfl)
    have restated := (kept.loosen (ne rfl) (ne rfl) (ne rfl)).restate whole
      (f := fun e => { e with attemptCount := 0, lastOutcome := .none })
      (fields.restated whole (x := (s.entry h).state) (changed := (s.entry h).changed) ⟨ne rfl, ne rfl, ne rfl, ne rfl⟩
        fields.nextHop fields.engagedHop fields.lastHop (Nat.zero_le _) (fun _ => Nat.zero_le _) fields.notBefore
        fields.cancelPending) whole.1 rfl rfl rfl
    have entry (f : Entry → Entry) : (s.updEntry h f).entry h = f (s.entry h) := by
      rw [State.entry_updEntry, if_pos rfl]
    exact ((restated.place List.not_mem_nil (by rw [entry]; exact whole) (by rw [entry]; exact Nat.zero_le _)).answer _
      _).considerAll
  · exact kept.answer _ _

theorem retire (kept : s.Filed L routed addressed) (h : Handle) : (retire h s).Filed L routed addressed := by
  unfold Machine.retire
  split
  · next finished => exact (kept.retireEntry finished).answer _ _
  · exact kept.answer _ _

/-! ## Stations -/

theorem writeStation (kept : s.Filed L routed addressed) (i : Index) (n : Station) :
    (writeStation i n s).Filed L true addressed := by
  have written : (s.setStation i (some (writtenStation (s.station i) n))).Filed L false addressed := kept.restationed _
  have marked {u : State} (k : u.Filed L false addressed) : ({ u with reachChanged := true } : State).Filed L false addressed :=
    k.congr (.of_rest rfl)
  have answered {u : State} (k : u.Filed L true addressed) : (answerStation i u).Filed L true addressed := by
    unfold answerStation
    split <;> exact k.answer _ _
  unfold Machine.writeStation
  dsimp only
  refine (answered (State.Filed.sweep (routed := false) ?_)).considerAll
  split
  · exact marked written
  · exact written

theorem setStation (kept : s.Filed L true addressed) (p : StationBlock) : (Machine.setStation p s).Filed L true addressed := by
  unfold Machine.setStation
  split
  · exact kept.answer _ _
  · split
    · exact kept.answer _ _
    · exact State.Filed.writeStation kept _ _

theorem dropStation (kept : s.Filed L true addressed) (i : Index) : (dropStation i s).Filed L true addressed := by
  unfold Machine.dropStation
  split
  · exact kept.answer _ _
  · have dropped : (s.setStation i none).Filed L false addressed := kept.restationed _
    exact (dropped.sweep.answer _ _).considerAll

theorem forceStation (kept : s.Filed L true addressed) (v : Bool) (i : Index) (st : Station) :
    (forceStation v i st s).Filed L true addressed := by
  unfold Machine.forceStation
  split
  · exact kept.answer _ _
  · have forced : (s.updStation i fun r => { r with forcedUnheard := v }).Filed L true addressed :=
      kept.congr (State.SameTraffic.of_updStation s i fun _ => rfl)
    exact (forced.sweep.answer _ _).considerAll

/-! ## Channels -/

theorem setChannel (kept : s.Filed L routed addressed) (p : SettingsBlock) (c : Chan) :
    (setChannel p c s).Filed L routed addressed := by
  unfold Machine.setChannel
  split
  · exact kept.answer _ _
  · split
    · exact kept.answer _ _
    · exact State.Filed.answer (kept.updChan c ⟨rfl, rfl, rfl⟩) _ _

theorem readChannel (kept : s.Filed L routed addressed) (c : Chan) : (readChannel c s).Filed L routed addressed := by
  unfold Machine.readChannel drawBeacon
  split <;> exact kept.congr (.of_rest rfl)

theorem holdIfCongested (kept : s.Filed L routed addressed) (c : Chan) : (holdIfCongested c s).Filed L routed addressed := by
  unfold Machine.holdIfCongested
  split
  · exact kept.queueOwn c _ _
  · exact kept

theorem enableChannel (kept : s.Filed L true addressed) (quiet : (s.chan c).Quiet) :
    (enableChannel c s).Filed L true addressed := by
  unfold Machine.enableChannel
  split
  · exact kept.answer _ _
  split
  · exact kept.answer _ _
  · next disabled =>
    obtain ⟨-, hunt, -, -, -, -, -, -, -, -, -, -, idle, -, -⟩ := quiet (by simpa using disabled)
    have started : (s.updChan c (Channel.started s.time.counter)).Filed L true addressed :=
      kept.updChan c ⟨rfl, by rw [idle]; rfl, by rw [hunt]; rfl⟩
    exact ((started.holdIfCongested c).sweep.considerAll).answer _ _

/-- A channel that DISABLE CHANNEL has stopped, before the sweep (R106). -/
theorem stoppedAt (kept : s.Filed L routed addressed) (c : Chan) : (stoppedAt c s).Filed L routed addressed := by
  have marked : (markDisabled c s).Filed L routed addressed := kept.updChan c ⟨rfl, rfl, rfl⟩
  exact (((marked.endExchange c).cutTransmitter c).damage c).updChan c ⟨rfl, rfl, rfl⟩

theorem stopChannel (kept : s.Filed L routed addressed) (c : Chan) : (stopChannel c s).Filed L true addressed :=
  (kept.stoppedAt c).sweep

theorem disableChannel (kept : s.Filed L true addressed) (c : Chan) : (disableChannel c s).Filed L true addressed := by
  unfold Machine.disableChannel
  split
  · exact (((kept.takeJam c).stopChannel c).answer _ _).considerAll
  · exact kept.answer _ _

theorem abortChannel (kept : s.Filed L true addressed) (c : Chan) : (abortChannel c s).Filed L true addressed := by
  have cut : (cutExchange c s).Filed L true addressed := by
    unfold cutExchange
    split
    · exact kept.cutTransmitter c
    · exact kept
  have paused : (setPause c (Machine.endExchange c (cutExchange c s))).Filed L true addressed :=
    (cut.endExchange c).updChan c ⟨rfl, rfl, rfl⟩
  unfold Machine.abortChannel
  split
  · exact kept.answer _ _
  · exact ((paused.gate c).answer _ _).considerAll

/-- A cleared channel: its reservation released, its receive record in HUNT (R32, R108). -/
theorem cleared (kept : s.Filed L routed addressed) (c : Chan) (now : Quad) :
    ((releaseQuietly c s).updChan c (Channel.clearedRecord now)).Filed L routed addressed := by
  have hunts (u : State) : (Machine.setReceiver .hunt c u).SameTraffic (u.updChan c (Channel.clearedRecord now)) := by
    have again := State.updChan_updChan u c (fun x => { x with receiver := .hunt }) (Channel.clearedRecord now)
    have same : u.updChan c (Channel.clearedRecord now) =
        (Machine.setReceiver .hunt c u).updChan c (Channel.clearedRecord now) := again.symm
    rw [same]
    exact .of_updChan _ c rfl rfl (by rw [setReceiver_receiver]; exact .rfl' _)
  unfold releaseQuietly
  split
  · next h held =>
    have freed := (kept.unreserve (r := .hunt) held rfl).freeEntry (kept.reserved_inUse held)
    exact freed.congr ((State.SameTraffic.setReceiver (s := Machine.freeEntry h s)
      (.of_tested (.markCongestion _)) .hunt c).trans (hunts _))
  · next free => exact (kept.setReceiver free rfl).congr (hunts s)

theorem clearChannel (kept : s.Filed L routed addressed) (c : Chan) : (clearChannel c s).Filed L routed addressed :=
  ((kept.endExchange c).cutTransmitter c).cleared c s.time.counter

theorem clearFrames (kept : s.Filed L routed addressed) (was : Congestion) : (clearFrames was s).Filed L routed addressed := by
  have each (f : Chan → State → State) (queues : ∀ c u, u.Filed L routed addressed → (f c u).Filed L routed addressed) :
      (forChans (ifEnabled f) s).Filed L routed addressed :=
    forChans_keeps (P := (State.Filed L routed addressed)) (fun c u k => by
      unfold ifEnabled
      split
      · exact queues c u k
      · exact k) kept
  unfold Machine.clearFrames
  split
  · exact each _ fun c _ k => k.queueOwn c _ _
  split
  · exact each _ fun c _ k => k.queueOwn c _ _
  · exact kept

/-- The channels that CLEAR CHANNELS has cleared, before its own frames and its sweep (R108). -/
theorem emptied (kept : s.Filed L true addressed) : (emptied s).Filed L true addressed := by
  have jams : (forChans Machine.takeJam s).Filed L true addressed :=
    forChans_keeps (P := (State.Filed L true addressed)) (fun c _ k => k.takeJam c) kept
  exact forChans_keeps (P := (State.Filed L true addressed)) (fun c u k => by
    unfold ifEnabled
    split
    · exact k.clearChannel c
    · exact k) jams

theorem clearChannels (kept : s.Filed L true addressed) : (clearChannels s).Filed L true addressed := by
  unfold Machine.clearChannels
  split
  · exact (((kept.emptied.clearFrames _).sweep).answer _ _).considerAll
  · exact kept.answer _ _

/-! ## The part -/

theorem setClass (kept : s.Filed L true addressed) (b l w : Byte) : (setClass b l w s).Filed L true addressed := by
  unfold Machine.setClass
  split
  · exact kept.answer _ _
  · exact State.Filed.considerAll (kept.congr (.of_rest rfl))

/-- SET OWN, from a record whose headers in reception stay addressed or need not be (R181). -/
theorem ownWritten {o : OwnStation} (kept : (Machine.writeOwn o s).Filed L true addressed) :
    (Machine.considerAll ((sweepIfRouted s.own.defaultRoute (Machine.testCongestion (Machine.writeOwn o s))).answer .done
      o.bytes)).Filed L true addressed := by
  refine State.Filed.considerAll (State.Filed.answer ?_ _ _)
  unfold sweepIfRouted
  split
  · exact kept.testCongestion
  · exact kept.testCongestion.sweep

theorem setOwn (kept : s.Filed L true true) (listening : s.Listening) (p : OwnBlock) : (setOwn p s).Filed L true true := by
  unfold Machine.setOwn
  split
  · exact kept.answer _ _
  · next o _ =>
    split
    · exact kept.answer _ _
    · next allowed =>
      refine State.Filed.ownWritten ?_
      have written := kept.writeOwn o
      refine { written with reserving := { written.reserving with headed := fun _ c h held => ?_ } }
      by_cases same : o.call = s.own.call
      · exact (kept.reserving.headed rfl held).of_carries (.rfl' _) same
      · have off : (s.chan c).enabled = false := by
          by_contra on
          exact allowed ⟨same, State.anyEnabled_iff.2 ⟨c, by simpa using on⟩⟩
        obtain ⟨-, hunt, -⟩ := (listening c).1 off
        change (s.chan c).receiver.reservation = some h at held
        rw [hunt] at held
        exact nomatch held

theorem readStatus (kept : s.Filed L routed addressed) : (readStatus s).Filed L routed addressed := by
  have cleared : s.clearFlags.Filed L routed addressed :=
    forChans_keeps (P := (State.Filed L routed addressed)) (fun c _ k => k.updChan c ⟨rfl, rfl, rfl⟩)
      (kept.congr (.of_rest rfl))
  exact cleared.answer _ _

theorem setClock (kept : s.Filed L true addressed) (n : Quad) : (setClock n s).Filed L true addressed := by
  unfold Machine.setClock
  split
  · exact kept.answer _ _
  · have settled : (forChans Machine.settleWindow s).Filed L true addressed :=
      forChans_keeps (P := (State.Filed L true addressed)) (fun c _ k => k.settleWindow c) kept
    refine State.Filed.considerAll (State.Filed.answer
      (forChans_keeps (P := (State.Filed L true addressed)) (fun c u k => ?_) (settled.writeClock n.toNat 0)) _ _)
    split
    · exact k.applyWindow _ c
    · exact k

/-! ## Resets -/

/-- A part at its reset values, whatever runs on of its channels, is filed (R110). -/
theorem reset {t : State} (rest : { t with
    response := State.reset.response, channels := State.reset.channels, freeCount := State.reset.freeCount,
    pending := State.reset.pending } = State.reset)
    (chan : ∀ c, (t.chan c).queue = [] ∧ (t.chan c).engine = .idle ∧ (t.chan c).receiver = .hunt) :
    t.Filed [] true true := by
  refine (State.filed_iff.2 State.reset_trafficKept).congr ?_
  constructor
  case hopChannel => exact State.hopChannel_congr (congrArg State.stations rest :)
  case queue => exact fun c => by rw [State.reset_chan]; exact (chan c).1
  case engine => exact fun c => by rw [State.reset_chan, (chan c).2.1]; rfl
  case receiver => exact fun c => by rw [State.reset_chan, (chan c).2.2]; exact .rfl' _
  case ownCall => exact (congrArg (fun u : State => u.own.call) rest :)
  case entries => exact (congrArg State.entries rest :)
  case accessionCounter => exact (congrArg State.accessionCounter rest :)
  case freeEntries => exact (congrArg State.freeEntries rest :)
  case freeBlocks => exact (congrArg State.freeBlocks rest :)
  case unrouted => exact (congrArg State.unrouted rest :)

theorem resetParts (s : State) : s.resetParts.Filed [] true true :=
  .reset rfl fun c => by rw [State.resetParts_chan]; exact ⟨rfl, rfl, rfl⟩

theorem clearAll (s : State) : (clearAll s).Filed [] true true := by
  refine .reset rfl fun c => ?_
  have chan : (Machine.clearAll s).chan c = (s.chan c).afterClearAll := getElem_mapVector ..
  rw [chan]
  exact ⟨rfl, rfl, rfl⟩

/-! ## Commands -/

/-- Every command keeps the filing, from channels and tables that are kept as well. -/
theorem exec (kept : s.Filed [] true true) (listening : s.Listening) (tables : s.TablesKept) {i : Instr}
    (run : exec i s = .next t) : t.Filed [] true true := by
  cases i <;> obtain rfl := Host.Outcome.next.inj run
  case file => exact (kept.file _ _ _).takeRequest
  case readEntry => exact takeRequest (kept.onEntry _ fun _ _ => kept.answer _ _)
  case readText =>
    refine takeRequest (kept.onEntry _ fun _ _ => ?_)
    unfold readText
    split <;> exact kept.answer _ _
  case find =>
    refine takeRequest ?_
    unfold find
    split
    · exact kept.answer _ _
    · split
      · exact kept.answer _ _
      · split <;> exact kept.answer _ _
  case nextChanged => exact kept.nextChanged.takeRequest
  case listQueue =>
    refine takeRequest ?_
    unfold listQueue
    split
    · exact kept.answer _ _
    · split <;> exact kept.answer _ _
  case amend => exact takeRequest (kept.onEntry _ fun h _ => kept.amend _ _ h)
  case cancel => exact takeRequest (kept.onEntry _ fun h _ => kept.cancel h)
  case renew => exact takeRequest (kept.onEntry _ fun h _ => kept.renew h)
  case retire => exact takeRequest (kept.onEntry _ fun h _ => kept.retire h)
  case setStation => exact (kept.setStation _).takeRequest
  case readStation => exact takeRequest (kept.onStation _ fun _ _ => kept.answer _ _)
  case dropStation => exact takeRequest (kept.onStation _ fun i _ => kept.dropStation i)
  case forceStation =>
    refine takeRequest ?_
    split
    · exact kept.answer _ _
    · exact kept.onStation _ fun i st => kept.forceStation _ i st
  case setChannel => exact takeRequest (kept.onChannel _ fun c => kept.setChannel _ c)
  case readChannel => exact takeRequest (kept.onChannel _ fun c => kept.readChannel c)
  case enableChannel => exact takeRequest (kept.onChannel _ fun c => kept.enableChannel (listening c).1)
  case disableChannel => exact takeRequest (kept.onChannel _ fun c => kept.disableChannel c)
  case abortChannel => exact takeRequest (kept.onChannel _ fun c => kept.abortChannel c)
  case setClass => exact (kept.setClass _ _ _).takeRequest
  case setOwn => exact (kept.setOwn listening _).takeRequest
  case readStatus => exact kept.readStatus.takeRequest
  case setClock => exact (kept.setClock _).takeRequest
  case readClock => exact (kept.answer _ _).takeRequest
  case clearChannels => exact kept.clearChannels.takeRequest
  case clearAll => exact (clearAll s).takeRequest
  case readFrame => exact kept
  case badFrame => exact kept.answer _ _
  case powerOn => exact resetParts s
  case resetPin => exact resetParts s
  case goodCharacter c x =>
    split
    · exact (((kept.settleLine c).setSampler _ c).receiveCharacter c _).concludeLine c
    · exact kept
  case characterError c x =>
    split
    · exact (((kept.settleLine c).setSampler _ c).damageInProgress c).concludeLine c
    · exact kept
  case breakReceived c =>
    split
    · exact (((kept.settleLine c).setSampler _ c).damageInProgress c).concludeLine c
    · exact kept
  case cdInputChange c v =>
    have pinned : (setCd v c (Machine.takeJam c s)).Filed [] true true := (kept.takeJam c).updChan c ⟨rfl, rfl, rfl⟩
    exact pinned.concludeLine c
  case millisecondAdvance => exact (kept.settleAll tables).tick
  case quantum =>
    split
    · exact kept.takeQuantum
    · exact kept
  case timeBaseSecond =>
    split
    · exact kept.takeSecond
    · exact kept
  case clockSecond =>
    split
    · exact kept.takeClockSecond
    · exact kept
  case windowOpenEvent c | windowCloseEvent c =>
    unfold takeWindowIf
    split
    · exact kept.takeWindow _ c
    · exact kept
  case keyUp => exact kept.takeKeyUp _
  case keyUpDelayEnd => exact kept.takeDelayEnd _
  case frameEnd => exact kept.takeFrameEnd _
  case breakEnd => exact kept.takeBreakEnd _
  case receiptTimeout => exact kept.takeTimeout tables _
  case retryWaitExpiry => exact kept.takeRetry _
  case beaconDue => exact kept.takeBeacon _
  case holdExpiry => exact kept.takeHoldEnd _
  case silenceExpiry => exact kept.takeSilenceEnd _
  case reHoldExpiry => exact kept.takeRehold _
  case gapExpiry => exact kept.takeGap _
  case jammed => exact kept.takeJam _
  case heardAgeOverLimit => exact kept.takeOverLimit _
  case startBit | shortPulse | lineRecoveryEnd =>
    split
    · exact kept.setSampler _ _
    · exact kept

end State.Filed

/-- Settles O48: with no entry loose `State.Filed` is `State.TrafficKept`, and every command keeps it. -/
theorem trafficKept : Obligations.TrafficKept := by
  intro s t kept listening tables run
  have before := State.filed_iff.2 kept
  unfold step at run
  split at run
  · exact Host.Outcome.next.inj run ▸ kept
  · next rest _ =>
    have front : (s.withPending rest).Filed [] true true := before.congr (.of_rest rfl)
    exact State.filed_iff.1 (front.exec (fun c => listening c) tables run)

end Sys2Proof.Machine
end

/-! # Resolution and routes (R61, R62, R27)

How a destination resolves, by whether its candidate and the fallback are usable, and when the loop test leaves a route. -/

section
namespace Sys2Proof.Machine

variable {s : State} {st f : Station} {i j : Index} {d : Call} {e : Entry}

/-- A station by its own state, its relay apart, can be worked (R61). -/
theorem State.selfUsable_iff : s.selfUsable st = true ↔ st.reach = .heard ∧ st.forcedUnheard = false ∧
    (s.chan st.channel).enabled = true ∧ (s.chan st.channel).jammed = false := by
  simp [State.selfUsable, and_assoc]

theorem State.usable_direct (direct : st.kind = .direct) : s.usable st = s.selfUsable st := by
  simp [State.usable, direct]

theorem State.usable_via {r : Station} (via : st.kind = .via i) (relay : s.station i = some r) :
    s.usable st = (s.selfUsable st && s.selfUsable r) := by
  simp [State.usable, via, relay]

theorem State.hopVia_of_usable (held : s.station i = some st) (usable : s.usable st = true) :
    s.hopVia i = some (hopOf i st) := by simp [State.hopVia, held, usable]

theorem State.hopVia_of_unusable (held : s.station i = some st) (unusable : s.usable st = false) :
    s.hopVia i = none := by simp [State.hopVia, held, unusable]

theorem State.resolve_own : s.resolve s.own.call = none := if_pos rfl

theorem State.resolve_of_usable (other : d ≠ s.own.call) (candidate : s.candidate d = some i)
    (held : s.station i = some st) (usable : s.usable st = true) : s.resolve d = some (hopOf i st) := by
  simp [State.resolve, other, candidate, State.hopVia_of_usable held usable]

theorem State.resolve_of_unusable (other : d ≠ s.own.call) (candidate : s.candidate d = some i)
    (held : s.station i = some st) (unusable : s.usable st = false) :
    s.resolve d = st.fallback.bind s.hopVia := by
  simp [State.resolve, other, candidate, held, State.hopVia_of_unusable held unusable]

theorem State.resolve_of_no_candidate (other : d ≠ s.own.call) (candidate : s.candidate d = none) :
    s.resolve d = none := by simp [State.resolve, other, candidate]

/-- The record that alone holds a destination is its candidate (R62). -/
theorem State.candidate_of_holds (held : s.station i = some st) (call : st.call = d)
    (one : ∀ j r, s.station j = some r → r.call = d → j = i) : s.candidate d = some i := by
  unfold State.candidate
  split
  · next j found =>
    obtain ⟨r, heldJ, callJ⟩ := State.findStation_holds found
    rw [one j r heldJ callJ]
  · next unfound => exact absurd call (State.findStation_eq_none_iff.1 unfound i st held)

theorem State.candidate_of_unheld (unheld : ∀ i st, s.station i = some st → st.call ≠ d) :
    s.candidate d = s.own.defaultRoute := by
  simp [State.candidate, State.findStation_eq_none_iff.2 unheld]

theorem State.route_of_not_relay (role : e.role ≠ .relay) : s.route e = s.resolve e.destination := by
  simp only [State.route, State.loops, role, decide_false, Bool.false_and, Bool.not_false]
  cases s.resolve e.destination <;> rfl

theorem State.route_of_no_hop (none_ : s.resolve e.destination = none) : s.route e = none := by
  simp [State.route, none_]

theorem State.route_of_relay (role : e.role = .relay) (hop : s.resolve e.destination = some i)
    (held : s.station i = some st) : s.route e = if e.receivedFrom = some st.call then none else some i := by
  have loops : s.loops e i = decide (e.receivedFrom = some st.call) := by simp [State.loops, role, held, eq_comm]
  rw [State.route, hop, Option.filter_some, loops]
  by_cases same : e.receivedFrom = some st.call <;> simp [same]

theorem State.collectionFor_of_station (held : s.station i = some st) : s.collectionFor (some i) = .queue st.channel := by
  simp [State.collectionFor, State.hopChannel, held]

end Sys2Proof.Machine
end

/-! # What a sweep leaves (R72, R73)

The collections through the two passes of a sweep: the members of each that keep their places, the order, and the STAGED
exchanges that it withdraws. -/

section
namespace Sys2Proof.Machine

/-! ## A collection after one entry is moved -/

section
variable {s t : State} {h : Handle}

theorem filter_insertInOrder {b : Handle → Handle → Bool} {p : Handle → Bool} (out : p h = false) (q : List Handle) :
    (insertInOrder b h q).filter p = q.filter p := by
  induction q with
  | nil => simp [insertInOrder, out]
  | cons x q ih =>
    rw [insertInOrder]
    split
    · rw [List.filter_cons_of_neg (by simp [out])]
    · rw [List.filter_cons, List.filter_cons, ih]

theorem State.Moved.comesBefore (moved : s.Moved t) (k : Collection) : comesBefore t k = comesBefore s k := by
  funext a b
  have same (x : Handle) : (t.entry x).precedence = (s.entry x).precedence ∧ (t.entry x).accession = (s.entry x).accession := by
    rw [← moved.entry x]
    exact ⟨rfl, rfl⟩
  exact comesBefore_congr (same a) (same b) k

/-- The collection of an entry's route (R68). -/
def State.homeOf (s : State) (h : Handle) : Collection := s.collectionFor (s.route (s.entry h))

/-- What routing moves about leaves every entry's route as it is. -/
theorem State.Moved.route_entry (moved : s.Moved t) (h : Handle) : t.route (t.entry h) = s.route (s.entry h) := by
  rw [moved.routesAlike.route, ← moved.entry h]
  rfl

theorem State.Moved.homeOf (moved : s.Moved t) : t.homeOf = s.homeOf := by
  funext h
  rw [State.homeOf, moved.route_entry, State.collectionFor_congr moved.routesAlike.stations, State.homeOf]

/-- The collections after a return to READY: the entry has joined its route's at its place. -/
theorem returnEntry_collection (s : State) (h : Handle) (o : LastOutcome) (k : Collection) :
    (s.returnEntry h o).collection k = if s.homeOf h = k
      then insertInOrder (comesBefore s k) h (s.collection k) else s.collection k := by
  have alike := State.RoutesAlike.updEntry s h fun e => { e with lastOutcome := o }
  have route : (s.updEntry h fun e => { e with lastOutcome := o }).route
      ((s.updEntry h fun e => { e with lastOutcome := o }).entry h) = s.route (s.entry h) := by
    rw [alike.route, State.entry_updEntry, if_pos rfl]
    rfl
  have order (q : Collection) : comesBefore ((s.updEntry h fun e => { e with lastOutcome := o }).updEntry h fun e =>
      { e with state := .ready, nextHop := s.route (s.entry h), notBefore := none, cancelPending := none }) q =
      comesBefore s q :=
    ((State.Moved.of_updEntry s h _ (by simp [Entry.SameMessage])).trans
      (.of_updEntry _ h _ (by simp [Entry.SameMessage]))).comesBefore q
  rw [State.returnEntry, State.place, State.homeOf]
  simp only [route, State.collection_join, State.collection_updEntry, order]
  rw [State.collectionFor_congr alike.stations]
  split
  · next home => rw [home]
  · rfl

/-- The collections after a READY entry is resolved afresh: as they were where its collection stays the same, else it has
left them and joined its route's at its place (R72). -/
theorem sweepEntry_collection (p : Collection × Handle) (s : State) (k : Collection) :
    (sweepEntry p s).collection k =
      if s.homeOf p.2 = p.1 then s.collection k
      else if s.homeOf p.2 = k
        then insertInOrder (comesBefore s k) p.2 (without p.2 (s.collection k)) else without p.2 (s.collection k) := by
  have order (q : Collection) : comesBefore ((s.updEntry p.2 fun e => { e with nextHop := s.route (s.entry p.2) }).leave p.2)
      q = comesBefore s q :=
    ((State.Moved.of_updEntry s p.2 _ (by simp [Entry.SameMessage])).trans (.leave _ _)).comesBefore q
  by_cases home : s.homeOf p.2 = p.1
  · rw [sweepEntry_of_home home, if_pos home, State.collection_updEntry]
  · rw [sweepEntry_of_away home, if_neg home, State.collection_join]
    simp only [order, State.collection_leave, State.collection_updEntry]
    change (if s.homeOf p.2 = k then _ else _) = _
    split
    · next here => rw [show s.collectionFor (s.route (s.entry p.2)) = k from here]
    · rfl

end

/-! ## The exchanges stand apart from the collections -/

section
variable {s t : State}

/-- Every engine that holds an entry holds it alone, out of every collection. -/
def State.HoldsApart (s : State) : Prop := ∀ c h, (s.chan c).engine.entry? = some h → s.HeldAlone c h

/-- A withdrawal on a test leaves the part alone, or withdraws a STAGED exchange. -/
theorem withdrawIf_cases (test : State → Entry → Bool) (c : Chan) (s : State) : withdrawIf test c s = s ∨
    ∃ h w x, (s.chan c).engine = .staged h w x ∧
      withdrawIf test c s = (idleEngine c s).returnEntry h .withdrawn := by
  unfold withdrawIf
  split
  · next h w x staged =>
    split
    · exact .inr ⟨h, w, x, staged, withdraw_of_staged staged⟩
    · exact .inl rfl
  · exact .inl rfl

theorem State.HoldsApart.sweepEntries (apart : s.HoldsApart) : (sweepEntries s).HoldsApart := fun c h held => by
  rw [sweepEntries_engine] at held
  have alone := apart c h held
  exact alone.of_keeps ⟨.sweepEntries alone.2.1, fun d held => sweepEntries_engine s d ▸ held⟩ (sweepEntries_engine s c)

theorem State.HoldsApart.withdrawIf (apart : s.HoldsApart) (test : State → Entry → Bool) (c : Chan) :
    (withdrawIf test c s).HoldsApart := fun d h held => by
  rcases withdrawIf_cases test c s with same | ⟨k, w, x, staged, withdrawn⟩
  · rw [same] at held ⊢
    exact apart d h held
  · by_cases here : d = c
    · rw [withdrawn, here, State.returnEntry_engine, idleEngine_chan, if_pos rfl] at held
      cases held
    · have engine := withdrawIf_engine_other (s := s) here test
      rw [engine] at held
      have alone := apart d h held
      exact alone.of_keeps (.withdrawIf (fun w x run => alone.2.2 c (Ne.symm here) (by rw [run]; rfl)) test) engine

end

/-! ## The entries that keep their places (R72) -/

section
variable {s t : State}

/-- A READY entry resolved afresh leaves the places of those found in a collection, but its own where its route is another's. -/
theorem sweepEntry_places {p : Collection × Handle} (moved : s.Moved t) (one : ∀ q, p.2 ∈ s.collection q ↔ q = p.1)
    (k : Collection) : ((sweepEntry p t).collection k).filter (fun x => x ∈ s.collection k) =
      ((t.collection k).filter fun x => x ∈ s.collection k).filter fun x => decide (x = p.2 → s.homeOf x = k) := by
  rw [sweepEntry_collection, moved.homeOf, List.filter_filter]
  by_cases here : p.1 = k
  · subst here
    split
    · next stays =>
      refine List.filter_congr fun x _ => ?_
      rw [decide_eq_true (p := x = p.2 → s.homeOf x = p.1) fun same => same ▸ stays, Bool.true_and]
    · next away =>
      rw [without, List.filter_filter]
      refine List.filter_congr fun x _ => ?_
      have : (x = p.2 → s.homeOf x = p.1) ↔ x ≠ p.2 :=
        ⟨fun home same => away (same ▸ home same), fun other same => absurd same other⟩
      simp [this, Bool.and_comm]
  · have out : p.2 ∉ s.collection k := fun mem => here ((one k).1 mem).symm
    have rest : ((t.collection k).filter fun x => decide (x = p.2 → s.homeOf x = k) && decide (x ∈ s.collection k)) =
        (t.collection k).filter fun x => x ∈ s.collection k := by
      refine List.filter_congr fun x _ => ?_
      by_cases mem : x ∈ s.collection k
      · have : x ≠ p.2 := fun same => out (same ▸ mem)
        simp [this]
      · simp [mem]
    have left : (without p.2 (t.collection k)).filter (fun x => decide (x ∈ s.collection k)) =
        (t.collection k).filter fun x => x ∈ s.collection k := by
      rw [without, List.filter_filter]
      refine List.filter_congr fun x _ => ?_
      by_cases mem : x ∈ s.collection k
      · have : x ≠ p.2 := fun same => out (same ▸ mem)
        simp [this, mem]
      · simp [mem]
    rw [rest]
    split
    · rfl
    · split
      · rw [filter_insertInOrder (by simp [out]), left]
      · exact left

/-- The sweep of the entries leaves those of a collection in place whose route is still its (R72). -/
theorem foldl_sweepEntry_places (k : Collection) (L : List (Collection × Handle)) : ∀ {t : State}, s.Moved t →
    (∀ p ∈ L, ∀ q, p.2 ∈ s.collection q ↔ q = p.1) →
    ((L.foldl (fun s p => sweepEntry p s) t).collection k).filter (fun x => x ∈ s.collection k) =
      ((t.collection k).filter fun x => x ∈ s.collection k).filter
        fun x => decide (∀ p ∈ L, x = p.2 → s.homeOf x = k) := by
  induction L with
  | nil => exact fun _ _ => by simp
  | cons p L ih =>
    intro t moved one
    rw [List.foldl_cons, ih (moved.trans (.sweepEntry p t)) fun x mem => one x (List.mem_cons_of_mem p mem),
      sweepEntry_places moved (one p List.mem_cons_self), List.filter_filter]
    simp only [List.forall_mem_cons, Bool.decide_and, Bool.and_comm]

theorem sweepEntries_places (one : ∀ h k, h ∈ s.collection k → ∀ q, h ∈ s.collection q → q = k) (k : Collection) :
    ((sweepEntries s).collection k).filter (fun x => x ∈ s.collection k) =
      (s.collection k).filter fun x => decide (s.homeOf x = k) := by
  have each (p) (mem : p ∈ s.waiting) (q : Collection) : p.2 ∈ s.collection q ↔ q = p.1 :=
    ⟨one _ _ (State.mem_waiting.1 mem) q, fun same => same ▸ State.mem_waiting.1 mem⟩
  rw [sweepEntries, foldl_sweepEntry_places k s.waiting (.refl s) each, List.filter_filter]
  refine List.filter_congr fun x mem => ?_
  have found : (k, x) ∈ s.waiting := State.mem_waiting.2 mem
  rw [decide_eq_true mem, Bool.and_true]
  exact decide_eq_decide.2 ⟨fun all => all _ found rfl, fun home _ _ _ => home⟩

/-- A withdrawal leaves the places of the entries that an exchange does not hold (R39). -/
theorem withdrawIf_places {S : List Handle} {c : Chan} (apart : ∀ h, (t.chan c).engine.entry? = some h → h ∉ S)
    (test : State → Entry → Bool) (k : Collection) :
    ((withdrawIf test c t).collection k).filter (fun x => x ∈ S) = (t.collection k).filter fun x => x ∈ S := by
  rcases withdrawIf_cases test c t with same | ⟨h, w, x, staged, withdrawn⟩
  · rw [same]
  · rw [withdrawn, returnEntry_collection, idleEngine_collection]
    have out : h ∉ S := apart h (by rw [staged]; rfl)
    split
    · rw [filter_insertInOrder (by simp [out])]
    · rfl

/-- The entries found in a collection whose route is still its keep their places through a sweep (R72, R73). -/
theorem sweep_places (one : ∀ h k, h ∈ s.collection k → ∀ q, h ∈ s.collection q → q = k) (apart : s.HoldsApart)
    (k : Collection) : ((sweep s).collection k).filter (fun x => x ∈ s.collection k) =
      (s.collection k).filter fun x => decide (s.homeOf x = k) := by
  refine (forChans_keeps (P := fun t => ((t.collection k).filter (fun x => x ∈ s.collection k) =
    (s.collection k).filter fun x => decide (s.homeOf x = k)) ∧
    ∀ d, (t.chan d).engine = (s.chan d).engine ∨ (t.chan d).engine = .idle) (fun c t before => ?_)
    ⟨sweepEntries_places one k, fun d => .inl (sweepEntries_engine s d)⟩).1
  obtain ⟨places, engine⟩ := before
  refine ⟨(withdrawIf_places (fun h held => ?_) _ k).trans places, fun d => ?_⟩
  · rcases engine c with same | idle
    · exact (apart c h (same ▸ held)).2.1 k
    · rw [idle] at held; cases held
  · rcases (State.Withdrawn.withdrawIf (strayed c) c t).engine d with same | idle
    · rw [same]; exact engine d
    · exact .inr idle

end

/-! ## The order of the collections (R69, R72) -/

section
variable {s t : State}

/-- The entries that wait or stand in an exchange are told apart by their accessions. -/
def State.AccessionsApart (s : State) : Prop :=
  ∀ a b, s.Waits a → s.Waits b → (s.entry a).accession = (s.entry b).accession → a = b

/-- A state that came about by moves has its collections in order, of entries that waited or stood in an exchange. -/
structure State.InOrder (s t : State) : Prop where
  moved : s.Moved t
  waits : ∀ h k, h ∈ t.collection k → s.Waits h
  sorted : ∀ k, (t.collection k).Pairwise fun a b => comesBefore s k a b = true

theorem State.InOrder.insert (apart : s.AccessionsApart) {h : Handle} {k : Collection} {q : List Handle}
    (waits : ∀ x ∈ q, s.Waits x) (sorted : q.Pairwise fun a b => comesBefore s k a b = true) (here : s.Waits h)
    (out : h ∉ q) : (insertInOrder (comesBefore s k) h q).Pairwise fun a b => comesBefore s k a b = true := by
  refine insertInOrder_pairwise (comesBefore_trans s k) (fun x mem => comesBefore_total k fun same => out ?_) sorted
  rwa [apart h x here (waits x mem) same]

theorem State.InOrder.sweepEntry (ordered : s.InOrder t) (apart : s.AccessionsApart) {p : Collection × Handle}
    (here : s.Waits p.2) : s.InOrder (sweepEntry p t) := by
  have left (k : Collection) : ∀ x ∈ without p.2 (t.collection k), s.Waits x := fun x mem =>
    ordered.waits x k (mem_without.1 mem).1
  refine ⟨ordered.moved.trans (.sweepEntry p t), fun h k mem => ?_, fun k => ?_⟩
  · rw [sweepEntry_collection] at mem
    split at mem
    · exact ordered.waits h k mem
    · split at mem
      · rcases mem_insertInOrder.1 mem with rfl | mem
        · exact here
        · exact left k h mem
      · exact left k h mem
  · have rest : (without p.2 (t.collection k)).Pairwise fun a b => comesBefore s k a b = true := (ordered.sorted k).filter _
    rw [sweepEntry_collection, ordered.moved.comesBefore]
    split
    · exact ordered.sorted k
    · split
      · exact State.InOrder.insert apart (left k) rest here fun mem => (mem_without.1 mem).2 rfl
      · exact rest

theorem State.InOrder.withdrawIf (ordered : s.InOrder t) (apart : s.AccessionsApart) (alone : t.HoldsApart) {c : Chan}
    (here : ∀ h, (t.chan c).engine.entry? = some h → s.Waits h) (test : State → Entry → Bool) :
    s.InOrder (withdrawIf test c t) := by
  rcases withdrawIf_cases test c t with same | ⟨h, w, x, staged, withdrawn⟩
  · rw [same]; exact ordered
  · have held : (t.chan c).engine.entry? = some h := by rw [staged]; rfl
    have out := (alone c h held).2.1
    refine ⟨ordered.moved.trans (.withdrawIf test c t), fun x k mem => ?_, fun k => ?_⟩
    · rw [withdrawn, returnEntry_collection, idleEngine_collection] at mem
      split at mem
      · rcases mem_insertInOrder.1 mem with rfl | mem
        · exact here _ held
        · exact ordered.waits x k mem
      · exact ordered.waits x k mem
    · rw [withdrawn, returnEntry_collection, idleEngine_collection,
        (ordered.moved.trans (.idleEngine c t)).comesBefore]
      split
      · exact State.InOrder.insert apart (ordered.waits · k) (ordered.sorted k) (here _ held) (out k)
      · exact ordered.sorted k

theorem State.InOrder.foldl (apart : s.AccessionsApart) (L : List (Collection × Handle)) : ∀ {t : State}, s.InOrder t →
    (∀ p ∈ L, s.Waits p.2) → s.InOrder (L.foldl (fun s p => Machine.sweepEntry p s) t) := by
  induction L with
  | nil => exact fun ordered _ => ordered
  | cons p L ih =>
    exact fun ordered all => ih (ordered.sweepEntry apart (all p List.mem_cons_self)) fun x mem =>
      all x (List.mem_cons_of_mem p mem)

/-- A sweep leaves every collection in its order (R72). -/
theorem State.InOrder.sweep (apart : s.AccessionsApart) (alone : s.HoldsApart)
    (sorted : ∀ k, (s.collection k).Pairwise fun a b => comesBefore s k a b = true) : s.InOrder (sweep s) := by
  have swept : s.InOrder (sweepEntries s) := .foldl apart s.waiting ⟨.refl s, fun h k mem => .inl ⟨k, mem⟩, sorted⟩
    fun p mem => .inl ⟨p.1, State.mem_waiting.1 mem⟩
  refine (forChans_keeps (P := fun t => s.InOrder t ∧ t.HoldsApart ∧
    ∀ d, (t.chan d).engine = (s.chan d).engine ∨ (t.chan d).engine = .idle) (fun c t before => ?_)
    ⟨swept, alone.sweepEntries, fun d => .inl (sweepEntries_engine s d)⟩).1
  obtain ⟨ordered, held, engine⟩ := before
  refine ⟨ordered.withdrawIf apart held (fun h run => ?_) _, held.withdrawIf _ c, fun d => ?_⟩
  · rcases engine c with same | idle
    · exact .inr ⟨c, same ▸ run⟩
    · rw [idle] at run; cases run
  · rcases (State.Withdrawn.withdrawIf (strayed c) c t).engine d with same | idle
    · rw [same]; exact engine d
    · exact .inr idle

end

/-! ## The STAGED exchanges (R73) -/

section
variable {s : State} {c : Chan} {h : Handle} {w x : Nat}

/-- A sweep brings a STAGED exchange to what its turn makes of it, and then leaves its entry where it is. -/
theorem sweep_staged {Q : State → Prop} (alone : s.HeldAlone c h) (staged : (s.chan c).engine = .staged h w x)
    (here : ∀ t, s.KeepsAt h t → s.Moved t → (t.chan c).engine = .staged h w x → Q (withdrawIf (strayed c) c t))
    (after : ∀ d t, d ≠ c → Q t → Q (withdrawIf (strayed d) d t)) : Q (sweep s) := by
  refine forChans_at (f := fun d => withdrawIf (strayed d) d)
    (P := fun t => s.KeepsAt h t ∧ s.Moved t ∧ (t.chan c).engine = .staged h w x) (Q := Q) c
    (fun d t other before => ?_) (fun t before => here t before.1 before.2.1 before.2.2) after
    ⟨⟨.sweepEntries alone.2.1, fun d held => sweepEntries_engine s d ▸ held⟩, .sweepEntries s,
      (sweepEntries_engine s c).trans staged⟩
  obtain ⟨keeps, moved, engine⟩ := before
  refine ⟨keeps.trans (.withdrawIf (fun w x run => alone.2.2 d other (keeps.engine d (by rw [run]; rfl))) _),
    moved.trans (.withdrawIf _ d t), ?_⟩
  rw [withdrawIf_engine_other (Ne.symm other), engine]

theorem strayed_iff {t : State} (moved : s.Moved t) :
    strayed c t (t.entry h) = true ↔ s.homeOf h ≠ .queue c := by
  rw [← moved.homeOf]
  simp [strayed, State.homeOf]

/-- A STAGED exchange whose entry still resolves to its channel is left alone (R73). -/
theorem sweep_keeps_staged (alone : s.HeldAlone c h) (staged : (s.chan c).engine = .staged h w x)
    (home : s.homeOf h = .queue c) : s.KeepsAt h (sweep s) ∧ ((sweep s).chan c).engine = .staged h w x := by
  refine sweep_staged (Q := fun t => s.KeepsAt h t ∧ (t.chan c).engine = .staged h w x) alone staged
    (fun t keeps moved engine => ?_) (fun d t other before => ?_)
  · rw [withdrawIf_of_staged engine, if_neg fun stray => (strayed_iff moved).1 stray home]
    exact ⟨keeps, engine⟩
  · obtain ⟨keeps, engine⟩ := before
    refine ⟨keeps.trans (.withdrawIf (fun w x run => alone.2.2 d other (keeps.engine d (by rw [run]; rfl))) _), ?_⟩
    rw [withdrawIf_engine_other (Ne.symm other), engine]

/-- A STAGED exchange whose entry resolves elsewhere is withdrawn (R39, R73). -/
theorem sweep_withdraws_staged (alone : s.HeldAlone c h) (staged : (s.chan c).engine = .staged h w x)
    (away : s.homeOf h ≠ .queue c) :
    ((sweep s).chan c).engine = .idle ∧ (sweep s).EndedHome h (s.entry h) .ready .withdrawn := by
  refine sweep_staged (Q := fun t => (t.chan c).engine = .idle ∧ t.EndedHome h (s.entry h) .ready .withdrawn) alone staged
    (fun t keeps moved engine => ?_) (fun d t other before => ?_)
  · rw [withdrawIf_of_staged engine, if_pos ((strayed_iff moved).2 away), withdraw_engine, if_pos rfl, engine,
      ← keeps.same.1]
    exact ⟨rfl, withdraw_ended engine (alone.of_keeps keeps (engine.trans staged.symm))⟩
  · obtain ⟨idle, ended⟩ := before
    refine ⟨?_, ended.keeps (.withdrawIf (fun w x run => (ended.2 rfl).2.free d (by rw [run]; rfl)) _)
      (State.Moved.withdrawIf _ d t).routesAlike⟩
    rw [withdrawIf_engine_other (Ne.symm other), idle]

end

end Sys2Proof.Machine
end

/-! # Where every entry stands after a sweep (R68, R71 to R73, R142)

`State.Seated` says that the READY entries stand in one collection each and those of the exchanges in none. A sweep brings a
state that is seated in order to one that is seated and routed, and considerations and arbiters keep it so. -/

section
namespace Sys2Proof.Machine

/-- The collections hold the READY entries, each once, and every engine's entry is another, held by it alone (R68, R140). -/
structure State.Seated (s : State) : Prop where
  waits : ∀ {h k}, h ∈ s.collection k → (s.entry h).state = .ready
  one : ∀ {h k q}, h ∈ s.collection k → h ∈ s.collection q → q = k
  stands : ∀ {h}, (s.entry h).state = .ready → ∃ k, h ∈ s.collection k
  nodup : ∀ k, (s.collection k).Nodup
  holds : ∀ {c h}, (s.chan c).engine.entry? = some h → (s.entry h).state ≠ .ready
  oneEngine : ∀ {c d h}, (s.chan c).engine.entry? = some h → (s.chan d).engine.entry? = some h → c = d

/-- Seated, each collection in its order, by accessions that tell its entries apart (R12, R69). -/
structure State.Ordered (s : State) : Prop extends s.Seated where
  sorted : ∀ k, (s.collection k).Pairwise fun a b => comesBefore s k a b = true
  accessions : s.AccessionsApart

/-- Seated, and as a sweep leaves it (R72, R73). -/
structure State.Homed (s : State) : Prop extends s.Seated where
  routed : s.Routed

section
variable {s t : State} {c : Chan} {h : Handle}

/-! ## Seated parts -/

namespace State.Seated

theorem heldAlone (seated : s.Seated) (held : (s.chan c).engine.entry? = some h) : s.HeldAlone c h :=
  ⟨held, fun _ mem => seated.holds held (seated.waits mem), fun _ other held' => other (seated.oneEngine held' held)⟩

theorem standsIn (seated : s.Seated) (ready : (s.entry h).state = .ready) : ∃ k, s.StandsIn h k := by
  obtain ⟨k, mem⟩ := seated.stands ready
  exact ⟨k, fun q => ⟨seated.one mem, fun same => same ▸ mem⟩, fun c held => seated.holds held ready⟩

theorem apart (seated : s.Seated) (notReady : (s.entry h).state ≠ .ready) (q : Collection) : h ∉ s.collection q :=
  fun mem => notReady (seated.waits mem)

/-- What leaves the entries and the collections alone, and idles engines at most, leaves a part seated. -/
theorem congr (seated : s.Seated) (entry : ∀ h, t.entry h = s.entry h) (collection : ∀ k, t.collection k = s.collection k)
    (engine : ∀ c, (t.chan c).engine = (s.chan c).engine ∨ (t.chan c).engine = .idle) : t.Seated := by
  have held {c : Chan} {h : Handle} (held : (t.chan c).engine.entry? = some h) : (s.chan c).engine.entry? = some h := by
    rcases engine c with same | idle
    · rwa [same] at held
    · rw [idle] at held; cases held
  constructor
  case waits =>
    intro h k mem
    rw [collection] at mem
    rw [entry]
    exact seated.waits mem
  case one =>
    intro h k q mem mem'
    rw [collection] at mem mem'
    exact seated.one mem mem'
  case stands =>
    intro h ready
    rw [entry] at ready
    simpa only [collection] using seated.stands ready
  case nodup => exact fun k => collection k ▸ seated.nodup k
  case holds => exact fun run => entry _ ▸ seated.holds (held run)
  case oneEngine => exact fun run run' => seated.oneEngine (held run) (held run')

end State.Seated

theorem State.Ordered.congr (ordered : s.Ordered) (entry : ∀ h, t.entry h = s.entry h)
    (collection : ∀ k, t.collection k = s.collection k)
    (engine : ∀ c, (t.chan c).engine = (s.chan c).engine ∨ (t.chan c).engine = .idle) : t.Ordered where
  toSeated := ordered.toSeated.congr entry collection engine
  sorted k := by
    rw [collection]
    refine (ordered.sorted k).imp fun before => ?_
    rwa [comesBefore_congr (s := s) (by rw [entry]; exact ⟨rfl, rfl⟩) (by rw [entry]; exact ⟨rfl, rfl⟩) k]
  accessions := by
    have waits {h : Handle} (there : t.Waits h) : s.Waits h := by
      refine there.imp (fun ⟨k, mem⟩ => ⟨k, collection k ▸ mem⟩) fun ⟨c, held⟩ => ⟨c, ?_⟩
      rcases engine c with same | idle
      · rwa [same] at held
      · rw [idle] at held; cases held
    intro a b wa wb same
    rw [entry, entry] at same
    exact ordered.accessions a b (waits wa) (waits wb) same

/-- The Traffic Table with no entry loose is seated in order. -/
theorem State.Filed.ordered {routed addressed : Bool} (kept : s.Filed [] routed addressed) : s.Ordered where
  waits mem := (kept.queued.waits mem).2
  one mem mem' := (kept.queued.one mem mem').symm
  stands ready := kept.queued.stands List.not_mem_nil ready
  nodup := kept.queued.nodup
  holds held ready := nomatch (kept.exchanging.holds held).2.symm.trans ready
  oneEngine := kept.exchanging.oneEngine
  sorted := kept.queued.ordered
  accessions a b wa wb := by
    have used {h : Handle} (waits : s.Waits h) : (s.entry h).state ≠ .free := by
      rcases waits with ⟨k, mem⟩ | ⟨c, held⟩
      · rw [(kept.queued.waits mem).2]; nofun
      · rw [(kept.exchanging.holds held).2]; nofun
    exact kept.tabled.accessions a b (used wa) (used wb)

/-! ## A sweep (R72, R73) -/

/-- An entry that has left its exchange for READY stands in its route's collection (R27). -/
theorem State.EndedHome.back {o : LastOutcome} (ended : t.EndedHome h (s.entry h) .ready o) (alike : s.RoutesAlike t) :
    (t.entry h).state = .ready ∧ (t.entry h).nextHop = s.route (s.entry h) ∧ t.StandsIn h (s.homeOf h) := by
  obtain ⟨entry, stands⟩ := ended.2 rfl
  rw [alike.route, State.collectionFor_congr alike.stations] at stands
  rw [entry, alike.route]
  exact ⟨rfl, rfl, stands⟩

/-- A sweep leaves an engine as it is, or idles it. -/
theorem sweep_engine_cases (s : State) (c : Chan) :
    ((sweep s).chan c).engine = (s.chan c).engine ∨ ((sweep s).chan c).engine = .idle := by
  have withdrawn := (State.Withdrawn.forChans (fun c t => .withdrawIf (strayed c) c t) (sweepEntries s)).engine c
  rwa [sweepEntries_engine] at withdrawn

/-- What a sweep makes of each entry: READY with its route, in that route's collection, or left as it was, where it then waits
in no collection and resolves to the channel of a STAGED exchange that holds it. -/
theorem State.Seated.sweep_at (seated : s.Seated) (h : Handle) :
    ((sweep s).entry h).state = .ready ∧ ((sweep s).entry h).nextHop = s.route (s.entry h) ∧
        (sweep s).StandsIn h (s.homeOf h) ∨
      s.KeepsAt h (sweep s) ∧ (s.entry h).state ≠ .ready ∧
        ∀ c w x, ((sweep s).chan c).engine = .staged h w x → s.homeOf h = .queue c := by
  by_cases ready : (s.entry h).state = .ready
  · obtain ⟨k, stands⟩ := seated.standsIn ready
    obtain ⟨swept, home⟩ := stands.sweep
    rw [swept.1]
    exact .inl ⟨ready, rfl, home⟩
  · have apart := seated.apart ready
    by_cases held : ∃ c w x, (s.chan c).engine = .staged h w x
    · obtain ⟨c, w, x, staged⟩ := held
      have alone := seated.heldAlone (c := c) (h := h) (by rw [staged]; rfl)
      by_cases home : s.homeOf h = .queue c
      · obtain ⟨keeps, engine⟩ := sweep_keeps_staged alone staged home
        refine .inr ⟨keeps, ready, fun d w' x' run => ?_⟩
        have before : (s.chan d).engine.entry? = some h := keeps.engine d (by rw [run]; rfl)
        have here : d = c := seated.oneEngine before alone.1
        rw [here, home]
      · have ended := (sweep_withdraws_staged alone staged home).2
        exact .inl (ended.back (State.Moved.sweep s).routesAlike)
    · have free : ∀ c w x, (s.chan c).engine ≠ .staged h w x := fun c w x run => held ⟨c, w, x, run⟩
      have keeps := State.KeepsAt.sweep apart free
      refine .inr ⟨keeps, ready, fun c w x run => ?_⟩
      rcases sweep_engine_cases s c with same | idle
      · exact absurd (same ▸ run) (free c w x)
      · rw [idle] at run; cases run

/-- A sweep of a part seated in order leaves it seated and routed (R72, R73). -/
theorem State.Ordered.sweep (ordered : s.Ordered) : (sweep s).Homed := by
  have moved := State.Moved.sweep s
  have inOrder := State.InOrder.sweep ordered.accessions (fun c h held => ordered.heldAlone held) ordered.sorted
  have here {h : Handle} (ready : ((Machine.sweep s).entry h).state = .ready) :
      ((Machine.sweep s).entry h).nextHop = s.route (s.entry h) ∧ (Machine.sweep s).StandsIn h (s.homeOf h) := by
    rcases ordered.sweep_at h with ⟨-, hop, stands⟩ | ⟨keeps, notReady, -⟩
    · exact ⟨hop, stands⟩
    · rw [keeps.same.1] at ready; exact absurd ready notReady
  have waits {h : Handle} {k : Collection} (mem : h ∈ (Machine.sweep s).collection k) :
      ((Machine.sweep s).entry h).state = .ready := by
    rcases ordered.sweep_at h with ⟨ready, -, -⟩ | ⟨keeps, notReady, -⟩
    · exact ready
    · exact absurd ((keeps.same.2 k).1 mem) (ordered.apart notReady k)
  have held {c : Chan} {h : Handle} (run : ((Machine.sweep s).chan c).engine.entry? = some h) :
      (s.chan c).engine.entry? = some h := by
    rcases sweep_engine_cases s c with same | idle
    · exact (congrArg Engine.entry? same).symm.trans run
    · exact nomatch (congrArg Engine.entry? idle).symm.trans run
  refine ⟨⟨waits, fun {h k q} mem mem' => ?_, fun ready => ⟨_, ((here ready).2.mem _).2 rfl⟩, fun k => ?_,
    fun run ready => (here ready).2.free _ run, fun run run' => ordered.oneEngine (held run) (held run')⟩,
    fun h ready => ?_, fun c h w x staged => ?_⟩
  · have stands := (here (waits mem)).2
    rw [(stands.mem q).1 mem', (stands.mem k).1 mem]
  · refine (inOrder.sorted k).imp fun before same => ?_
    rw [same, comesBefore_irrefl] at before
    exact nomatch before
  · rw [moved.route_entry, State.collectionFor_congr moved.routesAlike.stations]
    exact ⟨(here ready).1, ((here ready).2.mem _).2 rfl⟩
  · rw [moved.route_entry, State.collectionFor_congr moved.routesAlike.stations]
    rcases ordered.sweep_at h with ⟨-, -, stands⟩ | ⟨-, -, home⟩
    · exact absurd (by rw [staged]; rfl) (stands.free c)
    · exact home c w x staged

/-! ## What follows a sweep (R142) -/

namespace State.Homed

/-- What leaves the entries, the collections, the exchanges and the routes alone leaves a part seated and routed. -/
theorem congr (homed : s.Homed) (alike : s.RoutesAlike t) (entry : ∀ h, t.entry h = s.entry h)
    (collection : ∀ k, t.collection k = s.collection k) (engine : ∀ c, (t.chan c).engine = (s.chan c).engine) :
    t.Homed where
  toSeated := homed.toSeated.congr entry collection fun c => .inl (engine c)
  routed := by
    obtain ⟨ready, staged⟩ := homed.routed
    simp only [State.Routed, entry, collection, engine, alike.route, State.collectionFor_congr alike.stations]
    exact ⟨ready, staged⟩

/-- What takes one READY entry out of its collection, for its route's engine at most, leaves the others seated and routed. -/
theorem without (homed : s.Homed) (moved : s.Moved t) (ready : (s.entry h).state = .ready)
    (away : (t.entry h).state ≠ .ready) (others : ∀ k, k ≠ h → t.entry k = s.entry k)
    (mem : ∀ k q, k ∈ t.collection q ↔ k ∈ s.collection q ∧ k ≠ h) (nodup : ∀ q, (t.collection q).Nodup)
    (engine : ∀ d, (t.chan d).engine = (s.chan d).engine ∨ d = c ∧ (t.chan d).engine.entry? = some h ∧
      s.homeOf h = .queue d) : t.Homed := by
  have unheld {d : Chan} : (s.chan d).engine.entry? ≠ some h := fun held => homed.holds held ready
  have held {d : Chan} {k : Handle} (run : (t.chan d).engine.entry? = some k) :
      (k ≠ h ∧ (s.chan d).engine.entry? = some k) ∨ (k = h ∧ d = c) := by
    rcases engine d with same | ⟨here, takes, -⟩
    · rw [same] at run
      exact .inl ⟨fun eq => unheld (eq ▸ run), run⟩
    · rw [takes] at run
      exact .inr ⟨(Option.some.inj run).symm, here⟩
  have other {k : Handle} (there : (t.entry k).state = .ready) : k ≠ h := fun same => away (same ▸ there)
  have home (k : Handle) : t.collectionFor (t.route (t.entry k)) = s.homeOf k := congrFun moved.homeOf k
  constructor
  case toSeated =>
    constructor
    case waits =>
      intro k q here
      obtain ⟨there, ne⟩ := (mem k q).1 here
      rw [others k ne]
      exact homed.waits there
    case one => exact fun m m' => homed.one ((mem _ _).1 m).1 ((mem _ _).1 m').1
    case stands =>
      intro k there
      have ne := other there
      rw [others k ne] at there
      obtain ⟨q, m⟩ := homed.stands there
      exact ⟨q, (mem k q).2 ⟨m, ne⟩⟩
    case nodup => exact nodup
    case holds =>
      intro d k run
      rcases held run with ⟨ne, run⟩ | ⟨same, -⟩
      · rw [others k ne]; exact homed.holds run
      · rw [same]; exact away
    case oneEngine =>
      intro d e k run run'
      rcases held run with ⟨ne, run⟩ | ⟨same, here⟩
      · exact homed.oneEngine run ((held run').resolve_right fun there => ne there.1).2
      · exact here.trans ((held run').resolve_left fun there => there.1 same).2.symm
  case routed =>
    obtain ⟨atHome, staged⟩ := homed.routed
    refine ⟨fun k there => ?_, fun d k w x run => ?_⟩
    · have ne := other there
      have hop : t.route (t.entry k) = s.route (s.entry k) := by rw [moved.routesAlike.route, others k ne]
      rw [home, others k ne] at *
      obtain ⟨nextHop, m⟩ := atHome k there
      exact ⟨nextHop.trans hop.symm, (mem k _).2 ⟨m, ne⟩⟩
    · rw [home]
      rcases engine d with same | ⟨-, takes, homeHere⟩
      · exact staged d k w x (same ▸ run)
      · rw [run] at takes
        rw [← Option.some.inj takes.symm]
        exact homeHere

theorem failOversize (homed : s.Homed) (ready : (s.entry h).state = .ready) : (failOversize h s).Homed :=
  homed.without (c := 0) (.failOversize h s) ready (by rw [failOversize_same]; exact nofun)
    (fun _ other => failOversize_other other) (fun _ _ => mem_failOversize)
    (fun q => by
      rw [Machine.failOversize, State.closeEntry, State.collection_updEntry, State.collection_leave]
      exact (homed.nodup q).filter _)
    fun d => .inl (failOversize_engine h d s)

/-- An entry of a queue has a route to that queue's channel. -/
theorem homeOf_queue (homed : s.Homed) (mem : h ∈ (s.chan c).queue) : s.homeOf h = .queue c := by
  have ready := homed.waits (k := .queue c) mem
  exact homed.one (k := .queue c) mem (homed.routed.1 h ready).2

theorem engage_collection (c : Chan) (h : Handle) (s : State) (q : Collection) :
    (Machine.engage c h s).collection q = (s.leave h).collection q := by
  cases q with
  | unrouted => rfl
  | queue d =>
    rw [State.collection, Machine.engage, State.chan_updChan]
    split
    · next here => subst here; rfl
    · rfl

theorem engage (homed : s.Homed) (enabled : (s.chan c).enabled = true) (mem : h ∈ (s.chan c).queue) :
    (engage c h s).Homed := by
  have ready := homed.waits (k := .queue c) mem
  refine homed.without (c := c) (.engage c h s enabled) ready (by rw [engage_entry]; exact nofun)
    (fun _ other => (State.Only.engage c h s _ other).1) (fun _ _ => mem_engage) (fun q => ?_) fun d => ?_
  · rw [engage_collection, State.collection_leave]
    exact (homed.nodup q).filter _
  · by_cases here : d = c
    · subst here
      exact .inr ⟨rfl, by rw [engage_engine]; rfl, homed.homeOf_queue mem⟩
    · exact .inl (engage_engine_other here h)

theorem walk (c : Chan) (q : List Handle) : ∀ {s : State}, s.Homed → (s.chan c).enabled = true → q.Nodup →
    (∀ h ∈ q, h ∈ (s.chan c).queue) → (walk c q s).Homed := by
  induction q with
  | nil => exact fun homed _ _ _ => homed
  | cons h q ih =>
    intro s homed enabled nodup mem
    obtain ⟨notIn, nodup⟩ := List.nodup_cons.1 nodup
    have rest : ∀ x ∈ q, x ∈ (s.chan c).queue := fun x m => mem x (List.mem_cons_of_mem h m)
    have here := mem h List.mem_cons_self
    rw [Machine.walk]
    split
    · exact ih homed enabled nodup rest
    · split
      · have failed := homed.failOversize (homed.waits (k := .queue c) here)
        have line := (State.Moved.failOversize h s).routesAlike.gates c
        refine ih failed (line.1.trans enabled) nodup fun x m => ?_
        exact (mem_failOversize (q := .queue c)).2 ⟨rest x m, fun same => notIn (same ▸ m)⟩
      · split
        · exact homed.engage enabled here
        · exact ih homed enabled nodup rest

theorem consider (homed : s.Homed) (c : Chan) : (consider c s).Homed := by
  unfold Machine.consider
  split
  · next considers =>
    rw [Channel.considers_iff] at considers
    exact homed.walk c _ considers.2.1 (homed.nodup (.queue c)) fun _ mem => mem
  · exact homed

theorem considerAll (homed : s.Homed) : (considerAll s).Homed :=
  forChans_keeps (P := State.Homed) (fun c _ homed => homed.consider c) homed

/-- What leaves a channel's collections, exchange, gate marks alone leaves a part seated and routed. -/
theorem updChan (homed : s.Homed) (c : Chan) {f : Channel → Channel}
    (exchange : (f (s.chan c)).queue = (s.chan c).queue ∧ (f (s.chan c)).engine = (s.chan c).engine)
    (gates : (f (s.chan c)).enabled = (s.chan c).enabled ∧ (f (s.chan c)).jammed = (s.chan c).jammed) :
    (s.updChan c f).Homed := by
  have chan (d : Chan) : (s.updChan c f).chan d = if c = d then f (s.chan c) else s.chan d := State.chan_updChan ..
  refine homed.congr ⟨rfl, rfl, fun d => ?_⟩ (fun _ => rfl) (fun k => ?_) fun d => ?_
  · rw [chan]
    split
    · next here => exact here ▸ gates
    · exact ⟨rfl, rfl⟩
  · cases k with
    | unrouted => rfl
    | queue d =>
      simp only [State.collection, chan]
      split
      · next here => exact here ▸ exchange.1
      · rfl
  · rw [chan]
    split
    · next here => exact here ▸ exchange.2
    · rfl

theorem arbitrateAll (homed : s.Homed) : (arbitrateAll s).Homed := by
  refine forChans_keeps (P := State.Homed) (fun c t homed => ?_) homed
  have line := Channel.arbitrated_sameLine (t.chan c)
  exact homed.updChan c (Channel.arbitrated_exchange _) ⟨line.enabled, line.jammed⟩

theorem conclude (homed : s.Homed) : (conclude s).Homed := homed.considerAll.arbitrateAll

theorem answer (homed : s.Homed) (r : Result) (d : List Byte) : (s.answer r d).Homed :=
  homed.congr ⟨rfl, rfl, fun _ => ⟨rfl, rfl⟩⟩ (fun _ => rfl) (fun k => by cases k <;> rfl) fun _ => rfl

theorem endPause (homed : s.Homed) (was : Chan → Bool) (c : Chan) : (endPause was c s).Homed := by
  unfold Machine.endPause
  split
  · exact (homed.updChan c ⟨rfl, rfl⟩ ⟨rfl, rfl⟩).consider c
  · exact homed

theorem takeRequest {effect : State → State} (homed : (effect s).Homed) : (takeRequest effect s).Homed :=
  State.Homed.arbitrateAll (forChans_keeps (P := State.Homed) (fun c _ homed => homed.endPause _ c) homed)

end State.Homed

end

end Sys2Proof.Machine
end

/-! # The commands that bring a sweep (R71)

Each of them ends with a sweep of a part that is seated in order, and with considerations and arbiters after it. Where JAMMED
ends with what the sampler hands over or with a gap limit, the mark stands until the gate that ends it and so brings the sweep. -/

section
namespace Sys2Proof.Machine

section
variable {s t : State} {c : Chan}

/-! ## The mark of JAMMED through a reception (R103) -/

/-- Two states with the same JAMMED marks. -/
def State.SameMarks (s t : State) : Prop := ∀ c, (t.chan c).jammed = (s.chan c).jammed

namespace State.SameMarks

theorem refl (s : State) : s.SameMarks s := fun _ => rfl

theorem trans {u : State} (a : s.SameMarks t) (b : t.SameMarks u) : s.SameMarks u := fun c => (b c).trans (a c)

theorem of_faces (faces : s.SameFaces t) : s.SameMarks t := fun c => (faces c).2

theorem of_tested (tested : s.Tested t) : s.SameMarks t := .of_faces (.of_tested tested)

theorem of_chan (same : t.channels = s.channels) : s.SameMarks t := fun c => by rw [State.chan, same, State.chan]

theorem updChan (s : State) (c : Chan) {f : Channel → Channel} (same : (f (s.chan c)).jammed = (s.chan c).jammed) :
    s.SameMarks (s.updChan c f) := fun d => by
  rw [State.chan_updChan]
  split
  · next here => exact here ▸ same
  · rfl

theorem setReceiver (r : Receiver) (c : Chan) (s : State) : s.SameMarks (setReceiver r c s) := .updChan s c rfl

theorem damage (c : Chan) (s : State) : s.SameMarks (damage c s) := fun d =>
  (congrArg Channel.jammed (damage_chan c d s) :).trans (setReceiver .hunt c s d)

theorem restartFrame (c : Chan) (s : State) : s.SameMarks (restartFrame c s) := (damage c s).trans (setReceiver _ c _)

theorem arrive (h : Handle) (c : Chan) (sender : Call) (key : Key) (s : State) : s.SameMarks (arrive h c sender key s) := by
  have queued (w : Verdict) (u : State) : u.SameMarks (Machine.queueReceipt sender key w c u) :=
    of_faces (.queueReceipt sender key w c u)
  unfold Machine.arrive
  split
  · split
    · exact (of_faces (.of_moved (.place s h))).trans (queued _ _)
    · exact (of_tested (s := freeEntry h s) (releaseEntry_tested h s)).trans (queued _ _)
  · exact (of_chan (t := arriveLocal h s) rfl).trans (queued _ _)

theorem completeFrame (c : Chan) (s : State) : s.SameMarks (completeFrame c s) := by
  unfold Machine.completeFrame
  dsimp only
  split
  · exact damage c s
  · next x _ =>
    have refreshed : s.SameMarks (refreshSender x.fromCall s) := of_faces (.refreshSender _ s)
    refine SameMarks.trans ?_ (setReceiver _ c _)
    split
    · refine refreshed.trans ?_
      unfold applyFrame
      split
      · unfold applyTraffic
        split
        · exact arrive _ _ _ _ _
        · exact of_faces (.queueReceipt _ _ _ _ _)
        · exact refl _
      · exact of_faces (.applyReceipt _ _ _ _)
      · exact of_faces (.applyHold _ _ _ _ _ _)
      · exact refl _
    · exact refreshed

theorem decideTraffic (c : Chan) (r : Receiver) (p : Fin 8) (key : Key) (d : Call) (n : Nat) (sender : Call) (s : State) :
    s.SameMarks (decideTraffic c r p key d n sender s) := by
  unfold Machine.decideTraffic
  dsimp only
  split
  · exact setReceiver _ c s
  split
  · exact setReceiver _ c s
  split
  · exact setReceiver _ c s
  split
  · exact setReceiver _ c s
  · next k s1 a =>
    exact ((of_chan (congrArg State.channels (allocate_kept a) :)).trans (setReceiver _ c s1)).trans
      (of_tested (.testCongestion _))

theorem collectHeader (c : Chan) (b : Byte) (s : State) : s.SameMarks (collectHeader c b s) := by
  unfold Machine.collectHeader
  dsimp only
  split
  · exact damage c s
  · split
    · unfold completeHeader
      split
      · exact damage c s
      · split
        · exact decideTraffic _ _ _ _ _ _ _ s
        · exact setReceiver _ c s
      · exact setReceiver _ c s
    · exact setReceiver _ c s

theorem collectBody (c : Chan) (b : Byte) (s : State) : s.SameMarks (collectBody c b s) := by
  unfold Machine.collectBody
  dsimp only
  split
  · refine SameMarks.trans (of_chan ?_) (setReceiver _ c _)
    unfold writeBody
    split <;> rfl
  · exact damage c s

theorem collectTail (c : Chan) (b : Byte) (s : State) : s.SameMarks (collectTail c b s) := by
  unfold Machine.collectTail
  dsimp only
  split
  · split
    · exact setReceiver _ c s
    · exact damage c s
  · split
    · exact completeFrame c s
    · exact damage c s

/-- What the frame receiver makes of a character leaves JAMMED alone. -/
theorem receiveCharacter (c : Chan) (b : Byte) (s : State) : s.SameMarks (receiveCharacter c b s) := by
  unfold Machine.receiveCharacter
  split
  · split
    · exact setReceiver _ c s
    · exact refl s
  · split
    · exact restartFrame c s
    · exact collectHeader c b s
  · split
    · exact restartFrame c s
    · exact collectBody c b s
  · split
    · exact restartFrame c s
    · exact collectTail c b s

end State.SameMarks

/-! ## What reads the collections alone -/

theorem State.Ordered.of_rest (ordered : s.Ordered) (entries : t.entries = s.entries) (unrouted : t.unrouted = s.unrouted)
    (channels : t.channels = s.channels) : t.Ordered := by
  have chan (c : Chan) : t.chan c = s.chan c := by rw [State.chan, channels, State.chan]
  refine ordered.congr (fun h => by rw [State.entry, entries, State.entry]) (fun k => ?_) fun c => .inl (by rw [chan])
  cases k with
  | unrouted => exact unrouted
  | queue c => rw [State.collection, chan, State.collection]

theorem State.Ordered.of_tested (ordered : s.Ordered) (tested : s.Tested t) : t.Ordered := by
  refine ordered.congr (fun h => by rw [← tested.rest]; rfl) (fun k => ?_) fun c => .inl (tested.chan c).engine
  cases k with
  | unrouted => rw [← tested.rest]; rfl
  | queue c => exact (tested.chan c).queue

/-- A channel's record written, its queue kept and its engine kept or idled, leaves a part seated in order. -/
theorem State.Ordered.updChan (ordered : s.Ordered) (c : Chan) {f : Channel → Channel}
    (queue : (f (s.chan c)).queue = (s.chan c).queue)
    (engine : (f (s.chan c)).engine = (s.chan c).engine ∨ (f (s.chan c)).engine = .idle) : (s.updChan c f).Ordered := by
  refine ordered.congr (fun _ => rfl) (fun k => ?_) fun d => ?_
  · cases k with
    | unrouted => rfl
    | queue d =>
      rw [State.collection, State.chan_updChan]
      split
      · next here => exact here ▸ queue
      · rfl
  · rw [State.chan_updChan]
    split
    · next here => exact here ▸ engine
    · exact .inl rfl

/-! ## The gate (R101 to R103) -/

/-- A gate that ends JAMMED sweeps. -/
theorem State.Ordered.gate (ordered : s.Ordered) (jammed : (s.chan c).jammed = true)
    (ended : ((gate c s).chan c).jammed = false) : (gate c s).Homed := by
  unfold Machine.gate at ended ⊢
  dsimp only at ended ⊢
  split at ended
  · exact nomatch jammed.symm.trans ended
  · next changes =>
    rw [if_neg changes]
    split at ended
    · rw [State.chan_updChan_same] at ended
      exact nomatch jammed.symm.trans ended
    · next ends =>
      rw [if_neg ends, if_pos jammed]
      exact (ordered.updChan c rfl (.inl rfl)).sweep

/-- A gate with no JAMMED to end leaves a part seated and routed. -/
theorem State.Homed.gate (homed : s.Homed) (free : (s.chan c).jammed = false) : (gate c s).Homed := by
  unfold Machine.gate
  dsimp only
  split
  · exact homed
  split
  · exact homed.updChan c ⟨rfl, rfl⟩ ⟨rfl, rfl⟩
  · rw [if_neg (by rw [free]; nofun)]
    exact homed.updChan c ⟨rfl, rfl⟩ ⟨rfl, free.symm⟩

theorem conclude_jammed (c : Chan) (s : State) : ((conclude s).chan c).jammed = (s.chan c).jammed :=
  ((State.Turned.conclude s).chan c).jammed

/-- An event of the line that ends with the gate leaves a part seated and routed where no mark of JAMMED stands after it. -/
theorem State.Ordered.concludeLine (ordered : s.Ordered) (free : (s.chan c).jammed = false → s.Homed)
    (ended : ((concludeLine c s).chan c).jammed = false) : (concludeLine c s).Homed := by
  unfold Machine.concludeLine at ended ⊢
  rw [conclude_jammed] at ended
  cases jammed : (s.chan c).jammed with
  | true => exact (ordered.gate jammed ended).conclude
  | false => exact ((free jammed).gate jammed).conclude

/-! ## What waits on the line -/

/-- The mark of JAMMED stands, or the gate of a gap limit has ended it: the part is swept, and the receiver in HUNT. -/
structure State.Settled (c : Chan) (s : State) : Prop where
  filed : s.Filed [] true true
  free : (s.chan c).jammed = false → s.Homed ∧ (s.chan c).receiver.phase = .hunt

/-- With the mark or the threshold reached, JAMMED once taken stands. -/
theorem takeJam_jammed (marked : (s.chan c).jammed = true ∨ (s.chan c).jamReached = true) :
    ((takeJam c s).chan c).jammed = true := by
  rw [(takeJam_chan c s).jammed, Channel.jamTaken_jammed, Bool.or_eq_true]
  exact marked

/-- A gap limit that has passed damages the frame, and the end of busy ends JAMMED (R103, R125). -/
theorem State.Filed.expiresGap (kept : s.Filed [] true true)
    (marked : (s.chan c).jammed = true ∨ (s.chan c).jamReached = true)
    (ended : ((Machine.concludeLine c (Machine.damage c (Machine.takeJam c s))).chan c).jammed = false) :
    (Machine.concludeLine c (Machine.damage c (Machine.takeJam c s))).Homed := by
  have jammed := (State.SameMarks.damage c (Machine.takeJam c s) c).trans (takeJam_jammed marked)
  exact ((kept.takeJam c).damage c).ordered.concludeLine (fun free => nomatch jammed.symm.trans free) ended

theorem State.Filed.settlesGap (kept : s.Filed [] true true) (jammed : (s.chan c).jammed = true) :
    (Machine.takeGap c s).Settled c where
  filed := kept.takeGap c
  free := by
    intro ended
    by_cases gap : (s.chan c).gapOver = true
    · refine ⟨?_, by rw [takeGap_receiver gap]; rfl⟩
      rw [takeGap_of_over gap] at ended ⊢
      exact kept.expiresGap (.inl jammed) ended
    · rw [show Machine.takeGap c s = s from if_neg gap, jammed] at ended
      exact nomatch ended

/-- The line of a channel settled before a handover of its sampler, and the sampler then moved (R96, R97). -/
theorem State.Filed.settlesLine (kept : s.Filed [] true true)
    (marked : (s.chan c).jammed = true ∨ (s.chan c).jamReached = true) (p : Sampler) :
    (Machine.setSampler p c (Machine.settleLine c s)).Settled c := by
  have settled : (Machine.settleLine c s).Settled c := (kept.takeJam c).settlesGap (takeJam_jammed marked)
  refine ⟨settled.filed.setSampler p c, fun free => ?_⟩
  have before : ((Machine.settleLine c s).chan c).jammed = false :=
    (SameMarks.updChan (Machine.settleLine c s) c (f := fun x => { x with sampler := p }) rfl c).symm.trans free
  obtain ⟨homed, hunt⟩ := settled.free before
  refine ⟨homed.updChan c ⟨rfl, rfl⟩ ⟨rfl, rfl⟩, ?_⟩
  rw [Machine.setSampler, State.chan_updChan_same]
  exact hunt

/-- A good character after a settled line. -/
theorem State.Settled.receiveCharacter (settled : s.Settled c) (b : Byte)
    (ended : ((concludeLine c (receiveCharacter c b s)).chan c).jammed = false) :
    (concludeLine c (receiveCharacter c b s)).Homed := by
  refine (settled.filed.receiveCharacter c b).ordered.concludeLine (fun free => ?_) ended
  obtain ⟨homed, hunt⟩ := settled.free ((SameMarks.receiveCharacter c b s c).symm.trans free)
  rw [receiveCharacter_hunt hunt]
  split
  · exact homed.updChan c ⟨rfl, rfl⟩ ⟨rfl, rfl⟩
  · exact homed

/-- A character error or a break after a settled line. -/
theorem State.Settled.damageInProgress (settled : s.Settled c)
    (ended : ((concludeLine c (damageInProgress c s)).chan c).jammed = false) :
    (concludeLine c (damageInProgress c s)).Homed := by
  refine (settled.filed.damageInProgress c).ordered.concludeLine (fun free => ?_) ended
  unfold Machine.damageInProgress at free ⊢
  split at free
  · next receiving =>
    obtain ⟨-, hunt⟩ := settled.free ((SameMarks.damage c s c).symm.trans free)
    simp [Channel.receiving, hunt] at receiving
  · next waits =>
    rw [if_neg waits]
    exact (settled.free free).1

/-- A command that leaves a part as it was ended no JAMMED. -/
theorem endsJam_acts (marked : (s.chan c).jammed = true ∨ (s.chan c).jamReached = true)
    (ended : (s.chan c).jammed = false ∧ (s.chan c).busyLength = 0) : False := by
  rcases marked with jammed | reached
  · exact nomatch jammed.symm.trans ended.1
  · obtain ⟨-, -, -, limit, long⟩ := Channel.jamReached_iff.1 reached
    rw [ended.2] at long
    omega

end

end Sys2Proof.Machine
end

/-! # Resolution, and the sweeps that every change of it brings (O15) -/

section
namespace Sys2Proof.Machine

section
variable {s t : State} {c : Chan} {i : Index}

/-! ## Requests that bring a sweep (R71) -/

/-- A request whose effect ends with a sweep, the answer and the considerations. -/
theorem State.Ordered.request {u : State} (ordered : u.Ordered) {effect : State → State} {r : Result} {d : List Byte}
    (eq : effect s = considerAll ((Machine.sweep u).answer r d)) : (takeRequest effect s).Homed := by
  refine State.Homed.takeRequest ?_
  rw [eq]
  exact (ordered.sweep.answer r d).considerAll

theorem State.Ordered.setStation (ordered : s.Ordered) (i : Index) (r : Option Station) : (s.setStation i r).Ordered :=
  ordered.of_rest rfl rfl rfl

theorem State.Ordered.writeStation (ordered : s.Ordered) (i : Index) (n : Station) : (Machine.writeStation i n s).Homed := by
  have answered {u : State} (homed : u.Homed) : (answerStation i u).Homed := by
    unfold answerStation
    split <;> exact homed.answer _ _
  unfold Machine.writeStation
  dsimp only
  refine (answered (State.Ordered.sweep ?_)).considerAll
  split
  · exact ordered.of_rest rfl rfl rfl
  · exact ordered.of_rest rfl rfl rfl

/-- ENABLE CHANNEL of a disabled channel: the engine is idled, and the sweep follows (R105). -/
theorem State.Ordered.startChannel (ordered : s.Ordered) (c : Chan) : (Machine.startChannel c s).Homed := by
  have started : (s.updChan c (Channel.started s.time.counter)).Ordered := ordered.updChan c rfl (.inr rfl)
  unfold Machine.startChannel
  refine (State.Ordered.sweep ?_).considerAll
  unfold holdIfCongested
  split
  · have exchange := Channel.queueOwn_exchange s.own.holdTime s.own.holdCutoff
      ((s.updChan c (Channel.started s.time.counter)).chan c)
    exact started.updChan c exchange.1 (.inl exchange.2)
  · exact started

/-- SET OWN with another default route (R60, R181). -/
theorem State.Ordered.setOwn (ordered : s.Ordered) {p : OwnBlock} {o : OwnStation} (given : s.givenOwn p = some o)
    (allowed : o.call = s.own.call ∨ ∀ c, (s.chan c).enabled = false) (differs : o.defaultRoute ≠ s.own.defaultRoute) :
    (takeRequest (Machine.setOwn p) s).Homed := by
  have written : (testCongestion { s with own := o }).Ordered :=
    State.Ordered.of_tested (s := { s with own := o }) (ordered.of_rest rfl rfl rfl) (.testCongestion _)
  refine written.request (r := .done) (d := o.bytes) ((setOwn_accepted given allowed).trans ?_)
  rw [sweepIfRouted_tested, if_neg differs]

/-! ## Events that bring a sweep (R65, R71, R103) -/

theorem State.Filed.takesJam (kept : s.Filed [] true true) (reached : (s.chan c).jamReached = true) :
    (Machine.takeJam c s).Homed := by
  have marked : (s.updChan c Channel.jam).Filed [] true true := kept.updChan c ⟨rfl, rfl, rfl⟩
  rw [show Machine.takeJam c s = _ from if_pos reached]
  exact (marked.withdraw c).ordered.sweep.conclude

theorem State.Ordered.takesOverLimit {st : Station} (ordered : s.Ordered) (held : s.station i = some st)
    (due : st.overLimitDue = true) (heard : st.reach = .heard) (monitored : 0 < st.interval) :
    (takeOverLimit i s).Homed := by
  have lost : st.lost = true := by simp [Station.lost, due, heard, monitored]
  unfold takeOverLimit loseStation reachChange
  rw [held, Option.any_some, Option.any_some, if_pos due, if_pos lost]
  refine (State.Ordered.sweep (ordered.of_rest ?_ ?_ ?_)).conclude <;> rw [State.updStation_of_some _ held] <;> rfl

/-- A change of the CD pin that ends busy, and JAMMED with it (R100, R103). -/
theorem State.Filed.takesCd (kept : s.Filed [] true true) {v : Bool} (busy : (s.chan c).busy = true)
    (clear : ({ s.chan c with cdPin := v } : Channel).busyNow = false)
    (marked : (s.chan c).jammed = true ∨ (s.chan c).jamReached = true) :
    (Machine.concludeLine c (setCd v c (Machine.takeJam c s))).Homed := by
  have pinned : (setCd v c (Machine.takeJam c s)).Filed [] true true := (kept.takeJam c).updChan c ⟨rfl, rfl, rfl⟩
  have jammed : ((setCd v c (Machine.takeJam c s)).chan c).jammed = true :=
    (State.SameMarks.updChan (Machine.takeJam c s) c (f := fun x => { x with cdPin := v }) rfl c).trans (takeJam_jammed marked)
  have line := (concludeLine_setCd c v s).2
  rw [Channel.cdChanged_ends busy clear] at line
  exact pinned.ordered.concludeLine (fun free => nomatch jammed.symm.trans free) line.jammed

/-- What a command with which JAMMED ends finds and leaves. -/
theorem State.EndsJam.ended {i : Instr} (ends : s.EndsJam c i) (run : exec i s = .next t) :
    ((s.chan c).jammed = true ∨ (s.chan c).jamReached = true) ∧ (t.chan c).jammed = false ∧ (t.chan c).busyLength = 0 := by
  obtain ⟨marked, u, run', ended⟩ := ends
  rw [Host.Outcome.next.inj (run'.symm.trans run)] at ended
  exact ⟨marked, ended⟩

/-- A command that may act on a line, and with which JAMMED ends, acts, and sweeps where its act does (R103). -/
theorem State.EndsJam.routed {i : Instr} {acts : Prop} [Decidable acts] {u : State} (ends : s.EndsJam c i)
    (eq : exec i s = .next (if acts then u else s)) (run : exec i s = .next t)
    (homed : (s.chan c).jammed = true ∨ (s.chan c).jamReached = true → (u.chan c).jammed = false → u.Homed) : t.Routed := by
  obtain ⟨marked, ended⟩ := ends.ended run
  obtain rfl := Host.Outcome.next.inj (run.symm.trans eq)
  split at ended
  · next here =>
    rw [if_pos here]
    exact (homed marked ended.1).routed
  · exact (endsJam_acts marked ended).elim

/-- The commands that bring a sweep leave the part routed (R71). -/
theorem State.BringsSweep.routed {i : Instr} (brings : s.BringsSweep i) (traffic : s.TrafficKept)
    (run : exec i s = .next t) : t.Routed := by
  have kept := State.filed_iff.2 traffic
  have ordered := kept.ordered
  have ends {u : State} (e : exec i s = .next u) (homed : u.Homed) : t.Routed := by
    rw [Host.Outcome.next.inj (run.symm.trans e)]
    exact homed.routed
  cases i
  all_goals try exact brings.elim
  case heardAgeOverLimit i =>
    obtain ⟨st, held, due, heard, monitored⟩ := brings
    exact ends rfl (ordered.takesOverLimit held due heard monitored)
  case forceStation b m =>
    obtain ⟨i, st, v, index, mark, held, differs⟩ := brings
    exact ends (exec_forceStation_of_mark mark) ((ordered.setStation i _).request
      ((onStation_occupied _ index held).trans (forceStation_changes held differs)))
  case jammed c => exact ends rfl (kept.takesJam brings)
  case goodCharacter c x =>
    exact State.EndsJam.routed brings rfl run fun marked ended => (kept.settlesLine marked _).receiveCharacter _ ended
  case characterError c x =>
    exact State.EndsJam.routed brings rfl run fun marked ended => (kept.settlesLine marked _).damageInProgress ended
  case breakReceived c =>
    exact State.EndsJam.routed brings rfl run fun marked ended => (kept.settlesLine marked _).damageInProgress ended
  case gapExpiry c =>
    exact State.EndsJam.routed brings rfl run fun marked ended => kept.expiresGap marked ended
  case cdInputChange c v =>
    obtain ⟨busy, clear, marked⟩ := brings
    exact ends rfl (kept.takesCd busy clear marked)
  case enableChannel b =>
    obtain ⟨called, c, channel, disabled⟩ := brings
    refine ends rfl (State.Homed.takeRequest ?_)
    rw [onChannel_named _ channel, enableChannel_starts called disabled]
    exact (ordered.startChannel c).answer _ _
  case disableChannel b =>
    obtain ⟨c, channel, enabled⟩ := brings
    exact ends rfl (((kept.takeJam c).stoppedAt c).ordered.request
      ((onChannel_named _ channel).trans (disableChannel_of_enabled enabled)))
  case clearChannels =>
    exact ends rfl ((kept.emptied.clearFrames _).ordered.request (clearChannels_of_enabled (State.anyEnabled_iff.2 brings)))
  case setStation p =>
    obtain ⟨i, n, parsed, relay⟩ := brings
    refine ends rfl (State.Homed.takeRequest ?_)
    rw [setStation_accepted parsed relay]
    exact ordered.writeStation i n
  case dropStation b =>
    obtain ⟨i, st, index, held, route, unnamed⟩ := brings
    exact ends rfl ((ordered.setStation i none).request
      ((onStation_occupied _ index held).trans (dropStation_drops unnamed route)))
  case setOwn p =>
    obtain ⟨o, given, differs, allowed⟩ := brings
    exact ends rfl (ordered.setOwn given allowed differs)

/-- A good frame that changes a station's reach state sweeps (R66, R67, R71). -/
theorem goodFrameFrom_routed {st : Station} (ordered : s.Ordered) (held : s.station i = some st)
    (settled : st.overLimitDue = false) (changes : st.refreshed.reach ≠ st.reach) : (goodFrameFrom i s).Routed := by
  rw [goodFrameFrom_of_settled held settled, if_pos changes]
  have refreshed : ({ s.setStation i (some st.refreshed) with reachChanged := true } : State).Ordered :=
    ordered.of_rest rfl rfl rfl
  exact refreshed.sweep.routed

/-! ## Resolution, by the kind of the candidate (R62) -/

theorem State.resolve_spec (s : State) (d : Call) :
    (d = s.own.call → s.resolve d = none) ∧
    (∀ i st, d ≠ s.own.call → s.candidate d = some i → s.station i = some st →
      (s.usable st = true → s.resolve d = some (hopOf i st)) ∧
      (s.usable st = false → st.fallback = none → s.resolve d = none) ∧
      (∀ j f, s.usable st = false → st.fallback = some j → s.station j = some f →
        (s.usable f = true → s.resolve d = some (hopOf j f)) ∧ (s.usable f = false → s.resolve d = none))) ∧
    (d ≠ s.own.call → s.candidate d = none → s.resolve d = none) ∧
    (∀ i st, s.station i = some st → st.call = d → (∀ j r, s.station j = some r → r.call = d → j = i) →
      s.candidate d = some i) ∧
    ((∀ i st, s.station i = some st → st.call ≠ d) → s.candidate d = s.own.defaultRoute) := by
  refine ⟨fun own => own ▸ State.resolve_own, fun i st other candidate held => ⟨fun usable => ?_, fun unusable none_ => ?_,
    fun j f unusable fallback heldJ => ⟨fun usable => ?_, fun unusableJ => ?_⟩⟩, State.resolve_of_no_candidate,
    fun i st held call one => State.candidate_of_holds held call one, State.candidate_of_unheld⟩
  · exact State.resolve_of_usable other candidate held usable
  · rw [State.resolve_of_unusable other candidate held unusable, none_]; rfl
  · rw [State.resolve_of_unusable other candidate held unusable, fallback]
    exact State.hopVia_of_usable heldJ usable
  · rw [State.resolve_of_unusable other candidate held unusable, fallback]
    exact State.hopVia_of_unusable heldJ unusableJ

end

/-- Settles O15: resolution and routes by their branches, the sweep entry by entry, and every command that brings one. -/
theorem routeResolved : Obligations.RouteResolved := by
  unfold Obligations.RouteResolved
  refine ⟨fun s st => ⟨fun direct => ?_, fun i r via relay => ?_⟩, State.resolve_spec,
    fun s e => ⟨State.route_of_not_relay, State.route_of_no_hop, fun i st role hop held => ⟨fun same => ?_, fun other => ?_⟩⟩,
    fun s => ⟨fun i st => State.collectionFor_of_station, rfl, fun a b c => ⟨comesBefore_queue_iff, comesBefore_unrouted_iff⟩⟩,
    fun s places stands nodup apart => ?_, fun s t i traffic brings run => brings.routed traffic run,
    fun s i st traffic held settled changes =>
      goodFrameFrom_routed (State.filed_iff.2 traffic).ordered held settled changes⟩
  · rw [State.usable_direct direct, State.selfUsable_iff]
  · rw [State.usable_via via relay, Bool.and_eq_true, State.selfUsable_iff, State.selfUsable_iff]
  · rw [State.route_of_relay role hop held, if_pos same]
  · rw [State.route_of_relay role hop held, if_neg other]
  · have seated : s.Seated := by
      refine ⟨fun mem => (places _ _ mem).1, fun mem mem' => (places _ _ mem).2 _ mem', stands _, nodup,
        fun held ready => ?_, fun {c d h} held held' => ?_⟩
      · obtain ⟨k, mem⟩ := stands _ ready
        exact (apart _ _ held).2.1 k mem
      · by_contra other
        exact (apart c h held).2.2 d (Ne.symm other) held'
    have moved := State.Moved.sweep s
    refine ⟨fun h ready => ?_, sweep_places (fun h k mem => (places h k mem).2) apart, fun accessions sorted k => ?_,
      fun c h w x staged => ⟨fun home => ?_, fun away => ?_⟩, fun c free => sweep_engine_of_not_staged free,
      fun h notReady free => (State.KeepsAt.sweep (seated.apart notReady) free).same.1, moved.chan, moved.rest⟩
    · obtain ⟨k, standsIn⟩ := seated.standsIn ready
      exact standsIn.sweep.1
    · rw [moved.comesBefore]
      exact (State.InOrder.sweep accessions apart sorted).sorted k
    · obtain ⟨keeps, engine⟩ := sweep_keeps_staged (apart c h (by rw [staged]; rfl)) staged home
      exact ⟨engine, keeps.same.1⟩
    · have withdrawn := sweep_withdraws_staged (apart c h (by rw [staged]; rfl)) staged away
      have back := withdrawn.2.back moved.routesAlike
      exact ⟨withdrawn.1, withdrawn.2.returns, back.2.2.mem⟩

end Sys2Proof.Machine
end
